-- ==== Sys2Proof/Word.lean ====
section
/-! DEFINITION. The word types of the FD-64: bytes, 32-bit counts and values of Engine Time. -/

namespace Sys2Proof

/-- One byte of a record, of a message or of the frame store. -/
abbrev Byte := BitVec 8

/-- A 32-bit count or field (running counts, tick numbers, serials, generations: R3, R66, R98, R35). -/
abbrev Word := BitVec 32

/-- A value of Engine Time: an unsigned 64-bit count of nanoseconds (R62). -/
abbrev Time := BitVec 64

end Sys2Proof
end

