-- ==== Sys2Proof/Syntax.lean ====
section
/-! DEFINITION. The commands of the FD-64: one constructor of Instr for each row of spec/opcode_table.json, and their
operands. What a command reads from host memory is an operand of it (log 4). -/

namespace Sys2Proof

/-- One of the streams 0 to 63 (03). -/
abbrev StreamId := Fin 64
/-- One of the members M0 to M7 (08). -/
abbrev MemberId := Fin 8

/-- What a read of one 4-byte word of the region header gave: the word, or a PCIe failure (1.9). -/
inductive CountRead where
  | failed
  | value (v : Word)
  deriving DecidableEq, Repr

/-- What the read of the 256-byte region header gave at a START (R4, check 2). -/
inductive HeaderRead where
  | failed
  | bytes (b : List Byte)
  deriving DecidableEq, Repr

/-- How a write to host memory ended (1.9). -/
inductive WriteResult where
  | ok
  | failed
  deriving DecidableEq, Repr

/-- A record of the order log as the order reader reads it, less its tag: the body length of its 8-byte frame and its
body (R11). -/
structure Record where
  len : Word
  body : List Byte
  deriving DecidableEq, Repr

/-- The two egress ports (09). -/
inductive Port where
  | e0
  | e1
  deriving DecidableEq, Repr

/-- What a REGISTER_WRITE may write: the registers of R1 that have no command of their own. `control` stands for a
write to CONTROL whose action code names no action (R2). -/
inductive WindowReg where
  | ident
  | regionLo
  | regionHi
  | status
  | control
  deriving DecidableEq, Repr

/-- The kinds of host-access that HACC tells apart (10.5). The read of the header at START is no kind of HACC: its
failure belongs to START (R4, R19). -/
inductive Access where
  | orderFillRead
  | orderRecordRead
  | orderTakenWrite
  | noticeTakenRead
  | noticeWrite
  | noticeFillWrite
  | statusWrite
  deriving DecidableEq, Repr

/-- The commands, in the table's order. -/
inductive Instr where
  | powerOn
  | start (header : HeaderRead) (taken fill : CountRead)
  | startDeferred (header : HeaderRead) (taken fill : CountRead)
  | stop
  | stopComplete
  | reset
  | scan (taken fill : CountRead)
  | resumeIntake (write : WriteResult) (taken fill : CountRead)
  | clearFault
  | clearLost
  | noticeLevelWrite (value : Word)
  | registerWrite (reg : WindowReg) (value : Word)
  | scanTimerExpiry (taken fill : CountRead)
  | furtherScan (taken fill : CountRead)
  | pad (r : Record)
  | unknownTag (tag : Word) (r : Record)
  | laydDefine (r : Record)
  | laydDelete (r : Record)
  | layc (entry : Fin 16)
  | clipDefine (r : Record)
  | clipDelete (r : Record)
  | memb (r : Record)
  | mrst (r : Record)
  | openStream (r : Record)
  | cuesReplace (r : Record)
  | cuesAppend (r : Record)
  | xprtPlay (r : Record)
  | xprtHold (r : Record)
  | xprtResume (r : Record)
  | xprtPark (r : Record)
  | xprtLocate (r : Record)
  | xprtStep (r : Record)
  | markSet (r : Record)
  | markClear (r : Record)
  | shut (r : Record)
  | sharAdd (r : Record)
  | sharRemove (r : Record)
  | sharMute (r : Record)
  | sharUnmute (r : Record)
  | hostAccessFault (access : Access) (offset : Word)
  | noticeBatchWrite (reads : List CountRead) (failAt : Option Nat)
  | noticeFillAdvance (write : WriteResult)
  | mirrorRecordWrite (failAt : Option (Fin 3))
  | tickTurn (stream : StreamId)
  | rlsd (stream : StreamId)
  | slipWaitEnd (stream : StreamId)
  | servicePass
  | linkPartnerDetected (member : MemberId)
  | attach (member : MemberId) (message : List Byte)
  | memberLinkLost (member : MemberId)
  | data (member : MemberId) (message : List Byte)
  | memberDone (member : MemberId) (message : List Byte)
  | memberMessageDiscard (member : MemberId) (message : List Byte)
  | tagExpiry (member : MemberId) (tag : Fin 32)
  | holdoffEnd (member : MemberId)
  | fragmentEligible (port : Port)
  | messageSent (port : Port)
  | portLinkUp (port : Port)
  | portLinkDown (port : Port)
  | portFrameReceived (port : Port) (frame : List Byte)
  deriving DecidableEq, Repr

end Sys2Proof
end

