-- ==== Sys2Proof/Decode.lean ====
section
/-! DEFINITION. The decoder of the command table: the table gives no row any bits, so no word spells a command. -/

namespace Sys2Proof

/-- The command that a word spells by the table's bits. No row of the table has bits (every row's list of fields is
empty), so there is none. -/
def decodeTableWord (_nbits _w : Nat) : Option Instr := none

end Sys2Proof
end

