-- ==== Sys2Proof/Machine/Bytes.lean ====
section
/-! DEFINITION. Bytes of records: little-endian fields read and written (10, first paragraph). -/

namespace Sys2Proof.Machine

/-- The byte at offset `i`, 0 beyond the end. Layout rules read only offsets inside the required length (R12, R159). -/
def u8 (b : List Byte) (i : Nat) : Nat := (b.getD i 0).toNat

/-- The 2-byte little-endian field at offset `i`. -/
def u16 (b : List Byte) (i : Nat) : Nat := u8 b i + 256 * u8 b (i + 1)

/-- The 4-byte little-endian field at offset `i`. -/
def u32 (b : List Byte) (i : Nat) : Nat := u16 b i + 65536 * u16 b (i + 2)

/-- The 8-byte little-endian field at offset `i`. -/
def u64 (b : List Byte) (i : Nat) : Nat := u32 b i + 4294967296 * u32 b (i + 4)

/-- The 4-byte field at offset `i` as a word. -/
def w32 (b : List Byte) (i : Nat) : Word := BitVec.ofNat 32 (u32 b i)

/-- A two's complement reading of an unsigned field below `2 * half` (R159). -/
def signed (half : Nat) (v : Nat) : Int := if v < half then (v : Int) else (v : Int) - (2 * half : Nat)

/-- The signed byte at offset `i`. -/
def s8 (b : List Byte) (i : Nat) : Int := signed 128 (u8 b i)

/-- The signed 2-byte field at offset `i`. -/
def s16 (b : List Byte) (i : Nat) : Int := signed 32768 (u16 b i)

/-- The `n` bytes from offset `i`, 0 beyond the end. -/
def bytesAt (b : List Byte) (i : Nat) : Nat → List Byte
  | 0 => []
  | n + 1 => b.getD i 0 :: bytesAt b (i + 1) n

/-- The `n`-byte little-endian form of `v`, taken modulo 256^n. -/
def le : Nat → Nat → List Byte
  | 0, _ => []
  | n + 1, v => BitVec.ofNat 8 (v % 256) :: le n (v / 256)

/-- The `n`-byte big-endian form of `v` (network headers, 10). -/
def be (n v : Nat) : List Byte := (le n v).reverse

/-- `n` reserved bytes, written as 0 (R159). -/
def res (n : Nat) : List Byte := List.replicate n 0

/-- The 2-byte two's complement form of a speed (10.6). -/
def leSpeed (v : Int) : List Byte := le 2 (v % 65536).toNat

/-- The value of a tag of four ASCII characters, first character at byte 0 (10.4). -/
def tagWord (a b c d : Nat) : Word := BitVec.ofNat 32 (a + 256 * b + 65536 * c + 16777216 * d)

end Sys2Proof.Machine
end

