-- ==== Sys2Proof/Config.lean ====
section
/-! DEFINITION. What the card fixes and the manual does not state, and the capacities of the engine. -/

namespace Sys2Proof

/-- The station address of an egress port, "a 48-bit address fixed in the card for each port" (R153): six bytes, first
byte sent first. No value is given, so none is chosen (log 21). The port is named by its code (10.1). -/
opaque Config.stationByte : Nat → Nat → Byte

/-- Free values of the model: the `n`-th value drawn where the manual gives a field no value (log 11). -/
opaque Config.freeByte : Nat → Byte

/-- Free 32-bit values of the model (log 11). -/
opaque Config.freeWord : Nat → Word

/-- Byte 2 of the body of FTCH, which 10.5 gives to SHWN only and for which it states no value in FTCH: a free value for
each stream, slot, serial and tick (log 41). -/
opaque Config.ftchByte : Nat → Nat → Word → Word → Byte

/-- Held notices (R15). -/
def Config.heldNotices : Nat := 64
/-- The limit of a port's allocated rate, in bytes per µs (R145). -/
def Config.portLimit : Nat := 12000
/-- Chunk records (R128). -/
def Config.chunkRecords : Nat := 8192
/-- Directory entries (07). -/
def Config.directoryEntries : Nat := 4096
/-- Pages of the frame store (R104). -/
def Config.pages : Nat := 32768
/-- Bytes of a page (R104). -/
def Config.pageBytes : Nat := 1048576
/-- Bytes of a volume block (02). -/
def Config.blockBytes : Nat := 4096
/-- Bytes of a full fragment (R151). -/
def Config.fragmentBytes : Nat := 8192
/-- The holdoff of a not-ready retry, in ns (R137). -/
def Config.holdoffNs : Nat := 65536

end Sys2Proof
end

