-- ==== Sys2Proof/Machine/State.lean ====
section
/-! DEFINITION. The state of the FD-64: every piece of state the manual gives each of its seven blocks, as plain data, and
the state after power-on. -/

namespace Sys2Proof.Machine

/-! ### Codes used by several blocks (10.1) -/

/-- Result codes of answers and completion notices (R13). -/
inductive Result where
  | ok
  | clamped
  | unknownTag
  | badLength
  | badField
  | noSuch
  | wrongState
  | inUse
  | overlap
  | full
  | empty
  | loopCross
  | noBandwidth
  | tooSlow
  | notHeld
  | notPermitted
  | superseded
  | abandoned
  | failed
  deriving DecidableEq, Repr

/-- The class of a read (R59). -/
inductive Cls where
  | play
  | scrub
  deriving DecidableEq, Repr

/-- The direction of a window entry (R84). -/
inductive Direction where
  | forward
  | reverse
  | none
  deriving DecidableEq, Repr

/-- The end of the cue list that an advance reached (R89). -/
inductive ListEnd where
  | atEnd
  | atStart
  deriving DecidableEq, Repr

/-- Late policies (R155). -/
inductive Policy where
  | skip
  | repeatLast
  | slip
  deriving DecidableEq, Repr

/-- Causes of a failure (R140) and UNMAPPED (R119). -/
inductive Cause where
  | timeout
  | notReady
  | mediumError
  | rangeError
  | linkDown
  | shortData
  | unmapped
  deriving DecidableEq, Repr

/-- Member link states (R124). -/
inductive Link where
  | down
  | training
  | up
  | stalled
  deriving DecidableEq, Repr

/-- The causes that MDWN carries (R125). -/
inductive DropCause where
  | lost
  | reset
  deriving DecidableEq, Repr

/-- What became of the tick that LATE reports (R155). -/
inductive LateOutcome where
  | fillMissing
  | repeated
  | fillFailed
  | frameAfterWait
  deriving DecidableEq, Repr

/-- A ready deadline: a value of ET, or "none", which compares greater than every value of ET (R63). -/
abbrev Deadline := Option Time

/-- The key of a frame: clip, generation and clip frame (R25, R106). -/
structure FrameKey where
  clip : Fin 256
  generation : Word
  frame : Nat
  deriving DecidableEq, Repr

/-! ### Notices (1.6, 10.5) -/

/-- What a notice says: its kind and the body of 10.5. -/
inductive NoticeBody where
  | answ (ref tag : Word) (position : Nat) (result : Result) (value : Nat)
  | layc (ref : Word) (entry : Fin 16) (result : Result) (deleted : Bool)
  | locd (ref : Word) (stream : StreamId) (result : Result) (cue offset : Nat)
  | rlsd (stream : StreamId)
  | shwn (stream : StreamId) (slot : Fin 8) (direction : Direction) (clip : Fin 256) (serial : Word) (frame : Nat)
      (tick : Word)
  | ftch (stream : StreamId) (slot : Fin 8) (clip : Fin 256) (serial : Word) (frame : Nat) (tick : Word)
  | hldn (stream : StreamId) (slot : Fin 8) (tick : Word)
  | endl (stream : StreamId) (which : ListEnd) (cue offset : Nat) (tick : Word) (picture : Bool) (clip : Byte)
      (frame : Word)
  | late (stream : StreamId) (policy : Policy) (outcome : LateOutcome) (clip : Fin 256) (tick : Word) (frame : Nat)
      (waited : Time) (deliver : Time)
  | mbup (member : MemberId) (cameFrom : Link) (capacity : Nat)
  | mdwn (member : MemberId) (cause : DropCause) (outstanding : Nat)
  | mstl (member : MemberId) (abandoned limit : Nat)
  | ptup (port : Port)
  | pdwn (port : Port)
  | stpd
  | fail (key : FrameKey) (cause : Cause) (chunk : Option (MemberId × Nat)) (total unsettled users : Nat)
  | hacc (access : Access) (offset : Word)
  | rgnf (kind : Nat) (position : Nat)
  deriving DecidableEq, Repr

/-- A notice raised and not yet written: its body and the ET of the event that caused it (1.6). -/
structure Notice where
  body : NoticeBody
  et : Time
  deriving DecidableEq, Repr

/-! ### Region Interface (01) -/

/-- The engine states of STATUS (R1). -/
inductive EngineState where
  | stopped
  | running
  | stopping
  | halted
  deriving DecidableEq, Repr

/-- The intake states of STATUS (R1): `taking` is OPEN. -/
inductive Intake where
  | taking
  | blocked
  deriving DecidableEq, Repr

/-- The working copies of R3, the play page reserve apart (it is the Frame Buffer Manager's). The scan period is held in
ns, clamped (R4). -/
structure Working where
  orderOffset : Nat
  orderSize : Nat
  noticeOffset : Nat
  noticeSize : Nat
  mirrorOffset : Nat
  periodNs : Nat
  deriving DecidableEq, Repr

/-- A batch of notices written and not yet covered by an advance of notice fill: their levels, and the bytes written,
PADs included (R16, R17). -/
structure Batch where
  levels : List Nat
  bytes : Nat
  deriving DecidableEq, Repr

/-- The Region Interface's state (01). -/
structure Region where
  regionLo : Word
  regionHi : Word
  noticeLevel : BitVec 3
  engine : EngineState
  intake : Intake
  faultLatch : Bool
  noticesLost : Bool
  startFault : BitVec 4
  startWaiting : Option Time
  base : BitVec 64
  work : Working
  orderTaken : Word
  noticeFill : Word
  noticeTaken : Word
  scan : Option Word
  scanWanted : Bool
  timer : Option Time
  notices : List Notice
  stopNotices : Nat
  batch : Option Batch
  marks : Vector Bool 64
  stopMarks : Vector Bool 64
  changeCounts : Vector Word 64
  deriving DecidableEq, Repr

/-! ### Layout Decoder (02) -/

/-- How stripes are assigned to columns (R23). -/
inductive Interleave where
  | rotate
  | skew
  deriving DecidableEq, Repr

/-- The definition of a layout entry (2.1). The member count W is the length of the member list. -/
structure LayoutDef where
  first : Nat
  last : Nat
  chunk : Nat
  members : List MemberId
  alternates : Option (List MemberId)
  base : Nat
  interleave : Interleave
  deriving DecidableEq, Repr

/-- What a RETIRING entry becomes: a definition, or a deletion (2.1). -/
inductive PendingOp where
  | define (d : LayoutDef)
  | delete
  deriving DecidableEq, Repr

/-- A pending definition with the reference of its order (R33). -/
structure Pending where
  ref : Word
  op : PendingOp
  deriving DecidableEq, Repr

/-- The state of a layout entry, with the fields that the state gives it (2.1). -/
inductive LayoutState where
  | empty
  | active (d : LayoutDef)
  | retiring (d : LayoutDef) (p : Pending)
  deriving DecidableEq, Repr

/-- A layout entry: its state and its in-flight count (2.1, R32). -/
structure LayoutEntry where
  state : LayoutState
  inFlight : Nat
  deriving DecidableEq, Repr

/-- A clip record (2.8). -/
structure Clip where
  defined : Bool
  generation : Word
  first : Nat
  head : Nat
  blocks : Nat
  bytes : Nat
  frames : Nat
  rateN : Nat
  rateD : Nat
  deriving DecidableEq, Repr

/-- The Layout Decoder's state: the layout table, the clip table and the hold (02). The hold names frames by their
directory entries, in the order they entered it. -/
structure Decoder where
  layout : Vector LayoutEntry 16
  clips : Vector Clip 256
  hold : List Nat
  deriving DecidableEq, Repr

/-! ### Stream Controller (03 to 06) -/

/-- Transport states (3.2). -/
inductive Transport where
  | closed
  | parked
  | running
  | held
  | seeking
  deriving DecidableEq, Repr

/-- A cue's loop: back to cue `back`, `count` times (R78). -/
structure Loop where
  back : Nat
  count : Nat
  deriving DecidableEq, Repr

/-- A cue of a cue list (R78). `gap` is the kind, `reverse` the direction, `live` the live counter. -/
structure Cue where
  gap : Bool
  reverse : Bool
  clip : Nat
  first : Nat
  length : Nat
  loop : Option Loop
  live : Nat
  deriving DecidableEq, Repr

/-- What a window entry presents (R84). -/
inductive EntryKind where
  | frame
  | repeated
  | gap
  deriving DecidableEq, Repr

/-- The stages of a window entry (R91). -/
inductive Stage where
  | projected
  | waiting
  | fetching
  | ready
  | failed
  | sending
  deriving DecidableEq, Repr

/-- Why a FILL is sent (10.7). -/
inductive FillReason where
  | gap
  | missing
  | failed
  deriving DecidableEq, Repr

/-- A mark tag: a slot and the serial the slot had (R100). -/
structure Tag where
  slot : Fin 8
  serial : Word
  deriving DecidableEq, Repr

/-- What a presentation is sent as (R95, R150): a FRAME with its frame bytes and directory reference, a REPEAT with the
frame named, or a FILL with its reason. -/
inductive SentAs where
  | frame (key : FrameKey) (bytes : Nat) (ref : Nat)
  | repeated (key : FrameKey)
  | fill (reason : FillReason)
  deriving DecidableEq, Repr

/-- A window entry (R90). `deadline` and `allowance` matter for a FRAME only. `sentAs` is present in stage SENDING
only (R95). -/
structure Entry where
  tick : Word
  index : BitVec 64
  deliver : Time
  deadline : Deadline
  allowance : Nat
  kind : EntryKind
  cue : Nat
  offset : Nat
  frame : Option FrameKey
  cls : Cls
  direction : Direction
  stage : Stage
  ref : Option Nat
  tags : List Tag
  changes : List (Nat × Nat)
  listEnd : Option ListEnd
  locate : Bool
  sentAs : Option SentAs
  deriving DecidableEq, Repr

/-- Mark kinds, actions and direction conditions (R98). -/
inductive MarkKind where
  | shown
  | fetched
  deriving DecidableEq, Repr

/-- What a mark does on firing (R98). -/
inductive MarkAction where
  | notify
  | hold
  deriving DecidableEq, Repr

/-- Which passes of a frame a mark counts (R98). -/
inductive MarkCond where
  | any
  | forward
  | reverse
  deriving DecidableEq, Repr

/-- A set mark slot (R98). `limit` absent is a mark without a count. -/
structure Mark where
  serial : Word
  clip : Fin 256
  frame : Nat
  kind : MarkKind
  action : MarkAction
  cond : MarkCond
  limit : Option Nat
  count : Nat
  deriving DecidableEq, Repr

/-- A viewer (R146). The addresses hold their bytes in the order they are sent. -/
structure Viewer where
  ethernet : List Byte
  ipv4 : List Byte
  udpPort : Nat
  muted : Bool
  deriving DecidableEq, Repr

/-- A locate in progress (3.1, R55): target, then-action, then-speed, order reference, decision ET, and whether its
entry has been projected (R56). -/
structure Locate where
  cue : Nat
  offset : Nat
  thenPlay : Bool
  thenSpeed : Int
  ref : Word
  decided : Time
  projected : Bool
  deriving DecidableEq, Repr

/-- The run and projection state of a stream (R65, R87). `fresh` says that the next entry presents the position copy
itself, without an advance (R93, step 2). -/
structure Projection where
  anchor : Time
  index : BitVec 64
  deliver : Time
  acc : Nat
  cue : Nat
  offset : Nat
  counters : List Nat
  prev : Option FrameKey
  fresh : Bool
  deriving DecidableEq, Repr

/-- A stream record (3.1). -/
structure Stream where
  state : Transport
  rateN : Nat
  rateD : Nat
  q : Nat
  r : Nat
  port : Port
  egress : Nat
  margin : Nat
  latency : Nat
  depth : Nat
  policy : Policy
  slipLimit : Nat
  cues : List Cue
  cue : Nat
  offset : Nat
  shown : Bool
  lastPresented : Option FrameKey
  speed : Int
  proj : Projection
  nextTick : Word
  releaseTime : Option Time
  releaseResume : Bool
  locate : Option Locate
  slipEnd : Option Time
  window : List Entry
  marks : Vector (Option Mark) 8
  serial : Word
  viewers : Vector (Option Viewer) 8
  lateCount : Word
  shownTick : Word
  shownClip : Byte
  shownFrame : Word
  deriving DecidableEq, Repr

/-! ### Frame Buffer Manager (07) -/

/-- The state of a directory entry that is not FREE (R105). -/
inductive FrameState where
  | filling
  | ready
  | failed
  deriving DecidableEq, Repr

/-- Where a frame stands with the Layout Decoder (7.1). `undecoded` is NONE. -/
inductive Decoding where
  | undecoded
  | held
  | awaiting
  | produced
  deriving DecidableEq, Repr

/-- A directory entry that is not FREE (7.1), numbered 0 to 4,095. Its reclaim membership is its place in the reclaim
list. -/
structure DirEntry where
  id : Nat
  state : FrameState
  key : FrameKey
  stale : Bool
  bytes : Nat
  pages : List Nat
  decoding : Decoding
  total : Nat
  unsettled : Nat
  users : Nat
  deadline : Deadline
  cls : Cls
  cause : Option Cause
  deriving DecidableEq, Repr

/-- A waiter of the allocation wait list (R113): the lookup of a window entry, or a frame released from the hold that
needs `need` chunk records. -/
inductive Waiter where
  | request (stream : StreamId) (tick : Word) (key : FrameKey) (deadline : Deadline) (cls : Cls)
  | frame (id need : Nat) (deadline : Deadline) (cls : Cls)
  deriving DecidableEq, Repr

/-- The Frame Buffer Manager's state (07): the directory entries that are not FREE, the reclaim list, the wait list, the
play page reserve, whether a service pass is called for (R114), and the frame store (canonical cells, Machine/Memory.lean). -/
structure FrameBuffer where
  dir : List DirEntry
  reclaim : List Nat
  waiters : List Waiter
  reserve : Nat
  passWanted : Bool
  store : List Host.Cell
  deriving DecidableEq, Repr

/-! ### Member Dispatcher (08) -/

/-- The state of a tag (R131): an ISSUED tag holds its chunk, named by the frame's directory entry and the chunk's frame
byte offset, the expiry and the offsets that have arrived. -/
inductive TagState where
  | free
  | issued (frame offset : Nat) (expiry : Option Time) (arrived : List Nat)
  | abandoned
  deriving DecidableEq, Repr

/-- A member and its link (R124, R126, R131). -/
structure Member where
  link : Link
  capacity : Nat
  limit : Nat
  reserve : Nat
  timeoutCode : Nat
  windowCode : Nat
  tags : Vector TagState 32
  deriving DecidableEq, Repr

/-- The state of a held chunk record (R128). A record that settles DONE or FAILED is reported and goes back to the pool
in the same step (R142), so a held record is QUEUED or ISSUED. -/
inductive ChunkState where
  | queued
  | issued
  deriving DecidableEq, Repr

/-- A chunk record held for a chunk (R128). The pair (frame, offset) names it. -/
structure Chunk where
  frame : Nat
  offset : Nat
  layout : Fin 16
  member : MemberId
  alternate : Option MemberId
  altTried : Bool
  block : Nat
  count : Nat
  deadline : Deadline
  cls : Cls
  arrival : BitVec 64
  firstIssue : Option Time
  holdoff : Option Time
  state : ChunkState
  deriving DecidableEq, Repr

/-- The Member Dispatcher's state (08): the members, the chunk records that are not in the pool, and the arrival
sequence. A member's queue is its QUEUED records by deadline and arrival (R129). -/
structure Dispatcher where
  members : Vector Member 8
  chunks : List Chunk
  arrival : BitVec 64
  deriving DecidableEq, Repr

/-! ### Egress Scheduler (09) -/

/-- A recipient of a presentation with the treatment it had at the start (R150). -/
structure Recipient where
  viewer : Fin 8
  muted : Bool
  deriving DecidableEq, Repr

/-- A presentation record (R150). The messages not yet begun are those of fragment `fragment` to `todo` and then those
of the later fragments (R151). -/
structure Presentation where
  port : Port
  egress : Nat
  tick : Word
  deliver : Time
  start : Time
  sentAs : SentAs
  marked : Bool
  listEnd : Bool
  recipients : List Recipient
  fragment : Nat
  todo : List Recipient
  deriving DecidableEq, Repr

/-- The message a transmitter is sending (R152). -/
structure Transmission where
  stream : StreamId
  tick : Word
  viewer : Fin 8
  deriving DecidableEq, Repr

/-- An egress port: link state, allocated rate and transmitter (R144, R145, R152). -/
structure PortState where
  up : Bool
  allocated : Nat
  transmitting : Option Transmission
  deriving DecidableEq, Repr

/-- The Egress Scheduler's state (09). The viewers are in the stream records (3.1). -/
structure Egress where
  port0 : PortState
  port1 : PortState
  presentations : Vector (Option Presentation) 64
  deriving DecidableEq, Repr

/-! ### The machine -/

/-- What the engine puts on its outsides: a message-signalled interrupt (R17), a write to host memory, a message on a
member link (READ), a delivery message whose transmission begins, and the cutting short of one (R154). -/
inductive Output where
  | msi
  | hostWrite (address : BitVec 64) (bytes : List Byte)
  | memberMessage (member : MemberId) (bytes : List Byte)
  | delivery (port : Port) (bytes : List Byte)
  | cutShort (port : Port)
  deriving DecidableEq, Repr

/-- The state of the FD-64, block by block. `sent`, `drawn` and `pending` are the model's own: what the engine has put on
its outsides, oldest first (log 5), how many free values have been drawn (log 11), and the commands that wait, first in,
first out. -/
structure State where
  region : Region
  et : Time
  decoder : Decoder
  streams : Vector Stream 64
  buffer : FrameBuffer
  dispatcher : Dispatcher
  egress : Egress
  sent : List Output
  drawn : Nat
  pending : List Instr
  deriving DecidableEq, Repr

/-- Faults: none. Nothing in the manual stops the engine: a failed host-access sets the fault latch or enters HALTED
(R19, R20), a faulty log record blocks intake (R11), and each is a next state (log 23). Nobody raises one: safe. -/
inductive Fault where
  deriving DecidableEq, Repr

/-- Refusals. `notModelled` is raised by an arm of exec whose command has no meaning yet; no arm is so now. Safe: a refused
command has no next state. -/
inductive Refusal where
  | notModelled (mnemonic : String)
  deriving DecidableEq, Repr

/-! ### Initial values -/

/-- The Region Interface after power-on (R1, R8, R9, R15, R18). -/
def Region.reset : Region where
  regionLo := 0
  regionHi := 0
  noticeLevel := 7
  engine := .stopped
  intake := .taking
  faultLatch := false
  noticesLost := false
  startFault := 0
  startWaiting := none
  base := 0
  work := ⟨0, 0, 0, 0, 0, 0⟩
  orderTaken := 0
  noticeFill := 0
  noticeTaken := 0
  scan := none
  scanWanted := false
  timer := none
  notices := []
  stopNotices := 0
  batch := none
  marks := Vector.replicate 64 false
  stopMarks := Vector.replicate 64 false
  changeCounts := Vector.replicate 64 0

/-- An EMPTY clip of generation 0 (R35). -/
def Clip.reset : Clip := ⟨false, 0, 0, 0, 0, 0, 0, 0, 0⟩

/-- An EMPTY layout entry (R22). -/
def LayoutEntry.reset : LayoutEntry := ⟨.empty, 0⟩

/-- The Layout Decoder after power-on and RESET (R22, R35). -/
def Decoder.reset : Decoder :=
  ⟨Vector.replicate 16 LayoutEntry.reset, Vector.replicate 256 Clip.reset, []⟩

/-- The run and projection state after power-on and RESET (R65). -/
def Projection.reset : Projection := ⟨0, 0, 0, 0, 0, 0, [], none, false⟩

/-- A stream record after power-on and RESET (R38, R64, R65, R98, R146). -/
def Stream.reset : Stream where
  state := .closed
  rateN := 0
  rateD := 0
  q := 0
  r := 0
  port := .e0
  egress := 0
  margin := 0
  latency := 0
  depth := 0
  policy := .skip
  slipLimit := 0
  cues := []
  cue := 0
  offset := 0
  shown := false
  lastPresented := none
  speed := 0
  proj := Projection.reset
  nextTick := 0
  releaseTime := none
  releaseResume := false
  locate := none
  slipEnd := none
  window := []
  marks := Vector.replicate 8 none
  serial := 0
  viewers := Vector.replicate 8 none
  lateCount := 0
  shownTick := 0
  shownClip := 0
  shownFrame := 0

/-- The Frame Buffer Manager after power-on (R105, R112, R113, R123). -/
def FrameBuffer.reset : FrameBuffer := ⟨[], [], [], 0, false, []⟩

/-- A member after power-on: DOWN, capacity 0 and the default settings (R124, R126). -/
def Member.reset : Member := ⟨.down, 0, 16, 4, 6, 3, Vector.replicate 32 .free⟩

/-- The Member Dispatcher after power-on (R124, R128, R129). -/
def Dispatcher.reset : Dispatcher := ⟨Vector.replicate 8 Member.reset, [], 0⟩

/-- A port after power-on (R144, R145). -/
def PortState.reset : PortState := ⟨false, 0, none⟩

/-- The Egress Scheduler after power-on (R144, R158). -/
def Egress.reset : Egress := ⟨PortState.reset, PortState.reset, Vector.replicate 64 none⟩

/-- The state right after power-on (R1, R22, R35, R38, R62, R105, R143, R158). -/
def State.reset : State where
  region := Region.reset
  et := 0
  decoder := Decoder.reset
  streams := Vector.replicate 64 Stream.reset
  buffer := FrameBuffer.reset
  dispatcher := Dispatcher.reset
  egress := Egress.reset
  sent := []
  drawn := 0
  pending := []

end Sys2Proof.Machine
end

