-- ==== Sys2Proof/Machine/Operands.lean ====
section
/-! DEFINITION. The operand forms: order tags, the fields of order records (10.4), cues, and the messages that arrive on
a member link (10.8). -/

namespace Sys2Proof.Machine

/-! ### Order tags (10.4) -/

def tagLAYD : Word := tagWord 76 65 89 68
def tagCLIP : Word := tagWord 67 76 73 80
def tagMEMB : Word := tagWord 77 69 77 66
def tagMRST : Word := tagWord 77 82 83 84
def tagOPEN : Word := tagWord 79 80 69 78
def tagCUES : Word := tagWord 67 85 69 83
def tagXPRT : Word := tagWord 88 80 82 84
def tagMARK : Word := tagWord 77 65 82 75
def tagSHAR : Word := tagWord 83 72 65 82
def tagSHUT : Word := tagWord 83 72 85 84
def tagPAD : Word := tagWord 80 65 68 32

/-- The kinds of record of the order log (R12). -/
inductive OrderKind where
  | layd
  | clip
  | memb
  | mrst
  | opens
  | cues
  | xprt
  | mark
  | shar
  | shut
  | pad
  | unknown
  deriving DecidableEq, Repr

/-- The kind that a tag names; tags are compared byte for byte (10.4). -/
def orderKind (tag : Word) : OrderKind :=
  if tag = tagLAYD then .layd
  else if tag = tagCLIP then .clip
  else if tag = tagMEMB then .memb
  else if tag = tagMRST then .mrst
  else if tag = tagOPEN then .opens
  else if tag = tagCUES then .cues
  else if tag = tagXPRT then .xprt
  else if tag = tagMARK then .mark
  else if tag = tagSHAR then .shar
  else if tag = tagSHUT then .shut
  else if tag = tagPAD then .pad
  else .unknown

/-- The required body length (R159); a length that depends on a count is reckoned from the count in the body. -/
def requiredLength (k : OrderKind) (b : List Byte) : Nat :=
  match k with
  | .layd => 56
  | .clip => 48
  | .memb => 16
  | .mrst => 8
  | .shut => 8
  | .opens => 56 + 16 * u8 b 45
  | .cues => 16 + 16 * u8 b 7
  | .xprt => 40
  | .mark => 24
  | .shar => 24
  | .pad => 0
  | .unknown => 0

/-- The reference in an answer: the first four bytes of the body, or 0 when it is shorter (R12). -/
def reference (b : List Byte) : Word := if b.length < 4 then 0 else w32 b 0

/-! ### Fields of LAYD (10.4) -/

/-- A list of member numbers, absent when one of them is above 7 (R27). -/
def memberList : List Nat → Option (List MemberId)
  | [] => some []
  | n :: rest =>
    if h : n < 8 then (memberList rest).map (fun r => (⟨n, h⟩ : MemberId) :: r) else none

/-- The numbers at the `n` bytes from offset `i`. -/
def numbersAt (b : List Byte) (i n : Nat) : List Nat := (bytesAt b i n).map (·.toNat)

/-- The rows that a definition spans: ceil(S / W) with S = floor((last − first) / C) + 1 (R23). -/
def LayoutDef.rows (d : LayoutDef) : Nat :=
  ((d.last - d.first) / d.chunk + 1 + d.members.length - 1) / d.members.length

/-- No number appears twice. -/
def distinctMembers : List MemberId → Bool
  | [] => true
  | m :: rest => !rest.contains m && distinctMembers rest

/-- Alternate `i` is a member other than member `i` (R27). -/
def alternatesDiffer : List MemberId → List MemberId → Bool
  | m :: ms, a :: as => m != a && alternatesDiffer ms as
  | _, _ => true

/-- The field checks of R27 that are left once every field has been read. -/
def LayoutDef.fieldsOk (d : LayoutDef) : Bool :=
  (d.chunk == 16 || d.chunk == 32 || d.chunk == 64 || d.chunk == 128 || d.chunk == 256)
    && decide (d.first ≤ d.last) && decide (d.last < 2 ^ 48)
    && distinctMembers d.members
    && (match d.alternates with | none => true | some a => alternatesDiffer d.members a)
    && decide (d.base + d.rows * d.chunk - 1 < 2 ^ 48) && decide (d.base < 2 ^ 48)

/-- The definition that a LAYD body asks for, absent when R27 refuses a field of it. List bytes at positions W and above
are disregarded, and so is the alternate list when its flag is 0 (10.4). -/
def layoutDef (b : List Byte) : Option LayoutDef :=
  let w := u8 b 5
  if w = 0 ∨ 8 < w then none
  else if 1 < u8 b 6 ∨ 1 < u8 b 7 then none
  else
    match memberList (numbersAt b 40 w) with
    | none => none
    | some ms =>
      let d (alts : Option (List MemberId)) : LayoutDef :=
        { first := u64 b 16, last := u64 b 24, chunk := u16 b 8, members := ms, alternates := alts, base := u64 b 32,
          interleave := if u8 b 6 = 0 then .rotate else .skew }
      if u8 b 7 = 0 then
        if (d none).fieldsOk then some (d none) else none
      else
        match memberList (numbersAt b 48 w) with
        | none => none
        | some as => if (d (some as)).fieldsOk then some (d (some as)) else none

/-! ### Fields of CLIP (10.4) -/

/-- The clip that a CLIP body defines, with the generation it is to have, absent when R36 refuses a field of it. -/
def clipDef (b : List Byte) (generation : Word) : Option Clip :=
  let first := u64 b 8
  let head := u64 b 16
  let blocks := u32 b 24
  let bytes := u32 b 28
  let frames := u32 b 32
  let n := u32 b 36
  let d := u32 b 40
  if blocks = 0 ∨ 16384 < blocks then none
  else if bytes < (blocks - 1) * 4096 + 1 ∨ blocks * 4096 < bytes then none
  else if frames = 0 ∨ 16777216 < frames then none
  else if n < 1 ∨ 480000 < n ∨ d < 1 ∨ 2002 < d ∨ n < d ∨ 240 * d < n then none
  else if 2 ^ 48 ≤ first ∨ 2 ^ 48 ≤ first + head + frames * blocks - 1 then none
  else some ⟨true, generation, first, head, blocks, bytes, frames, n, d⟩

/-! ### Cues (10.4) -/

/-- A cue as a record holds it, before the checks of R79. -/
structure RawCue where
  kind : Nat
  direction : Nat
  clip : Nat
  first : Nat
  length : Nat
  loopFlag : Nat
  back : Nat
  count : Nat
  deriving DecidableEq, Repr

/-- The cue at offset `i` of a body. -/
def rawCue (b : List Byte) (i : Nat) : RawCue :=
  { kind := u8 b i, direction := u8 b (i + 1), clip := u16 b (i + 2), first := u32 b (i + 4), length := u32 b (i + 8),
    loopFlag := u8 b (i + 12), back := u8 b (i + 13), count := u16 b (i + 14) }

/-- The `n` cues from offset `i` of a body. -/
def rawCues (b : List Byte) (i : Nat) : Nat → List RawCue
  | 0 => []
  | n + 1 => rawCue b i :: rawCues b (i + 16) n

/-- A checked cue, with its live counter loaded with its count (R78). -/
def RawCue.toCue (c : RawCue) : Cue :=
  { gap := c.kind == 1, reverse := c.direction == 1, clip := c.clip, first := c.first, length := c.length,
    loop := if c.loopFlag = 0 then none else some ⟨c.back, c.count⟩, live := if c.loopFlag = 0 then 0 else c.count }

/-! ### Messages of a member link (10.8, R160) -/

/-- A message from a member as decoded: DATA, DONE or ATTACH, or one that is discarded (R160). -/
inductive LinkMessage where
  | data (tag : Fin 32) (offset : Nat) (block : List Byte)
  | done (tag : Fin 32) (status : Nat)
  | attach (capacity : Nat)
  | discarded
  deriving DecidableEq, Repr

/-- The decoding of R160: a bad type, a length that is not the type's, or a tag above 31 is discarded; a DONE status
above 3 is MEDIUM_ERROR; a capacity above 2^48 is 2^48. -/
def linkMessage (b : List Byte) : LinkMessage :=
  if u8 b 0 = 2 ∧ b.length = 4104 then
    if h : u8 b 1 < 32 then .data ⟨u8 b 1, h⟩ (u16 b 2) (b.drop 8) else .discarded
  else if u8 b 0 = 3 ∧ b.length = 8 then
    if h : u8 b 1 < 32 then .done ⟨u8 b 1, h⟩ (if 3 < u8 b 2 then 2 else u8 b 2) else .discarded
  else if u8 b 0 = 4 ∧ b.length = 16 then .attach (min (u64 b 8) (2 ^ 48))
  else .discarded

end Sys2Proof.Machine
end

