-- ==== Sys2Proof/Machine/Memory.lean ====
section
/-! DEFINITION. The frame store (R104): 32 GiB of bytes as a canonical list of cells. Addresses rise strictly, and no
cell holds 0, which is what an unlisted address reads as (DESIGN CHOICE, log 7). -/

namespace Sys2Proof.Machine

/-- What a byte reads as that nothing has written (DESIGN CHOICE, log 7). -/
def unwritten : Byte := 0

/-- One byte of the frame store. -/
def readByte (store : List Host.Cell) (a : Nat) : Byte :=
  match store.find? (fun c => c.1 == a) with
  | some c => c.2
  | none => unwritten

/-- The cells of the bytes from address `a`, less those that an unlisted address reads as. -/
def cellsOf (a : Nat) : List Byte → List Host.Cell
  | [] => []
  | b :: rest => if b = unwritten then cellsOf (a + 1) rest else (a, b) :: cellsOf (a + 1) rest

/-- The frame store with `bytes` written from address `a` on. -/
def writeBytes (store : List Host.Cell) (a : Nat) (bytes : List Byte) : List Host.Cell :=
  store.filter (fun c => decide (c.1 < a)) ++ cellsOf a bytes
    ++ store.filter (fun c => decide (a + bytes.length ≤ c.1))

/-- Addresses rise strictly from above `low`, and no cell reads as an unlisted address does. -/
def canonicalFrom (low : Nat) : List Host.Cell → Bool
  | [] => true
  | c :: rest => decide (low ≤ c.1) && c.2 != unwritten && canonicalFrom (c.1 + 1) rest

/-- The canonical form of the frame store. -/
def Memory.wf (store : List Host.Cell) : Bool := canonicalFrom 0 store

/-- The bytes of the frame store from address `a`. -/
def readBytesAt (store : List Host.Cell) (a : Nat) : Nat → List Byte
  | 0 => []
  | n + 1 => readByte store a :: readBytesAt store (a + 1) n

/-- The address of frame byte `b` in a page list: page list[floor(b / 1,048,576)], at byte b mod 1,048,576 of it
(R104). Absent beyond the page list. -/
def frameAddress (pages : List Nat) (b : Nat) : Option Nat :=
  match pages[b / Config.pageBytes]? with
  | none => none
  | some p => some (p * Config.pageBytes + b % Config.pageBytes)

end Sys2Proof.Machine
end

