-- ==== Sys2Proof/Machine/Records.lean ====
section
/-! DEFINITION. The byte layouts of what the engine writes: codes (10.1), notices (10.5), the delivery message (10.7) and
READ (10.8). -/

namespace Sys2Proof.Machine

/-! ### Codes (10.1) -/

def Result.code : Result → Nat
  | .ok => 0
  | .clamped => 1
  | .unknownTag => 2
  | .badLength => 3
  | .badField => 4
  | .noSuch => 5
  | .wrongState => 6
  | .inUse => 7
  | .overlap => 8
  | .full => 9
  | .empty => 10
  | .loopCross => 11
  | .noBandwidth => 12
  | .tooSlow => 13
  | .notHeld => 14
  | .notPermitted => 15
  | .superseded => 16
  | .abandoned => 17
  | .failed => 18

def Transport.code : Transport → Nat
  | .closed => 0
  | .parked => 1
  | .running => 2
  | .held => 3
  | .seeking => 4

def portCode : Port → Nat
  | .e0 => 0
  | .e1 => 1

def Policy.code : Policy → Nat
  | .skip => 0
  | .repeatLast => 1
  | .slip => 2

def Direction.code : Direction → Nat
  | .forward => 0
  | .reverse => 1
  | .none => 2

def Cause.code : Cause → Nat
  | .timeout => 1
  | .notReady => 2
  | .mediumError => 3
  | .rangeError => 4
  | .linkDown => 5
  | .shortData => 6
  | .unmapped => 7

def Link.code : Link → Nat
  | .down => 0
  | .training => 1
  | .up => 2
  | .stalled => 3

def DropCause.code : DropCause → Nat
  | .lost => 0
  | .reset => 1

def ListEnd.code : ListEnd → Nat
  | .atEnd => 0
  | .atStart => 1

def LateOutcome.code : LateOutcome → Nat
  | .fillMissing => 0
  | .repeated => 1
  | .fillFailed => 2
  | .frameAfterWait => 3

def accessCode : Access → Nat
  | .orderFillRead => 1
  | .orderRecordRead => 2
  | .orderTakenWrite => 3
  | .noticeTakenRead => 4
  | .noticeWrite => 5
  | .noticeFillWrite => 6
  | .statusWrite => 7

def FillReason.code : FillReason → Nat
  | .gap => 1
  | .missing => 2
  | .failed => 3

def boolCode (b : Bool) : Nat := if b then 1 else 0

/-! ### Notices (1.6, 10.5) -/

/-- The level of each kind of notice (1.6). -/
def NoticeBody.level : NoticeBody → Nat
  | .answ .. => 1
  | .layc .. => 2
  | .locd .. => 2
  | .rlsd .. => 2
  | .shwn .. => 3
  | .ftch .. => 2
  | .hldn .. => 3
  | .endl .. => 3
  | .late .. => 4
  | .mbup .. => 4
  | .mdwn .. => 6
  | .mstl .. => 6
  | .ptup .. => 4
  | .pdwn .. => 6
  | .stpd => 4
  | .fail .. => 5
  | .hacc .. => 7
  | .rgnf .. => 7

/-- The tag of each kind of notice (10.5). -/
def NoticeBody.tag : NoticeBody → Word
  | .answ .. => tagWord 65 78 83 87
  | .layc .. => tagWord 76 65 89 67
  | .locd .. => tagWord 76 79 67 68
  | .rlsd .. => tagWord 82 76 83 68
  | .shwn .. => tagWord 83 72 87 78
  | .ftch .. => tagWord 70 84 67 72
  | .hldn .. => tagWord 72 76 68 78
  | .endl .. => tagWord 69 78 68 76
  | .late .. => tagWord 76 65 84 69
  | .mbup .. => tagWord 77 66 85 80
  | .mdwn .. => tagWord 77 68 87 78
  | .mstl .. => tagWord 77 83 84 76
  | .ptup .. => tagWord 80 84 85 80
  | .pdwn .. => tagWord 80 68 87 78
  | .stpd => tagWord 83 84 80 68
  | .fail .. => tagWord 70 65 73 76
  | .hacc .. => tagWord 72 65 67 67
  | .rgnf .. => tagWord 82 71 78 70

/-- The body of each kind of notice, from byte 24 of its record (10.5). Byte 2 of FTCH is a free value (log 41). -/
def NoticeBody.bytes : NoticeBody → List Byte
  | .answ ref tag position result value =>
    le 4 ref.toNat ++ le 4 tag.toNat ++ le 4 position ++ le 2 result.code ++ res 2 ++ le 4 value ++ res 4
  | .layc ref entry result deleted =>
    le 4 ref.toNat ++ le 1 entry ++ le 1 result.code ++ le 1 (boolCode deleted) ++ res 1
  | .locd ref stream result cue offset =>
    le 4 ref.toNat ++ le 1 stream ++ le 1 result.code ++ le 1 cue ++ res 1 ++ le 4 offset ++ res 4
  | .rlsd stream => le 1 stream ++ res 7
  | .shwn stream slot direction clip serial frame tick =>
    le 1 stream ++ le 1 slot ++ le 1 direction.code ++ le 1 clip ++ le 4 serial.toNat ++ le 4 frame ++ le 4 tick.toNat
      ++ res 8
  | .ftch stream slot clip serial frame tick =>
    le 1 stream ++ le 1 slot ++ [Config.ftchByte stream slot serial tick] ++ le 1 clip ++ le 4 serial.toNat ++ le 4 frame
      ++ le 4 tick.toNat ++ res 8
  | .hldn stream slot tick => le 1 stream ++ le 1 slot ++ res 2 ++ le 4 tick.toNat
  | .endl stream which cue offset tick picture clip frame =>
    le 1 stream ++ le 1 which.code ++ le 1 cue ++ le 1 (boolCode picture) ++ le 4 offset ++ le 4 tick.toNat
      ++ le 1 clip.toNat ++ res 3 ++ le 4 frame.toNat ++ res 4
  | .late stream policy outcome clip tick frame waited deliver =>
    le 1 stream ++ le 1 policy.code ++ le 1 outcome.code ++ le 1 clip ++ le 4 tick.toNat ++ le 4 frame
      ++ le 4 waited.toNat ++ le 8 deliver.toNat
  | .mbup member cameFrom capacity => le 1 member ++ le 1 cameFrom.code ++ res 6 ++ le 8 capacity
  | .mdwn member cause outstanding => le 1 member ++ le 1 cause.code ++ le 1 outstanding ++ res 5
  | .mstl member abandoned limit => le 1 member ++ le 1 abandoned ++ le 1 limit ++ res 5
  | .ptup port => le 1 (portCode port) ++ res 7
  | .pdwn port => le 1 (portCode port) ++ res 7
  | .stpd => []
  | .fail key cause chunk total unsettled users =>
    le 1 key.clip ++ le 1 cause.code ++ le 1 (match chunk with | none => 255 | some c => c.1) ++ res 1
      ++ le 4 key.generation.toNat ++ le 4 key.frame ++ res 4 ++ le 8 (match chunk with | none => 0 | some c => c.2)
      ++ le 2 total ++ le 2 unsettled ++ le 2 users ++ res 2
  | .hacc access offset => le 1 (accessCode access) ++ res 3 ++ le 4 offset.toNat
  | .rgnf kind position => le 1 kind ++ res 3 ++ le 4 position

/-- A notice record: the 24-byte head and the body. The body length counts every byte after byte 7 (10.5). -/
def Notice.bytes (n : Notice) : List Byte :=
  le 4 n.body.tag.toNat ++ le 4 (16 + n.body.bytes.length) ++ le 1 n.body.level ++ res 7 ++ le 8 n.et.toNat
    ++ n.body.bytes

/-- The length of a notice record. -/
def Notice.size (n : Notice) : Nat := 24 + n.body.bytes.length

/-- The 8-byte frame of a PAD that covers `n` bytes; its body length is `n` less 8 (R16). -/
def padBytes (n : Nat) : List Byte := le 4 (tagWord 80 65 68 32).toNat ++ le 4 (n - 8)

/-! ### Member link messages (10.8) -/

/-- READ: a tag, a block count and a member block. -/
def readBytes (tag count block : Nat) : List Byte := le 1 1 ++ le 1 tag ++ le 2 count ++ res 4 ++ le 8 block

/-! ### The delivery message (R153, 10.7) -/

/-- One message of a presentation: to a viewer, with a fragment (its offset and bytes) or header-only, and whether it
carries the flag LAST. -/
structure Message where
  viewer : Fin 8
  fragment : Option (Nat × List Byte)
  last : Bool
  deriving DecidableEq, Repr

def Message.payload (m : Message) : List Byte := match m.fragment with | none => [] | some f => f.2

/-- The 48-byte delivery header (R153, 10.7). -/
def deliveryHeader (stream : StreamId) (p : Presentation) (m : Message) : List Byte :=
  let kind := match p.sentAs with | .frame .. => 0 | .repeated _ => 1 | .fill _ => 2
  let reason := match p.sentAs with | .fill r => r.code | _ => 0
  let key : Nat × Nat :=
    match p.sentAs with
    | .frame k _ _ => (k.clip, k.frame)
    | .repeated k => (k.clip, k.frame)
    | .fill _ => (0, 0)
  let bytes := match p.sentAs with | .frame _ b _ => b | _ => 0
  let flags := boolCode m.last + 2 * boolCode p.marked + 4 * boolCode p.listEnd
  let fragment : Nat := match m.fragment with | none => 0 | some f => f.1
  le 1 1 ++ le 1 kind ++ le 1 reason ++ le 1 flags ++ le 1 stream ++ le 1 m.viewer ++ le 1 key.1 ++ res 1
    ++ le 4 p.tick.toNat ++ le 4 key.2 ++ le 4 bytes ++ le 4 fragment ++ le 4 m.payload.length
    ++ le 4 p.deliver.toNat ++ res 16

/-- The sum of the 16-bit big-endian words of a header. -/
def sum16 : List Byte → Nat
  | a :: b :: rest => 256 * a.toNat + b.toNat + sum16 rest
  | [a] => 256 * a.toNat
  | [] => 0

/-- The ones' complement of the ones' complement sum (10.7). The sum of ten 16-bit words folds twice. -/
def checksum16 (b : List Byte) : Nat :=
  let fold (n : Nat) := n % 65536 + n / 65536
  65535 - fold (fold (sum16 b))

/-- The IPv4 header of a datagram of `length` bytes in all, with the checksum given (10.7). The type of service byte is 0
(log 33). -/
def ipv4Header (length : Nat) (source dest : List Byte) (checksum : Nat) : List Byte :=
  be 1 69 ++ be 1 0 ++ be 2 length ++ be 2 0 ++ be 2 16384 ++ be 1 64 ++ be 1 17 ++ be 2 checksum ++ source ++ dest

/-- One delivery message as an Ethernet frame, less its frame check sequence (R153, 10.7). -/
def deliveryBytes (stream : StreamId) (p : Presentation) (v : Viewer) (m : Message) : List Byte :=
  let payload := deliveryHeader stream p m ++ m.payload
  let station := (List.range 6).map (Config.stationByte (portCode p.port))
  let source : List Byte := [169, 254, Config.stationByte (portCode p.port) 4, Config.stationByte (portCode p.port) 5]
  let length := 28 + payload.length
  v.ethernet ++ station ++ be 2 2048
    ++ ipv4Header length source v.ipv4 (checksum16 (ipv4Header length source v.ipv4 0))
    ++ be 2 (49152 + stream) ++ be 2 v.udpPort ++ be 2 (8 + payload.length) ++ be 2 0 ++ payload

end Sys2Proof.Machine
end

