-- ==== Sys2Proof/Machine/Ops.lean ====
section
/-! DEFINITION. The named operations that every block uses: reading and changing one stream, member, port, layout entry
or clip; raising a notice; raising a mirror update; what goes out on the engine's outsides. -/

namespace Sys2Proof.Machine

/-- The streams 0 to 63, lowest first. -/
def allStreams : List StreamId := List.finRange 64
/-- The members M0 to M7, lowest first. -/
def allMembers : List MemberId := List.finRange 8

/-! ### Parts of the state -/

def State.setRegion (s : State) (r : Region) : State := { s with region := r }
def State.setDecoder (s : State) (d : Decoder) : State := { s with decoder := d }
def State.setBuffer (s : State) (b : FrameBuffer) : State := { s with buffer := b }
def State.setDispatcher (s : State) (d : Dispatcher) : State := { s with dispatcher := d }
def State.setEgress (s : State) (e : Egress) : State := { s with egress := e }

/-- Stream `n`'s record. -/
def State.stream (s : State) (n : StreamId) : Stream := s.streams[n]

/-- Stream `n`'s record replaced. -/
def State.setStream (s : State) (n : StreamId) (x : Stream) : State := { s with streams := s.streams.set n x }

/-- Member `m`. -/
def State.member (s : State) (m : MemberId) : Member := s.dispatcher.members[m]

/-- Member `m` replaced. -/
def State.setMember (s : State) (m : MemberId) (x : Member) : State :=
  s.setDispatcher { s.dispatcher with members := s.dispatcher.members.set m x }

/-- The chunk records replaced. -/
def State.setChunks (s : State) (cs : List Chunk) : State := s.setDispatcher { s.dispatcher with chunks := cs }

/-- A port's state. -/
def State.port (s : State) : Port → PortState
  | .e0 => s.egress.port0
  | .e1 => s.egress.port1

/-- A port's state replaced. -/
def State.setPort (s : State) (p : Port) (x : PortState) : State :=
  match p with
  | .e0 => s.setEgress { s.egress with port0 := x }
  | .e1 => s.setEgress { s.egress with port1 := x }

/-- The presentation record of stream `n`. -/
def State.presentation (s : State) (n : StreamId) : Option Presentation := s.egress.presentations[n]

/-- The presentation record of stream `n` replaced. -/
def State.setPresentation (s : State) (n : StreamId) (x : Option Presentation) : State :=
  s.setEgress { s.egress with presentations := s.egress.presentations.set n x }

/-- A layout entry replaced. -/
def State.setLayout (s : State) (e : Fin 16) (x : LayoutEntry) : State :=
  s.setDecoder { s.decoder with layout := s.decoder.layout.set e x }

/-- A clip record replaced. -/
def State.setClip (s : State) (c : Fin 256) (x : Clip) : State :=
  s.setDecoder { s.decoder with clips := s.decoder.clips.set c x }

/-- A clip record. -/
def State.clip (s : State) (c : Fin 256) : Clip := s.decoder.clips[c]

/-- The clip with the number given, EMPTY beyond 255 (no cue or order that is accepted names one, R36, R79). -/
def State.clipAt (s : State) (c : Nat) : Clip := if h : c < 256 then s.decoder.clips[c]'h else Clip.reset

/-! ### Engine states -/

/-- The engine is HALTED (R21). -/
def State.halted (s : State) : Bool := s.region.engine == .halted

/-- The engine is RUNNING. -/
def State.isRunning (s : State) : Bool := s.region.engine == .running

/-! ### Notices, the mirror, outputs and free values -/

/-- A notice raised at ET `et` (R15): held, unless the writer already holds 64 or the engine is HALTED; then it is
discarded and the notices-lost flag is set. -/
def State.raiseAt (s : State) (et : Time) (b : NoticeBody) : State :=
  if s.halted || decide (Config.heldNotices ≤ s.region.notices.length) then
    s.setRegion { s.region with noticesLost := true }
  else s.setRegion { s.region with notices := s.region.notices ++ [⟨b, et⟩] }

/-- A notice raised at the present ET. -/
def State.raise (s : State) (b : NoticeBody) : State := s.raiseAt s.et b

/-- An update of stream `n`'s status record is raised: its mark is set (R18). -/
def State.markMirror (s : State) (n : StreamId) : State :=
  s.setRegion { s.region with marks := s.region.marks.set n true }

/-- Something goes out on one of the engine's outsides (log 5). -/
def State.emit (s : State) (o : Output) : State := { s with sent := s.sent ++ [o] }

/-- A write to host memory at an offset from the working base (R1, 1.2). -/
def State.hostWrite (s : State) (offset : Nat) (bytes : List Byte) : State :=
  s.emit (.hostWrite (s.region.base + BitVec.ofNat 64 offset) bytes)

/-- One free value is drawn (log 11). -/
def State.draw (s : State) : State := { s with drawn := s.drawn + 1 }

/-! ### Times (R62, R63) -/

/-- A time `ns` later, modulo 2^64. -/
def later (t : Time) (ns : Nat) : Time := t + BitVec.ofNat 64 ns

/-- Engine Time has reached `t` (R63): times are compared as unsigned values. -/
def State.reached (s : State) (t : Time) : Bool := t.ule s.et

/-- One deadline is earlier than another; "none" is later than every value of ET (R63). -/
def earlier : Deadline → Deadline → Bool
  | none, _ => false
  | some _, none => true
  | some a, some b => a.ult b

/-- `ceil(a / b)`, and 0 for `b = 0`. -/
def ceilDiv (a b : Nat) : Nat := (a + b - 1) / b

end Sys2Proof.Machine
end

