-- ==== Sys2Proof/Machine/Cues.lean ====
section
/-! DEFINITION. Cue lists (05): the checks of cues (R79, R43), positions and what they present (R83, R84), the advance
(R85, R86), loop counters (R87, R88), and the walk of a STEP (R58). -/

namespace Sys2Proof.Machine

/-! ### Checks of cues -/

/-- Two loops cross, the second one of an earlier cue: j′ < j ≤ i′, each range holding a cue the other lacks (R79). The
ranges are `j` to the new cue and `j'` to `i'`. -/
def loopsCross (j j' i' : Nat) : Bool := decide (j' < j) && decide (j ≤ i')

/-- A loop back to `j` crosses a loop of the cues given, numbered from `i` (R79). -/
def crossesEarlier (j : Nat) : Nat → List Cue → Bool
  | _, [] => false
  | i, c :: rest =>
    (match c.loop with | none => false | some l => loopsCross j l.back i) || crossesEarlier j (i + 1) rest

/-- The checks of R79 on a cue brought in after the cues `before`; the code that refuses it, if one does. -/
def cueRefusal (dec : Decoder) (before : List Cue) (c : RawCue) : Option Result :=
  let i := before.length
  if 1 < c.kind ∨ 1 < c.direction ∨ c.length = 0 then some .badField
  else if 1 < c.loopFlag ∨ (c.loopFlag = 1 ∧ (i < c.back ∨ c.count = 0)) then some .badField
  else if c.kind = 0 ∧ 256 ≤ c.clip then some .badField
  else if c.kind = 0 ∧ (if h : c.clip < 256 then
      !(dec.clips[c.clip]'h).defined || decide ((dec.clips[c.clip]'h).frames ≤ c.first + c.length - 1) else true) then
    some .noSuch
  else if c.loopFlag = 1 ∧ crossesEarlier c.back 0 before then some .loopCross
  else none

/-- What became of checking a list of cues: the resulting list, or the code and index of the first refused cue. -/
inductive CueCheck where
  | accepted (cues : List Cue)
  | refused (code : Result) (index : Nat)
  deriving DecidableEq, Repr

/-- The cues checked one by one, each against the list made so far; `k` is the index of the next among the order's own
cues (R42, R80). -/
def checkCues (dec : Decoder) : List Cue → Nat → List RawCue → CueCheck
  | made, _, [] => .accepted made
  | made, k, c :: rest =>
    match cueRefusal dec made c with
    | some code => .refused code k
    | none => checkCues dec (made ++ [c.toCue]) (k + 1) rest

/-- The transmit allowance X = ceil(b × 1000 / E) (R43, R69). -/
def allowance (bytes egress : Nat) : Nat := ceilDiv (bytes * 1000) egress

/-- The index of the first CLIP cue whose frames do not pass the transmit test at E within q (R43), cues being numbered
from `k`. -/
def tooSlowAt (s : State) (q egress : Nat) : Nat → List Cue → Option Nat
  | _, [] => none
  | k, c :: rest =>
    if !c.gap && decide (q < allowance (s.clipAt c.clip).bytes egress) then some k
    else tooSlowAt s q egress (k + 1) rest

/-- The clip named by the first CLIP cue (R43). -/
def firstClip : List Cue → Option Nat
  | [] => none
  | c :: rest => if c.gap then firstClip rest else some c.clip

/-- A CLIP cue of the list names the clip (R37). -/
def namesClip (cues : List Cue) (clip : Nat) : Bool := cues.any fun c => !c.gap && c.clip == clip

/-! ### Positions -/

/-- A position clamped to a list, and whether it was clamped (R44): a cue index beyond the last is the last frame of the
last cue, and an offset beyond its cue is the last frame of the cue. -/
def clampPosition (cues : List Cue) (cue offset : Nat) : Nat × Nat × Bool :=
  match cues[cue]? with
  | some c => if offset < c.length * 8 then (cue, offset, false) else (cue, (c.length - 1) * 8, true)
  | none =>
    match cues.getLast? with
    | some c => (cues.length - 1, (c.length - 1) * 8, true)
    | none => (0, 0, true)

/-- The clip frame shown at an offset of a CLIP cue (R83). -/
def Cue.clipFrame (c : Cue) (offset : Nat) : Nat :=
  if c.reverse then c.first + c.length - 1 - offset / 8 else c.first + offset / 8

/-- The frame at a position, none in a GAP cue (R83, R84). The generation is the clip's current one. -/
def frameAt (dec : Decoder) (cues : List Cue) (cue offset : Nat) : Option FrameKey :=
  match cues[cue]? with
  | none => none
  | some c =>
    if c.gap then none
    else if h : c.clip < 256 then some ⟨⟨c.clip, h⟩, (dec.clips[c.clip]'h).generation, c.clipFrame offset⟩
    else none

/-- The kind of an entry at a position, the projection's previous frame being `prev` (R84). -/
def kindAt (frame prev : Option FrameKey) : EntryKind :=
  match frame with
  | none => .gap
  | some k => if prev = some k then .repeated else .frame

/-- The direction of an entry of a run (R84). -/
def directionAt (cues : List Cue) (cue : Nat) (speed : Int) : Direction :=
  let reversed := match cues[cue]? with | some c => c.reverse | none => false
  if decide (0 < speed) != reversed then .forward else .reverse

/-! ### The advance -/

/-- A position on its way through an advance: the working counters, the counters changed with their new values in the
order of the changes, and the list end reached (R85, R86, R93). -/
structure Advance where
  cue : Nat
  offset : Nat
  counters : List Nat
  changes : List (Nat × Nat)
  ended : Option ListEnd
  deriving DecidableEq, Repr

/-- A counter set to a value; a change is recorded where the value is another. -/
def Advance.setCounter (p : Advance) (i v : Nat) : Advance :=
  if p.counters.getD i 0 = v then p
  else { p with counters := p.counters.set i v, changes := p.changes ++ [(i, v)] }

/-- The onward step or the end clamp of R85, from the cue `c`, passed by `e` eighths. The flag says to go on. -/
def Advance.onward (p : Advance) (cues : List Cue) (c : Cue) (e : Nat) : Advance × Bool :=
  if p.cue + 1 < cues.length then ({ p with cue := p.cue + 1, offset := e }, true)
  else ({ p with offset := (c.length - 1) * 8, ended := some .atEnd }, false)

/-- One step of R85 at the cue `c`: loop-back, onward or end clamp. -/
def Advance.stepForward (p : Advance) (cues : List Cue) (c : Cue) : Advance × Bool :=
  let e := p.offset - c.length * 8
  match c.loop with
  | none => p.onward cues c e
  | some l =>
    if 0 < p.counters.getD p.cue 0 then
      ({ p.setCounter p.cue (p.counters.getD p.cue 0 - 1) with cue := l.back, offset := e }, true)
    else (p.setCounter p.cue l.count).onward cues c e

/-- The steps of R85 while o ≥ len_c × 8. -/
def forwardSteps (cues : List Cue) : Nat → Advance → Advance
  | 0, p => p
  | fuel + 1, p =>
    match cues[p.cue]? with
    | none => p
    | some c =>
      if p.offset < c.length * 8 then p
      else
        match p.stepForward cues c with
        | (p', true) => forwardSteps cues fuel p'
        | (p', false) => p'

/-- Every loop whose back-to cue is `back` has its counter reloaded (R86), the cues being numbered from `i`. -/
def reloadBack (back : Nat) : Nat → List Cue → Advance → Advance
  | _, [], p => p
  | i, c :: rest, p =>
    reloadBack back (i + 1) rest
      (match c.loop with
       | some l => if l.back = back then p.setCounter i l.count else p
       | none => p)

/-- The steps of R86 while o < 0; `o` is the offset. -/
def backwardSteps (cues : List Cue) : Nat → Int → Advance → Advance
  | 0, _, p => { p with offset := 0 }
  | fuel + 1, o, p =>
    if 0 ≤ o then { p with offset := o.toNat }
    else if p.cue = 0 then { p with offset := 0, ended := some .atStart }
    else
      let p' := reloadBack p.cue 0 cues p
      let len := match cues[p.cue - 1]? with | some c => c.length | none => 0
      backwardSteps cues fuel (o + (len * 8 : Nat)) { p' with cue := p.cue - 1 }

/-- The steps that an advance can take: it crosses at most 32 boundaries (5.4). -/
def advanceFuel : Nat := 64

/-- An advance by S eighths (R85, R86). -/
def advance (cues : List Cue) (speed : Int) (cue offset : Nat) (counters : List Nat) : Advance :=
  if 0 < speed then forwardSteps cues advanceFuel ⟨cue, offset + speed.toNat, counters, [], none⟩
  else backwardSteps cues advanceFuel (offset + speed) ⟨cue, offset, counters, [], none⟩

/-! ### Loop counters -/

/-- The live counters of a list. -/
def liveCounters (cues : List Cue) : List Nat := cues.map (·.live)

/-- Counter changes applied to the live counters (R88). -/
def applyChanges : List (Nat × Nat) → List Cue → List Cue
  | [], cues => cues
  | (i, v) :: rest, cues =>
    applyChanges rest (match cues[i]? with | some c => cues.set i { c with live := v } | none => cues)

/-- Counter changes applied to working counters. -/
def applyToCounters : List (Nat × Nat) → List Nat → List Nat
  | [], cs => cs
  | (i, v) :: rest, cs => applyToCounters rest (cs.set i v)

/-- The changes that a locate entry records: every loop whose range does not hold the target cue is reloaded (R88). -/
def locateReloads (target : Nat) : Nat → List Cue → List (Nat × Nat)
  | _, [] => []
  | i, c :: rest =>
    (match c.loop with
     | some l => if l.back ≤ target ∧ target ≤ i then [] else [(i, l.count)]
     | none => []) ++ locateReloads target (i + 1) rest

/-! ### The walk of a STEP (R58) -/

/-- The frames of the cues before cue `c`. -/
def framesBefore (cues : List Cue) (c : Nat) : Nat := ((cues.take c).map (·.length)).sum

/-- The cue and frame of the `n`-th frame of the list, cues being numbered from `i`. -/
def frameNumbered : Nat → Nat → List Cue → Nat × Nat
  | i, _, [] => (i, 0)
  | i, n, c :: rest => if n < c.length then (i, n) else frameNumbered (i + 1) (n - c.length) rest

/-- The target of a step by `count` frames from a position, and whether the walk stopped at an end of the list (R58). -/
def stepTarget (cues : List Cue) (cue offset : Nat) (count : Int) : Nat × Nat × Bool :=
  let total := framesBefore cues cues.length
  let from_ : Int := framesBefore cues cue + offset / 8
  let want := from_ + count
  let n : Nat := if want < 0 then 0 else if (total : Int) ≤ want then total - 1 else want.toNat
  let t := frameNumbered 0 n cues
  (t.1, t.2 * 8, decide (want < 0) || decide ((total : Int) ≤ want))

end Sys2Proof.Machine
end

