-- ==== Sys2Proof/Machine/Flags.lean ====
section
/-! DEFINITION. The register window as it reads (R1, 10.2), the status record (R41, 10.6), and what calls for an MSI
(R17). -/

namespace Sys2Proof.Machine

/-- The code of the engine state in STATUS bits 1:0 (10.2). -/
def EngineState.code : EngineState → Nat
  | .stopped => 0
  | .running => 1
  | .stopping => 2
  | .halted => 3

/-- STATUS (10.2): engine state, intake BLOCKED, fault latch, notices lost, start fault code. -/
def Region.status (r : Region) : Word :=
  BitVec.ofNat 32
    (r.engine.code + 4 * boolCode (r.intake == .blocked) + 8 * boolCode r.faultLatch + 16 * boolCode r.noticesLost
      + 256 * r.startFault.toNat)

/-- IDENT: vendor code 5A1CH, part code 064H, revision 1 (10.2). -/
def identWord : Word := 0x10645A1C

/-- What a read of the register window gives, by offset; the window holds six registers (R1, 10.2). -/
def readRegister (r : Region) : Nat → Option Word
  | 0x00 => some identWord
  | 0x04 => some r.regionLo
  | 0x08 => some r.regionHi
  | 0x0C => some 0
  | 0x10 => some r.status
  | 0x14 => some (r.noticeLevel.setWidth 32)
  | _ => none

/-- A notice of level `l` calls for an MSI at a NOTICE_LEVEL: `l` is greater, or 7 (R17). -/
def signals (noticeLevel : BitVec 3) (l : Nat) : Bool := decide (noticeLevel.toNat < l) || l == 7

/-- The entries of a window that have not begun sending. -/
def Stream.unsent (x : Stream) : List Entry := x.window.filter (fun e => e.stage != .sending)

/-- The entry that is SENDING, if one is. -/
def Stream.sendingEntry (x : Stream) : Option Entry := x.window.find? (fun e => e.stage == .sending)

/-- The next deliver time of the status record: in RUNNING that of the earliest entry that has not begun sending, and 0
in every other case (R41). -/
def Stream.nextDeliver (x : Stream) : Time :=
  if x.state = .running then
    match x.unsent with
    | [] => 0
    | e :: _ => e.deliver
  else 0

/-- The speed of the status record: S in RUNNING and HELD, 0 otherwise (R41). -/
def Stream.shownSpeed (x : Stream) : Int :=
  match x.state with
  | .running => x.speed
  | .held => x.speed
  | _ => 0

/-- Bytes 4 to 63 of a status record (10.6). -/
def Stream.statusBytes (x : Stream) : List Byte :=
  le 1 x.state.code ++ res 1 ++ leSpeed x.shownSpeed ++ le 1 x.cue ++ le 1 x.shownClip.toNat ++ res 2 ++ le 4 x.offset
    ++ le 4 x.shownTick.toNat ++ le 4 x.shownFrame.toNat ++ le 8 x.nextDeliver.toNat ++ le 4 x.lateCount.toNat ++ res 28

end Sys2Proof.Machine
end

