-- ==== Sys2Proof/Machine/Mapping.lean ====
section
/-! DEFINITION. The Layout Decoder's arithmetic: mapping a volume block (R23), splitting a frame into chunks (R24), and
the plan of a frame (R25). -/

namespace Sys2Proof.Machine

/-- The layout entries, lowest first. -/
def allLayouts : List (Fin 16) := List.finRange 16

/-- The block lies in the range of the definition, both ends included (2.1). -/
def LayoutDef.covers (d : LayoutDef) (a : Nat) : Bool := decide (d.first ≤ a) && decide (a ≤ d.last)

/-- The member count W. -/
def LayoutDef.width (d : LayoutDef) : Nat := d.members.length

/-- The stripe of a block: floor((A − first) / C) (R23). -/
def LayoutDef.stripe (d : LayoutDef) (a : Nat) : Nat := (a - d.first) / d.chunk

/-- The row of a block: floor(s / W) (R23). -/
def LayoutDef.row (d : LayoutDef) (a : Nat) : Nat := d.stripe a / d.width

/-- The column of a block: s mod W under ROTATE, (s + row) mod W under SKEW (R23). -/
def LayoutDef.column (d : LayoutDef) (a : Nat) : Nat :=
  match d.interleave with
  | .rotate => d.stripe a % d.width
  | .skew => (d.stripe a + d.row a) % d.width

/-- The member that a block maps to (R23). -/
def LayoutDef.memberOf (d : LayoutDef) (a : Nat) : MemberId := d.members.getD (d.column a) 0

/-- The alternate that a block maps to, if the entry has an alternate list (R23). -/
def LayoutDef.alternateOf (d : LayoutDef) (a : Nat) : Option MemberId :=
  match d.alternates with
  | none => none
  | some l => l[d.column a]?

/-- The member block that a block maps to: base + row × C + within (R23). -/
def LayoutDef.blockOf (d : LayoutDef) (a : Nat) : Nat := d.base + d.row a * d.chunk + (a - d.first) % d.chunk

/-- The last volume block of a block's stripe: first + s × C + C − 1 (R23). -/
def LayoutDef.stripeEnd (d : LayoutDef) (a : Nat) : Nat := d.first + d.stripe a * d.chunk + d.chunk - 1

/-- The length of the run from `a` to the earliest of its stripe's end, the entry's last block and the extent's last
block, `left` blocks being left of the extent (R24). -/
def LayoutDef.run (d : LayoutDef) (a left : Nat) : Nat := min (min (d.stripeEnd a) d.last + 1 - a) left

/-- A chunk as the decoder produces it (R24). -/
structure Piece where
  layout : Fin 16
  member : MemberId
  alternate : Option MemberId
  block : Nat
  count : Nat
  offset : Nat
  deriving DecidableEq, Repr

/-- The result of a plan (R25). MAPPED carries the chunks that R24 produces. -/
inductive Plan where
  | notCurrent
  | held
  | unmapped
  | mapped (pieces : List Piece)
  deriving DecidableEq, Repr

/-- A RETIRING entry maps the block, by its current range or by its pending range (R25). -/
def LayoutEntry.retiringCovers (e : LayoutEntry) (a : Nat) : Bool :=
  match e.state with
  | .retiring d p => d.covers a || (match p.op with | .define d' => d'.covers a | .delete => false)
  | _ => false

/-- The definition of an ACTIVE entry that covers the block. -/
def LayoutEntry.activeCover (e : LayoutEntry) (a : Nat) : Option LayoutDef :=
  match e.state with
  | .active d => if d.covers a then some d else none
  | _ => none

/-- A block lies in a RETIRING entry's current or pending range. -/
def Decoder.retiringAt (dec : Decoder) (a : Nat) : Bool := allLayouts.any fun e => dec.layout[e].retiringCovers a

/-- The ACTIVE entry that covers a block. -/
def Decoder.activeAt (dec : Decoder) (a : Nat) : Option (Fin 16 × LayoutDef) :=
  allLayouts.findSome? fun e => (dec.layout[e].activeCover a).map fun d => (e, d)

/-- The chunk that begins at volume block `a` and has `n` blocks, `done` extent blocks lying before it (R24). -/
def pieceAt (e : Fin 16) (d : LayoutDef) (a n done : Nat) : Piece :=
  { layout := e, member := d.memberOf a, alternate := d.alternateOf a, block := d.blockOf a, count := n,
    offset := done * Config.blockBytes }

/-- The walk of an extent from block `a`, `left` blocks being left and `done` behind (R24, R25). Each turn takes a run of
at least one block, so `left` turns suffice. -/
def walk (dec : Decoder) : Nat → Nat → Nat → Nat → Plan
  | _, _, 0, _ => .mapped []
  | 0, _, _ + 1, _ => .unmapped
  | fuel + 1, a, left + 1, done =>
    if dec.retiringAt a then .held
    else
      match dec.activeAt a with
      | none => .unmapped
      | some (e, d) =>
        let n := d.run a (left + 1)
        match walk dec fuel (a + n) (left + 1 - n) (done + n) with
        | .mapped ps => .mapped (pieceAt e d a n done :: ps)
        | other => other

/-- The first volume block of frame `n` of a clip: first + head + n × B (R35). -/
def Clip.frameStart (c : Clip) (n : Nat) : Nat := c.first + c.head + n * c.blocks

/-- The plan of a frame named by its key (R25). It changes no state. -/
def Decoder.plan (dec : Decoder) (key : FrameKey) : Plan :=
  let c := dec.clips[key.clip]
  if !c.defined || c.generation != key.generation || decide (c.frames ≤ key.frame) then .notCurrent
  else walk dec c.blocks (c.frameStart key.frame) c.blocks 0

/-- The RETIRING entry that holds a frame (R25, R34): the one whose current or pending range has the first block of the
frame's extent that lies in any such range, the block at which a walk ends HELD. That a frame on several RETIRING entries is
held by this one is log 38. -/
def Decoder.holder (dec : Decoder) (key : FrameKey) : Option (Fin 16) :=
  let c := dec.clips[key.clip]
  (List.range c.blocks).findSome? fun i =>
    allLayouts.find? fun e => dec.layout[e].retiringCovers (c.frameStart key.frame + i)

/-- Two ranges share a volume block (R28). -/
def LayoutDef.overlaps (a b : LayoutDef) : Bool := decide (a.first ≤ b.last) && decide (b.first ≤ a.last)

/-- The ranges of an entry that a definition of another entry may not touch (R28). -/
def LayoutEntry.takenRanges (e : LayoutEntry) : List LayoutDef :=
  match e.state with
  | .empty => []
  | .active d => [d]
  | .retiring d p => match p.op with | .define d' => [d, d'] | .delete => [d]

/-- A definition of entry `e` would overlap another entry's range (R28). -/
def Decoder.overlapsOther (dec : Decoder) (e : Fin 16) (d : LayoutDef) : Bool :=
  allLayouts.any fun i => i != e && (dec.layout[i].takenRanges.any fun x => d.overlaps x)

end Sys2Proof.Machine
end

