-- ==== Sys2Proof/Machine/Settling.lean ====
section
/-! DEFINITION. Directory entries and the settling of chunks: freeing an entry (R121), withdrawal (R130), the reports READY
and FAILED to users (R91, R118), the failure of a frame (R118, R119), and the settling of a chunk (R142). -/

namespace Sys2Proof.Machine

/-! ### The directory -/

/-- The directory entry `d`, absent when it is FREE. -/
def State.dirEntry (s : State) (d : Nat) : Option DirEntry := s.buffer.dir.find? (fun e => e.id == d)

/-- A directory entry replaced by the one of its number. -/
def State.setDir (s : State) (x : DirEntry) : State :=
  s.setBuffer { s.buffer with dir := s.buffer.dir.map fun e => if e.id = x.id then x else e }

/-- The pages held by directory entries (R104). -/
def FrameBuffer.heldPages (b : FrameBuffer) : Nat := (b.dir.map (·.pages.length)).sum

/-- The free pages: free and held pages together are 32,768 (R104). -/
def FrameBuffer.freePages (b : FrameBuffer) : Nat := Config.pages - b.heldPages

/-- The FREE directory entries. -/
def FrameBuffer.freeEntries (b : FrameBuffer) : Nat := Config.directoryEntries - b.dir.length

/-- The lookup of R106: a FILLING or READY entry of the key with its stale flag clear. -/
def FrameBuffer.lookup (b : FrameBuffer) (key : FrameKey) : Option DirEntry :=
  b.dir.find? fun e => e.key == key && e.state != .failed && !e.stale

/-- A waiter is the frame waiter of entry `d`. -/
def Waiter.isFrame (w : Waiter) (d : Nat) : Bool :=
  match w with
  | .frame id _ _ _ => id == d
  | .request .. => false

/-- A service pass is called for (R114). -/
def State.callPass (s : State) : State := s.setBuffer { s.buffer with passWanted := true }

/-- Freeing a directory entry (R121): it leaves the reclaim list, the hold and the wait list, its pages return to the
free pool, it becomes FREE, and a service pass is called for. -/
def State.freeEntry (s : State) (d : Nat) : State :=
  let b := s.buffer
  (s.setBuffer
      { b with
        dir := b.dir.filter (fun e => e.id != d)
        reclaim := b.reclaim.filter (· != d)
        waiters := b.waiters.filter (fun w => !w.isFrame d)
        passWanted := true }).setDecoder
    { s.decoder with hold := s.decoder.hold.filter (· != d) }

/-- An entry joins the tail of the reclaim list (R112), which calls for a service pass (R114). -/
def State.joinReclaim (s : State) (d : Nat) : State :=
  s.setBuffer { s.buffer with reclaim := s.buffer.reclaim ++ [d], passWanted := true }

/-- An entry is to be freed: it has no users and no unsettled chunk, and is FAILED or stale (R118, R120, R122). -/
def DirEntry.done (e : DirEntry) : Bool := e.users == 0 && e.unsettled == 0 && (e.state == .failed || e.stale)

/-- The entry is freed if it is to be. -/
def State.freeIfDone (s : State) (d : Nat) : State :=
  match s.dirEntry d with
  | none => s
  | some e => if e.done then s.freeEntry d else s

/-- The unsettled count of an entry falls by one (R118). -/
def State.countDown (s : State) (d : Nat) : State :=
  match s.dirEntry d with
  | none => s
  | some e => s.setDir { e with unsettled := e.unsettled - 1 }

/-! ### Chunk records -/

/-- The chunk's current member (R128). -/
def Chunk.current (c : Chunk) : MemberId := if c.altTried then c.alternate.getD c.member else c.member

/-- Two chunk records are of the same chunk. -/
def Chunk.same (a b : Chunk) : Bool := a.frame == b.frame && a.offset == b.offset

/-- The record held for a chunk replaced, or taken into the list of held records. -/
def State.putChunk (s : State) (c : Chunk) : State :=
  s.setChunks (s.dispatcher.chunks.filter (fun x => !x.same c) ++ [c])

/-- The record held for a chunk. -/
def State.chunk (s : State) (frame offset : Nat) : Option Chunk :=
  s.dispatcher.chunks.find? fun c => c.frame == frame && c.offset == offset

/-- The free chunk records of the pool (R128). -/
def Dispatcher.freeRecords (d : Dispatcher) : Nat := Config.chunkRecords - d.chunks.length

/-- A chunk settles: its layout entry's in-flight count falls (R32), and its record returns to the pool, which calls for
a service pass (R128, R142). -/
def State.dropChunk (s : State) (c : Chunk) : State :=
  let e := s.decoder.layout[c.layout]
  ((s.setChunks (s.dispatcher.chunks.filter (fun x => !x.same c))).setLayout c.layout
      { e with inFlight := e.inFlight - 1 }).callPass

/-- A chunk settles as a withdrawal (R118). -/
def State.settleWithdrawn (s : State) (c : Chunk) : State := ((s.dropChunk c).countDown c.frame).freeIfDone c.frame

/-- The QUEUED chunks of a frame. -/
def State.queuedOf (s : State) (d : Nat) : List Chunk :=
  s.dispatcher.chunks.filter fun c => c.frame == d && c.state == .queued

/-- Every QUEUED chunk of a frame is withdrawn (R130). -/
def State.withdrawQueued (s : State) (d : Nat) : State := (s.queuedOf d).foldl State.settleWithdrawn s

/-! ### Reports to users -/

/-- The stage that a report gives an entry that references the frame: a FETCHING entry takes it (R91). -/
def Entry.reported (e : Entry) (d : Nat) (stage : Stage) : Entry :=
  if e.ref = some d ∧ e.stage = .fetching then { e with stage := stage } else e

/-- A frame is reported READY or FAILED to every window entry of every stream that references it (R91). -/
def State.report (s : State) (d : Nat) (stage : Stage) : State :=
  allStreams.foldl
    (fun s n => s.setStream n { s.stream n with window := (s.stream n).window.map fun e => e.reported d stage }) s

/-! ### The failure of a frame -/

/-- A FILLING entry becomes FAILED (R118, R116): its QUEUED chunks are withdrawn, FAILED is reported to its users, FAIL is
raised unless the entry is stale without users (R119), and it is freed if nothing holds it. `chunk` is the member and
member block of the chunk whose failure decided it. DESIGN CHOICE (log 39): the decoding field stays as it was, as the page
list does; the manual gives it a value, NONE, only for a failure at allocation. -/
def State.failEntry (s : State) (d : Nat) (cause : Cause) (chunk : Option (MemberId × Nat)) : State :=
  match s.dirEntry d with
  | none => s
  | some e =>
    let s := s.setDir { e with state := .failed, cause := some cause }
    let s := s.withdrawQueued d
    let s := s.report d .failed
    let unsettled := match s.dirEntry d with | some x => x.unsettled | none => 0
    let s :=
      if e.stale && e.users == 0 then s else s.raise (.fail e.key cause chunk e.total unsettled e.users)
    s.freeIfDone d

/-- A frame whole in its pages becomes READY (R118): a stale entry without users is freed instead, and another without
users joins the reclaim list. -/
def State.frameReady (s : State) (e : DirEntry) : State :=
  if e.stale && e.users == 0 then s.freeEntry e.id
  else
    let s := ((s.setDir { e with state := .ready }).report e.id .ready).callPass
    if e.users = 0 then s.joinReclaim e.id else s

/-- A chunk settles DONE (R118, R142). -/
def State.settleDone (s : State) (c : Chunk) : State :=
  let s := (s.dropChunk c).countDown c.frame
  match s.dirEntry c.frame with
  | none => s
  | some e =>
    if e.state = .filling ∧ e.decoding = .produced ∧ e.unsettled = 0 then s.frameReady e else s.freeIfDone c.frame

/-- A chunk fails finally (R141) and settles FAILED (R118, R142). -/
def State.settleFailed (s : State) (c : Chunk) (cause : Cause) : State :=
  let s := (s.dropChunk c).countDown c.frame
  match s.dirEntry c.frame with
  | none => s
  | some e =>
    if e.state = .filling then s.failEntry c.frame cause (some (c.current, c.block)) else s.freeIfDone c.frame

end Sys2Proof.Machine
end

