-- ==== Sys2Proof/Machine/Members.lean ====
section
/-! DEFINITION. The Member Dispatcher: queues (R129), the credit arbiter (R132, R133), expiries (R138), failing on a
member and failover (R141), link loss (R125), and stall (R139). -/

namespace Sys2Proof.Machine

/-! ### Tags and credit -/

/-- The tags of a member, lowest first. -/
def allTags : List (Fin 32) := List.finRange 32

def TagState.isFree : TagState → Bool
  | .free => true
  | _ => false

def TagState.isIssued : TagState → Bool
  | .issued .. => true
  | _ => false

def TagState.isAbandoned : TagState → Bool
  | .abandoned => true
  | _ => false

/-- A tag replaced. -/
def Member.setTag (x : Member) (t : Fin 32) (v : TagState) : Member := { x with tags := x.tags.set t v }

/-- The ABANDONED tags (R131). -/
def Member.abandonedCount (x : Member) : Nat := (allTags.filter fun t => x.tags[t].isAbandoned).length

/-- The outstanding count: the ISSUED and ABANDONED tags (R131). -/
def Member.outstanding (x : Member) : Nat := (allTags.filter fun t => !x.tags[t].isFree).length

/-- The lowest-numbered FREE tag (R133). -/
def Member.freeTag (x : Member) : Option (Fin 32) := allTags.find? fun t => x.tags[t].isFree

/-- A tag of some member is ISSUED (R7). -/
def State.anyIssued (s : State) : Bool := allMembers.any fun m => allTags.any fun t => (s.member m).tags[t].isIssued

/-- The expiry of a tag issued at ET `t` under a timeout code: the fourth whole multiple of 2^(13 + code) ns that is
greater than `t`; none for code 0 (R138). -/
def expiryAt (t : Time) (code : Nat) : Option Time :=
  if code = 0 then none
  else
    let u := 2 ^ (13 + code)
    some (BitVec.ofNat 64 ((t.toNat / u + 4) * u))

/-! ### Queues -/

/-- Queue order: by deadline, "none" last, and among equal deadlines by arrival sequence (R129). -/
def Chunk.before (a b : Chunk) : Bool :=
  earlier a.deadline b.deadline || (a.deadline == b.deadline && a.arrival.ult b.arrival)

/-- The first chunk in queue order. -/
def firstInQueue : List Chunk → Option Chunk
  | [] => none
  | c :: rest =>
    match firstInQueue rest with
    | none => some c
    | some d => if d.before c then some d else some c

/-- A chunk put in its place among chunks in queue order. -/
def insertChunk (c : Chunk) : List Chunk → List Chunk
  | [] => [c]
  | d :: rest => if c.before d then c :: d :: rest else d :: insertChunk c rest

/-- A member's queue: its QUEUED chunks in queue order (R129). -/
def State.queue (s : State) (m : MemberId) : List Chunk :=
  (s.dispatcher.chunks.filter fun c => c.state == .queued && c.current == m).foldr insertChunk []

/-! ### The arbiter -/

/-- The conditions under which a member's arbiter issues reads (R132). -/
def State.mayIssue (s : State) (m : MemberId) : Bool :=
  s.isRunning && (s.member m).link == .up && decide ((s.member m).outstanding < (s.member m).limit)

/-- A QUEUED chunk is eligible: its holdoff end is absent or reached, and it is PLAY or the outstanding count is below
the credit limit minus the play credit reserve (R132). -/
def State.eligible (s : State) (m : MemberId) (c : Chunk) : Bool :=
  c.state == .queued && c.current == m
    && (match c.holdoff with | none => true | some t => s.reached t)
    && (c.cls == .play || decide ((s.member m).outstanding < (s.member m).limit - (s.member m).reserve))

/-- The chunk that the arbiter chooses: the earliest eligible chunk in queue order (R132). -/
def State.choice (s : State) (m : MemberId) : Option Chunk :=
  firstInQueue (s.dispatcher.chunks.filter fun c => s.eligible m c)

/-- A chunk is issued under a tag (R133). -/
def State.issue (s : State) (m : MemberId) (t : Fin 32) (c : Chunk) : State :=
  let first := match c.firstIssue with | some e => some e | none => some s.et
  let s' := s.setMember m ((s.member m).setTag t
    (.issued c.frame c.offset (expiryAt s.et (s.member m).timeoutCode) []))
  (s'.putChunk { c with state := .issued, holdoff := none, firstIssue := first }).emit
    (.memberMessage m (readBytes t c.count c.block))

/-- The arbiter's choices, one after another (R132): a chunk that passes the member's capacity fails with RANGE_ERROR, any
other is issued. Each choice takes a chunk out of the queue, so as many turns as there are chunks suffice. -/
def arbiterLoop (m : MemberId) : Nat → State → State
  | 0, s => s
  | fuel + 1, s =>
    if s.mayIssue m then
      match s.choice m with
      | none => s
      | some c =>
        if (s.member m).capacity < c.block + c.count then arbiterLoop m fuel (s.settleFailed c .rangeError)
        else
          match (s.member m).freeTag with
          | none => s
          | some t => arbiterLoop m fuel (s.issue m t c)
    else s

/-- An issue opportunity of member `m` (R132). -/
def State.opportunity (s : State) (m : MemberId) : State := arbiterLoop m (s.dispatcher.chunks.length + 1) s

/-! ### Joining a queue and failing on a member -/

/-- A chunk of a FAILED frame, or of a stale frame with no users, is withdrawn as it joins (R129). -/
def State.withdrawnOnJoin (s : State) (c : Chunk) : Bool :=
  match s.dirEntry c.frame with
  | none => true
  | some e => e.state == .failed || (e.stale && e.users == 0)

/-- A chunk takes the next value of the arrival sequence and joins its current member's queue; an issue opportunity
follows (R129). On a DOWN or STALLED link it fails instead, as `failing` says. -/
def State.joinBy (failing : State → Chunk → Cause → State) (s : State) (c : Chunk) : State :=
  let c := { c with arrival := s.dispatcher.arrival, state := .queued }
  let s := s.setDispatcher { s.dispatcher with arrival := s.dispatcher.arrival + 1 }
  if s.withdrawnOnJoin c then s.settleWithdrawn c
  else
    match (s.member c.current).link with
    | .up => (s.putChunk c).opportunity c.current
    | .training => (s.putChunk c).opportunity c.current
    | .down => failing s c .linkDown
    | .stalled => failing s c .timeout

/-- A chunk that fails on its current member (R141): failed over to an untried alternate, and failed finally if there is
none or the alternate fails it at once. -/
def State.failOn (s : State) (c : Chunk) (cause : Cause) : State :=
  if c.alternate.isSome && !c.altTried then
    s.joinBy State.settleFailed { c with altTried := true, firstIssue := none, holdoff := none }
  else s.settleFailed c cause

/-- A chunk joins its current member's queue (R129). -/
def State.join (s : State) (c : Chunk) : State := s.joinBy State.failOn c

/-- Every QUEUED chunk of a member fails on it (R125, R139). A chunk that has left the queue meanwhile is passed over. DESIGN
CHOICE (log 19): they fail in queue order; R125 and R139 give them no order. -/
def State.failQueue (s : State) (m : MemberId) (cause : Cause) : State :=
  (s.queue m).foldl
    (fun s c =>
      match s.chunk c.frame c.offset with
      | some x => if x.state = .queued ∧ x.current = m then s.failOn x cause else s
      | none => s) s

/-- An ISSUED tag of a lost link becomes FREE and its chunk fails on the member with cause LINK_DOWN (R125). -/
def State.loseTag (m : MemberId) (s : State) (t : Fin 32) : State :=
  match (s.member m).tags[t] with
  | .issued frame offset _ _ =>
    let s := s.setMember m ((s.member m).setTag t .free)
    match s.chunk frame offset with
    | some c => s.failOn c .linkDown
    | none => s
  | _ => s

/-- A link's state replaced. -/
def State.setLink (s : State) (m : MemberId) (l : Link) : State := s.setMember m { s.member m with link := l }

/-- Every ABANDONED tag becomes FREE (R125). -/
def Member.freeAbandoned (x : Member) : Member :=
  allTags.foldl (fun x t => if x.tags[t].isAbandoned then x.setTag t .free else x) x

/-- A link leaves UP or STALLED for DOWN (R125). DESIGN CHOICE (log 19): the chunks of its ISSUED tags fail lowest tag first;
the manual gives them no order. -/
def State.dropLink (s : State) (m : MemberId) (cause : DropCause) : State :=
  let outstanding := (s.member m).outstanding
  let s := s.setLink m .down
  let s := allTags.foldl (State.loseTag m) s
  let s := s.setMember m (s.member m).freeAbandoned
  let s := s.failQueue m .linkDown
  s.raise (.mdwn m cause outstanding)

/-! ### Stall -/

/-- The test of the stall condition (R139): UP becomes STALLED when the ABANDONED tags number at least the credit limit,
and STALLED becomes UP when they number fewer. -/
def State.stallTest (s : State) (m : MemberId) : State :=
  let x := s.member m
  match x.link with
  | .up =>
    if x.limit ≤ x.abandonedCount then
      ((s.setLink m .stalled).raise (.mstl m x.abandonedCount x.limit)).failQueue m .timeout
    else s
  | .stalled =>
    if x.abandonedCount < x.limit then
      ((s.setLink m .up).raise (.mbup m .stalled x.capacity)).opportunity m
    else s
  | _ => s

end Sys2Proof.Machine
end

