-- ==== Sys2Proof/Machine/Buffer.lean ====
section
/-! DEFINITION. The Frame Buffer Manager: sharing (R106 to R109), the wait list (R113), users falling to 0 (R120), stale
entries (R122), frames released from the hold (R116, R34), and productions (R26). -/

namespace Sys2Proof.Machine

/-! ### The wait list (R113) -/

def Waiter.deadline : Waiter → Deadline
  | .request _ _ _ d _ => d
  | .frame _ _ d _ => d

def Waiter.cls : Waiter → Cls
  | .request _ _ _ _ c => c
  | .frame _ _ _ c => c

def Waiter.withDeadline (w : Waiter) (d : Deadline) : Waiter :=
  match w with
  | .request n t k _ c => .request n t k d c
  | .frame i k _ c => .frame i k d c

def Waiter.withCls (w : Waiter) (c : Cls) : Waiter :=
  match w with
  | .request n t k d _ => .request n t k d c
  | .frame i k d _ => .frame i k d c

/-- A waiter is the request of a stream's window entry. -/
def Waiter.isRequest (w : Waiter) (n : StreamId) (tick : Word) : Bool :=
  match w with
  | .request n' t _ _ _ => n' == n && t == tick
  | .frame .. => false

/-- A waiter put in the place its deadline gives, after every waiter that already has that deadline (R113). -/
def insertWaiter (w : Waiter) : List Waiter → List Waiter
  | [] => [w]
  | x :: rest => if earlier w.deadline x.deadline then w :: x :: rest else x :: insertWaiter w rest

/-- A waiter joins the list, which calls for a service pass (R113, R114). -/
def State.addWaiter (s : State) (w : Waiter) : State :=
  s.setBuffer { s.buffer with waiters := insertWaiter w s.buffer.waiters, passWanted := true }

/-- The waiters of which `p` holds leave the list. -/
def State.removeWaiters (s : State) (p : Waiter → Bool) : State :=
  s.setBuffer { s.buffer with waiters := s.buffer.waiters.filter fun w => !p w }

/-- The waiter of which `p` holds is reported a deadline: if it is another than its own the waiter moves to the place that
gives it, and a service pass is called for; a waiter whose deadline stays keeps its place (R113, R114). -/
def State.moveWaiter (s : State) (p : Waiter → Bool) (d : Deadline) : State :=
  match s.buffer.waiters.find? p with
  | none => s
  | some w => if w.deadline = d then s else (s.removeWaiters p).addWaiter (w.withDeadline d)

/-! ### Deadline and class of a frame (R108, R109, R130) -/

/-- Every unsettled chunk record of a frame changed (R130). -/
def State.changeChunks (s : State) (d : Nat) (f : Chunk → Chunk) : State :=
  s.setChunks (s.dispatcher.chunks.map fun c => if c.frame = d then f c else c)

/-- An issue opportunity for each member whose queue holds a chunk of the frame (R130). -/
def State.touched (s : State) (d : Nat) : State :=
  allMembers.foldl
    (fun s m => if (s.queuedOf d).any (fun c => c.current == m) then s.opportunity m else s) s

/-- The earliest deadline of a frame set, and passed to its unsettled chunks or to its waiter (R108). -/
def State.putDeadline (s : State) (e : DirEntry) (d : Deadline) : State :=
  let s := s.setDir { e with deadline := d }
  let s := s.changeChunks e.id fun c => { c with deadline := d }
  if e.decoding = .awaiting then s.moveWaiter (fun w => w.isFrame e.id) d else s

/-- The class of a frame set, and passed to its unsettled chunks or to its waiter (R109). -/
def State.putCls (s : State) (e : DirEntry) (c : Cls) : State :=
  let s := s.setDir { e with cls := c }
  let s := s.changeChunks e.id fun x => { x with cls := c }
  s.setBuffer { s.buffer with waiters := s.buffer.waiters.map fun w => if w.isFrame e.id then w.withCls c else w }

/-- A deadline brought to a frame: it takes an earlier one, and keeps its own otherwise (R108). -/
def State.bringDeadline (s : State) (d : Nat) (new : Deadline) : State :=
  match s.dirEntry d with
  | none => s
  | some e => if earlier new e.deadline then s.putDeadline e new else s

/-- A class brought to a frame: PLAY raises SCRUB (R109). -/
def State.bringCls (s : State) (d : Nat) (new : Cls) : State :=
  match s.dirEntry d with
  | none => s
  | some e => if new = .play ∧ e.cls = .scrub then s.putCls e .play else s

/-- A user's ready deadline changes while it references the frame (R71, R108). A lowered deadline is followed by an issue
opportunity (R130). -/
def State.reportDeadline (s : State) (d : Nat) (new : Deadline) : State :=
  match s.dirEntry d with
  | none => s
  | some e => if earlier new e.deadline then (s.putDeadline e new).touched d else s

/-- A hit (R106, R107): the users rise by one, a READY entry leaves the reclaim list, and the newcomer's deadline and
class are applied. -/
def State.hit (s : State) (e : DirEntry) (deadline : Deadline) (cls : Cls) : State :=
  let s := s.setDir { e with users := e.users + 1 }
  let s := s.setBuffer { s.buffer with reclaim := s.buffer.reclaim.filter (· != e.id) }
  let s := s.bringDeadline e.id deadline
  let s := s.bringCls e.id cls
  if earlier deadline e.deadline || (cls == .play && e.cls == .scrub) then s.touched e.id else s

/-- The stage that a hit gives a window entry (R94). -/
def DirEntry.stageOf (e : DirEntry) : Stage :=
  match e.state with
  | .ready => .ready
  | .filling => .fetching
  | .failed => .failed

/-! ### Users falling to 0 (R107, R120) -/

/-- A stale entry without users (R122): its QUEUED chunks are withdrawn, and it is freed when nothing holds it. -/
def State.settleStale (s : State) (d : Nat) : State := (s.withdrawQueued d).freeIfDone d

/-- What follows the fall of an entry's users to 0 (R120). -/
def State.idle (s : State) (e : DirEntry) : State :=
  if e.stale then s.settleStale e.id
  else
    match e.state with
    | .ready => s.joinReclaim e.id
    | .failed => s.freeIfDone e.id
    | .filling =>
      let s := s.putDeadline e none
      match s.dirEntry e.id with
      | some x => s.putCls x .scrub
      | none => s

/-- A window entry releases its directory reference (R107). -/
def State.release (s : State) (d : Nat) : State :=
  match s.dirEntry d with
  | none => s
  | some e =>
    let e' := { e with users := e.users - 1 }
    let s := s.setDir e'
    if e'.users = 0 then s.idle e' else s

/-- An entry is marked stale (R122): it leaves the reclaim list, and without users it is dealt with at once. -/
def State.markStale (s : State) (d : Nat) : State :=
  match s.dirEntry d with
  | none => s
  | some e =>
    let s := s.setDir { e with stale := true }
    let s := s.setBuffer { s.buffer with reclaim := s.buffer.reclaim.filter (· != d) }
    if e.users = 0 then s.settleStale d else s

/-- Every entry of which `p` holds is marked stale. -/
def State.markStaleWhere (s : State) (p : DirEntry → Bool) : State :=
  (s.buffer.dir.filter p).foldl (fun s e => s.markStale e.id) s

/-! ### Frames released from the hold (R34, R116) -/

/-- The manager acts on the result of a plan of a frame that has left the hold or whose production did not take place
(R116, R26). -/
def State.released (s : State) (d : Nat) (p : Plan) : State :=
  match s.dirEntry d with
  | none => s
  | some e =>
    match p with
    | .mapped ps => (s.setDir { e with decoding := .awaiting }).addWaiter (.frame d ps.length e.deadline e.cls)
    | .held =>
      let s := s.setDir { e with decoding := .held }
      s.setDecoder { s.decoder with hold := s.decoder.hold ++ [d] }
    | .unmapped => s.failEntry d .unmapped none
    | .notCurrent => if e.users = 0 then s.freeEntry d else s.failEntry d .unmapped none

/-- One held frame is planned (R34): HELD stays in its place, unless the entry that held it has completed (`gone`), and any
other result takes it out of the hold. A frame whose entry has completed is released, and one that a second RETIRING entry
holds at once rejoins the hold at the tail. -/
def State.replanOne (gone : FrameKey → Bool) (s : State) (d : Nat) : State :=
  if s.decoder.hold.contains d then
    let left := s.setDecoder { s.decoder with hold := s.decoder.hold.filter (· != d) }
    match s.dirEntry d with
    | none => left
    | some e =>
      let p := s.decoder.plan e.key
      if p = .held ∧ gone e.key = false then s else left.released d p
  else s

/-- The hold replanned, in hold order (R34); `gone` says of which frames the entry that held them has completed. -/
def State.replanHold (s : State) (gone : FrameKey → Bool) : State := s.decoder.hold.foldl (State.replanOne gone) s

/-! ### Productions (R26) -/

/-- The chunk record that a piece gives (R24). -/
def Piece.toChunk (p : Piece) (e : DirEntry) : Chunk :=
  { frame := e.id, offset := p.offset, layout := p.layout, member := p.member, alternate := p.alternate, altTried := false,
    block := p.block, count := p.count, deadline := e.deadline, cls := e.cls, arrival := 0, firstIssue := none,
    holdoff := none, state := .queued }

/-- The in-flight count of a piece's layout entry rises by one (R26, R32). -/
def State.countPiece (s : State) (p : Piece) : State :=
  let x := s.decoder.layout[p.layout]
  s.setLayout p.layout { x with inFlight := x.inFlight + 1 }

/-- A chunk joins its queue with the deadline and class that its frame then has (R24). -/
def State.joinPiece (d : Nat) (s : State) (p : Piece) : State :=
  match s.dirEntry d with
  | none => s
  | some e => s.join (p.toChunk e)

/-- A production asked with `n` chunk records (R26): the extent is walked again, and the records are filled, counted and
handed over in frame order; or they go back to the pool, which calls for a service pass (R128), and the frame's new result
is acted on (R116). -/
def State.produce (s : State) (d n : Nat) : State :=
  match s.dirEntry d with
  | none => s
  | some e =>
    match s.decoder.plan e.key with
    | .mapped ps =>
      if ps.length = n then
        let s := ps.foldl State.countPiece s
        let s := s.setDir { e with decoding := .produced, total := n, unsettled := n }
        ps.foldl (State.joinPiece d) s
      else s.callPass.released d (.mapped ps)
    | p => s.callPass.released d p

end Sys2Proof.Machine
end

