-- ==== Sys2Proof/Machine/Marks.lean ====
section
/-! DEFINITION. Frame marks: tags (R100), the count rule (R101), shown marks at a completion (R101), and fetched marks at
an allocation (R103). -/

namespace Sys2Proof.Machine

/-- The mark slots, lowest first. -/
def allSlots : List (Fin 8) := List.finRange 8

/-- A direction condition matches a direction (R100). -/
def condMatches : MarkCond → Direction → Bool
  | .any, _ => true
  | .forward, .forward => true
  | .reverse, .reverse => true
  | _, _ => false

/-- A set slot of a kind answers to a frame passing in a direction (R100, R103). -/
def Mark.answers (m : Mark) (kind : MarkKind) (key : FrameKey) (d : Direction) : Bool :=
  m.kind == kind && m.clip == key.clip && m.frame == key.frame && condMatches m.cond d

/-- The tags of a FRAME entry made for a frame: one for each SHOWN slot it answers to (R100). -/
def Stream.tagsFor (x : Stream) (key : FrameKey) (d : Direction) : List Tag :=
  allSlots.filterMap fun i =>
    match x.marks[i] with
    | some m => if m.answers .shown key d then some ⟨i, m.serial⟩ else none
    | none => none

/-- A tag is live: its slot is set with the serial the tag recorded (R100). -/
def Stream.tagLive (x : Stream) (t : Tag) : Bool :=
  match x.marks[t.slot] with
  | some m => m.serial == t.serial
  | none => false

/-- The count rule (R101): one event of a mark, and whether the mark fires. -/
def Mark.event (m : Mark) : Mark × Bool :=
  match m.limit with
  | none => (m, true)
  | some l => if m.count + 1 = l then ({ m with count := 0 }, true) else ({ m with count := m.count + 1 }, false)

/-- A mark slot replaced. -/
def Stream.setMark (x : Stream) (i : Fin 8) (m : Option Mark) : Stream := { x with marks := x.marks.set i m }

/-- One tag of a completed FRAME evaluated (R101): a live tag is a hit, and SHWN is raised if its mark fires. -/
def State.evalTag (n : StreamId) (e : Entry) (s : State) (t : Tag) : State :=
  match (s.stream n).marks[t.slot] with
  | some m =>
    if m.serial = t.serial then
      let s := s.setStream n ((s.stream n).setMark t.slot (some m.event.1))
      if m.event.2 then s.raise (.shwn n t.slot e.direction m.clip m.serial m.frame e.tick) else s
    else s
  | none => s

/-- The lowest slot of a HOLD mark that fires at the completion of an entry, its tags being in slot order (R102). -/
def Stream.holdFired (x : Stream) : List Tag → Option (Fin 8)
  | [] => none
  | t :: rest =>
    match x.marks[t.slot] with
    | some m =>
      if m.serial = t.serial ∧ m.event.2 = true ∧ m.action = .hold then some t.slot else x.holdFired rest
    | none => x.holdFired rest

/-- One slot consulted at an allocation caused by an entry of the stream (R103). -/
def State.evalFetched (n : StreamId) (key : FrameKey) (d : Direction) (tick : Word) (s : State) (i : Fin 8) : State :=
  match (s.stream n).marks[i] with
  | some m =>
    if m.answers .fetched key d then
      let s := s.setStream n ((s.stream n).setMark i (some m.event.1))
      if m.event.2 then s.raise (.ftch n i m.clip m.serial m.frame tick) else s
    else s
  | none => s

/-- The FETCHED marks of the stream whose entry was answered "allocated" (R103). -/
def State.fetchedMarks (s : State) (n : StreamId) (key : FrameKey) (d : Direction) (tick : Word) : State :=
  allSlots.foldl (State.evalFetched n key d tick) s

end Sys2Proof.Machine
end

