-- ==== Sys2Proof/Machine/Sending.lean ====
section
/-! DEFINITION. The Egress Scheduler: fragments and their eligibility (R151), the messages a presentation owes (R150), the
transmitter arbiter (R152), cancelling (R148, R149, R154), and admission (R145). -/

namespace Sys2Proof.Machine

/-! ### Admission (R145) -/

/-- The port admits E. -/
def PortState.admits (p : PortState) (e : Nat) : Bool := decide (p.allocated + e ≤ Config.portLimit)

/-- A rate put on a port. -/
def State.allocate (s : State) (p : Port) (e : Nat) : State :=
  s.setPort p { s.port p with allocated := (s.port p).allocated + e }

/-- A rate taken off a port. -/
def State.withdrawRate (s : State) (p : Port) (e : Nat) : State :=
  s.setPort p { s.port p with allocated := (s.port p).allocated - e }

/-- The number of unmuted viewers of a stream. -/
def Stream.unmuted (x : Stream) : Nat :=
  (allSlots.filter fun i => match x.viewers[i] with | some v => !v.muted | none => false).length

/-! ### Fragments (R151) -/

/-- The fragments of a frame of `b` bytes: ceil(b / 8,192). -/
def fragmentCount (b : Nat) : Nat := ceilDiv b Config.fragmentBytes

/-- The bytes that fragment `j` carries. -/
def fragmentLength (b j : Nat) : Nat := min ((j + 1) * Config.fragmentBytes) b - j * Config.fragmentBytes

/-- How long after the start fragment `j` is eligible: ceil(j × 8,192 × 1,000 / E) ns. -/
def pacing (e j : Nat) : Nat := ceilDiv (j * Config.fragmentBytes * 1000) e

/-- The fragments that a presentation is sent in; one that carries no frame has one round of header-only messages. -/
def Presentation.rounds (p : Presentation) : Nat :=
  match p.sentAs with
  | .frame _ b _ => fragmentCount b
  | _ => 1

/-- When nothing is left of the present fragment, the messages of the next one are owed, to the unmuted recipients
(R150, R151). -/
def Presentation.settle (p : Presentation) : Presentation :=
  if p.todo = [] ∧ p.fragment + 1 < p.rounds then
    let u := p.recipients.filter fun r => !r.muted
    if u = [] then p else { p with fragment := p.fragment + 1, todo := u }
  else p

/-- The ET from which the next message is eligible (R151). -/
def Presentation.eligibleFrom (p : Presentation) : Time := later p.start (pacing p.egress p.fragment)

/-- The recipients of a presentation that begins now, in slot order (R150). -/
def Stream.recipients (x : Stream) : List Recipient :=
  allSlots.filterMap fun i => (x.viewers[i]).map fun v => ⟨i, v.muted⟩

/-! ### The transmitter (R152) -/

/-- The presentation of stream `n` has an eligible next message on the port. -/
def State.sendable (s : State) (p : Port) (n : StreamId) : Option Presentation :=
  match s.presentation n with
  | none => none
  | some x => if x.port = p ∧ x.todo ≠ [] ∧ s.reached x.eligibleFrom = true then some x else none

/-- The stream that the arbiter chooses: the earliest deliver time, and the lower stream number among equals. -/
def State.chosenStream (s : State) (p : Port) : Option (StreamId × Presentation) :=
  allStreams.foldl
    (fun best n =>
      match s.sendable p n with
      | none => best
      | some x =>
        match best with
        | none => some (n, x)
        | some b => if x.deliver.ult b.2.deliver then some (n, x) else some b) none

/-- The bytes of a frame from byte `from_`, read through its page list (R104). -/
def State.frameBytes (s : State) (ref from_ : Nat) : Nat → List Byte
  | 0 => []
  | n + 1 =>
    let pages := match s.dirEntry ref with | some e => e.pages | none => []
    let b := match frameAddress pages from_ with | some a => readByte s.buffer.store a | none => unwritten
    b :: s.frameBytes ref (from_ + 1) n

/-- The message that a presentation owes to a recipient next: a fragment to an unmuted recipient of a FRAME, and a
header-only message otherwise (R150, R151, R153). -/
def State.messageFor (s : State) (x : Presentation) (r : Recipient) : Message :=
  match x.sentAs with
  | .frame _ b ref =>
    if r.muted then ⟨r.viewer, none, true⟩
    else
      let j := x.fragment
      ⟨r.viewer, some (j * Config.fragmentBytes, s.frameBytes ref (j * Config.fragmentBytes) (fragmentLength b j)),
        j + 1 == fragmentCount b⟩
  | _ => ⟨r.viewer, none, true⟩

/-- The next message of a presentation begins transmission. -/
def State.sendNext (s : State) (p : Port) (n : StreamId) (x : Presentation) : State :=
  match x.todo with
  | [] => s
  | r :: rest =>
    let s' := s.setPort p { s.port p with transmitting := some ⟨n, x.tick, r.viewer⟩ }
    let s' := s'.setPresentation n (some { x with todo := rest : Presentation }.settle)
    match (s.stream n).viewers[r.viewer] with
    | some v => s'.emit (.delivery p (deliveryBytes n x v (s.messageFor x r)))
    | none => s'

/-- The transmitter arbiter (R152): whenever the transmitter of an UP port is free and a presentation has an eligible next
message, one is sent. Nothing is sent in HALTED (R21). -/
def State.transmit (s : State) (p : Port) : State :=
  if s.halted || !(s.port p).up || (s.port p).transmitting.isSome then s
  else
    match s.chosenStream p with
    | none => s
    | some b => s.sendNext p b.1 b.2

/-- The message being transmitted on a port is cut short (R154). -/
def State.cutTransmission (s : State) (p : Port) : State :=
  if (s.port p).transmitting.isSome then
    (s.setPort p { s.port p with transmitting := none }).emit (.cutShort p)
  else s

/-- The message being transmitted is cut short if it is the stream's (R60, R152). -/
def State.cutStream (s : State) (n : StreamId) (p : Port) : State :=
  match (s.port p).transmitting with
  | some t => if t.stream = n then (s.cutTransmission p).transmit p else s
  | none => s

/-! ### Completion (R154) -/

/-- The message being transmitted on the presentation's port is one of it, to a recipient still listed. -/
def State.inFlight (s : State) (n : StreamId) (x : Presentation) : Bool :=
  match (s.port x.port).transmitting with
  | some t => t.stream == n && t.tick == x.tick && x.recipients.any (fun r => r.viewer == t.viewer)
  | none => false

/-- Every message owed to the recipients still listed has been sent (R154). -/
def State.complete (s : State) (n : StreamId) : Bool :=
  match s.presentation n with
  | none => false
  | some x => x.todo.isEmpty && !s.inFlight n x

/-- The messages not yet sent to a viewer are not sent, and the viewer is listed no more (R148, R149). -/
def State.cancelViewer (s : State) (n : StreamId) (v : Fin 8) : State :=
  match s.presentation n with
  | none => s
  | some x =>
    s.setPresentation n
      (some
        { x with
          recipients := x.recipients.filter fun r => r.viewer != v
          todo := x.todo.filter fun r => r.viewer != v : Presentation }.settle)

end Sys2Proof.Machine
end

