-- ==== Sys2Proof/Machine/Windows.lean ====
section
/-! DEFINITION. The readahead window: tick arithmetic (R66, R70), projection (R92, R93), the locate entry (R56), lookups
(R94, R106), discard (R97), and changes of deadlines (R71, R73, R76). -/

namespace Sys2Proof.Machine

/-! ### Time arithmetic (04) -/

/-- q = floor(10^9 × D / N) (R64). -/
def periodWhole (n d : Nat) : Nat := 1000000000 * d / n
/-- r = (10^9 × D) mod N (R64). -/
def periodRest (n d : Nat) : Nat := 1000000000 * d % n

/-- The projection state stepped to the next tick (R66). -/
def Projection.step (p : Projection) (x : Stream) : Projection :=
  let acc := p.acc + x.r
  if x.rateN ≤ acc then
    { p with deliver := later (later p.deliver x.q) 1, acc := acc - x.rateN, index := p.index + 1 }
  else { p with deliver := later p.deliver x.q, acc := acc, index := p.index + 1 }

/-- R_k = T_k − X − G, and 0 when T_k is less than X + G (R70). -/
def readyDeadline (t : Time) (x g : Nat) : Time :=
  if t.toNat < x + g then 0 else t - BitVec.ofNat 64 (x + g)

/-- The ready deadline of an entry at its deliver time; none for an entry that carries no frame (R70). -/
def Entry.deadlineAt (e : Entry) (g : Nat) : Deadline :=
  if e.kind = .frame then some (readyDeadline e.deliver e.allowance g) else e.deadline

/-- The class of an entry of a run (R59): PLAY while |S| ≤ 16. -/
def runCls (speed : Int) : Cls := if speed.natAbs ≤ 16 then .play else .scrub

/-! ### Entries -/

/-- The entry of a tick changed. -/
def State.changeEntry (s : State) (n : StreamId) (tick : Word) (f : Entry → Entry) : State :=
  s.setStream n
    { s.stream n with window := (s.stream n).window.map fun e => if e.tick = tick then f e else e }

/-- The lookup that a FRAME entry asks (R94, R106). A hit gives it its reference and stage; a miss joins the wait list,
and the entry stays PROJECTED until a service pass has considered it (log 9). -/
def State.ask (s : State) (n : StreamId) (e : Entry) : State :=
  match e.kind, e.frame with
  | .frame, some key =>
    match s.buffer.lookup key with
    | some d =>
      (s.changeEntry n e.tick fun x => { x with stage := d.stageOf, ref := some d.id }).hit d e.deadline e.cls
    | none => s.addWaiter (.request n e.tick key e.deadline e.cls)
  | _, _ => s

/-- The position of the next entry of a run: the position copy itself for a fresh one, and the copy advanced by S
otherwise (R93, step 2). -/
def Stream.nextPosition (x : Stream) : Advance :=
  if x.proj.fresh then ⟨x.proj.cue, x.proj.offset, x.proj.counters, [], none⟩
  else advance x.cues x.speed x.proj.cue x.proj.offset x.proj.counters

/-- An entry for a position, before its tags (R84, R90, R93). -/
def State.entryAt (s : State) (x : Stream) (a : Advance) : Entry :=
  let frame := frameAt s.decoder x.cues a.cue a.offset
  let kind := kindAt frame x.proj.prev
  let bytes := match frame with | some k => (s.clip k.clip).bytes | none => 0
  { tick := x.nextTick, index := x.proj.index, deliver := x.proj.deliver, deadline := none,
    allowance := if kind = .frame then allowance bytes x.egress else 0, kind := kind, cue := a.cue, offset := a.offset,
    frame := frame, cls := runCls x.speed, direction := directionAt x.cues a.cue x.speed,
    stage := if kind = .frame then .projected else .ready, ref := none, tags := [], changes := a.changes,
    listEnd := a.ended, locate := false, sentAs := none }

/-- The tags of an entry (R100): REPEAT and GAP entries are not tagged. -/
def Stream.tagged (x : Stream) (e : Entry) : Entry :=
  match e.kind, e.frame with
  | .frame, some key => { e with tags := x.tagsFor key e.direction }
  | _, _ => e

/-- The next entry of a run (R93, steps 1 to 6). -/
def State.nextEntry (s : State) (x : Stream) : Entry :=
  let e := s.entryAt x x.nextPosition
  x.tagged { e with deadline := e.deadlineAt x.margin }

/-- The stream once an entry of a run has been made: tick number, time, position copy, counters and previous frame have
moved on, and the entry is the window's last (R66, R93). -/
def Stream.afterEntry (x : Stream) (a : Advance) (e : Entry) : Stream :=
  { x with
    nextTick := x.nextTick + 1
    proj :=
      { x.proj.step x with
        cue := a.cue, offset := a.offset, counters := a.counters,
        prev := if e.kind = .frame then e.frame else x.proj.prev, fresh := false }
    window := x.window ++ [e] }

/-- A stream projects (R92). -/
def State.projects (s : State) (n : StreamId) : Bool :=
  let x := s.stream n
  !s.halted && x.state == .running && decide (x.window.length < x.depth) && x.window.all (fun e => e.listEnd.isNone)

/-- Projection: entries one after another until the window is full or the entry just made carries a list-end mark (R92).
The depth is at most 16. -/
def projectLoop (n : StreamId) : Nat → State → State
  | 0, s => s
  | fuel + 1, s =>
    if s.projects n then
      let x := s.stream n
      let e := s.nextEntry x
      projectLoop n fuel ((s.setStream n (x.afterEntry x.nextPosition e)).ask n e)
    else s

/-- The stream projects if R92 allows. -/
def State.project (s : State) (n : StreamId) : State := projectLoop n 16 s

/-- The locate entry of a locate (R56, R74, R88). -/
def State.locateEntry (s : State) (x : Stream) (l : Locate) : Entry :=
  let changes := locateReloads l.cue 0 x.cues
  let e := s.entryAt x ⟨l.cue, l.offset, [], changes, none⟩
  x.tagged
    { e with
      index := 0, deliver := l.decided, deadline := if e.kind = .frame then some l.decided else none, cls := .scrub,
      direction := .none, locate := true }

/-- The locate entry is projected (R56, R93). -/
def State.projectLocate (s : State) (n : StreamId) : State :=
  let x := s.stream n
  match x.locate with
  | none => s
  | some l =>
    let e := s.locateEntry x l
    let x' :=
      { x with
        nextTick := x.nextTick + 1
        locate := some { l with projected := true }
        proj :=
          { x.proj with
            counters := applyToCounters e.changes x.proj.counters
            prev := if e.kind = .frame then e.frame else x.proj.prev }
        window := x.window ++ [e] }
    (s.setStream n x').ask n e

/-- The locate entry is projected once no presentation of the stream is SENDING (R56). -/
def State.projectLocateIfDue (s : State) (n : StreamId) : State :=
  let x := s.stream n
  match x.locate with
  | none => s
  | some l =>
    if x.state = .seeking ∧ l.projected = false ∧ x.sendingEntry = none then s.projectLocate n else s

/-! ### Discard (R97) -/

/-- The position copy, the working counters and the previous frame reset from the stream's own fields (R87). -/
def Stream.resetProjection (x : Stream) : Stream :=
  { x with
    proj :=
      { x.proj with cue := x.cue, offset := x.offset, counters := liveCounters x.cues, prev := x.lastPresented } }

/-- What a window entry holds is given back: its directory reference, or its request on the wait list (R97, R107). -/
def State.giveBack (n : StreamId) (s : State) (e : Entry) : State :=
  match e.ref with
  | some d => s.release d
  | none => s.removeWaiters fun w => w.isRequest n e.tick

/-- A discard (R97): every entry that has not begun sending is removed, from the latest tick to the earliest, and the
projection is reset (R87). A SLIP wait ends (R77). -/
def State.discard (s : State) (n : StreamId) : State :=
  let gone := (s.stream n).unsent.reverse
  let x := s.stream n
  let s := s.setStream n
    { x with window := x.window.filter (fun e => e.stage == .sending), slipEnd := none : Stream }.resetProjection
  gone.foldl (State.giveBack n) s

/-- The list-end mark is taken off an entry that is SENDING: its completion no longer parks the stream (R54). -/
def State.unmarkSending (s : State) (n : StreamId) : State :=
  s.setStream n
    { s.stream n with
      window := (s.stream n).window.map fun e => if e.stage = .sending then { e with listEnd := none } else e }

/-! ### Changes of deadlines (R71) -/

/-- An entry's ready deadline is reported: to its directory entry, or to its place on the wait list (R71, R94). -/
def State.reportEntry (n : StreamId) (s : State) (e : Entry) : State :=
  if e.kind = .frame ∧ e.stage ≠ .sending then
    match e.ref with
    | some d => s.reportDeadline d e.deadline
    | none => s.moveWaiter (fun w => w.isRequest n e.tick) e.deadline
  else s

/-- The window replaced by one of the same entries with other times, and the deadlines of the unsent entries reported in
window order. On a release that is the order in which R73 takes the entries. DESIGN CHOICE (log 19) on a hold and on a SLIP
shift: R50, R71 and R76 give their reports no order, and the order settles how WAITING entries stand on the wait list among
equal deadlines (R113). -/
def State.retime (s : State) (n : StreamId) (window : List Entry) : State :=
  window.foldl (State.reportEntry n) (s.setStream n { s.stream n with window := window })

/-- A stream enters HELD (R49, R50, R102): every entry that has not begun sending takes the deadline "none", and a SLIP
wait ends (R77). -/
def State.hold (s : State) (n : StreamId) (time : Option Time) (resume : Bool) : State :=
  let s := s.setStream n
    { s.stream n with state := .held, releaseTime := time, releaseResume := resume, slipEnd := none }
  s.retime n ((s.stream n).window.map fun e => if e.stage = .sending then e else { e with deadline := none })

/-- Entries re-timed as run ticks from a projection state on, and the projection state after them (R73). Entries that are
SENDING are not re-timed. -/
def retimeEntries (x : Stream) : Projection → List Entry → List Entry × Projection
  | p, [] => ([], p)
  | p, e :: rest =>
    if e.stage = .sending then
      let r := retimeEntries x p rest
      (e :: r.1, r.2)
    else
      let e' := { e with index := p.index, deliver := p.deliver }
      let r := retimeEntries x (p.step x) rest
      ({ e' with deadline := e'.deadlineAt x.margin } :: r.1, r.2)

/-- A HELD stream is released into a new run from an anchor (R51, R52, R73), and projects. -/
def State.releaseHold (s : State) (n : StreamId) (anchor : Time) : State :=
  let x := s.stream n
  let start : Projection := { x.proj with anchor := anchor, index := 0, deliver := anchor, acc := 0 }
  let r := retimeEntries x start x.window
  let s := s.setStream n
    { x with
      state := .running, releaseTime := none, releaseResume := false, slipEnd := none,
      proj := { r.2 with fresh := if x.unsent = [] then !x.shown else false } }
  (s.retime n r.1).project n

end Sys2Proof.Machine
end

