-- ==== Sys2Proof/Machine/Streams.lean ====
section
/-! DEFINITION. The life of a presentation in its stream: beginning to send (R95), its end (R96), the turn of an entry
(R72), late policies and slips (R75, R76, R155), runs (R67), and the closing of a stream (R60). -/

namespace Sys2Proof.Machine

/-! ### Beginning to send (R95) -/

/-- What a READY entry is sent as: its own kind (R95). -/
def State.ownKind (s : State) (e : Entry) : SentAs :=
  match e.kind, e.frame, e.ref with
  | .frame, some k, some d => .frame k (match s.dirEntry d with | some x => x.bytes | none => 0) d
  | .repeated, some k, _ => .repeated k
  | _, _, _ => .fill .gap

/-- A FRAME entry that is not sent as FRAME is a substitute (R95). -/
def isSubstitute (e : Entry) (as_ : SentAs) : Bool :=
  e.kind == .frame && (match as_ with | .frame .. => false | _ => true)

/-- The stream once an entry has begun sending (R39, R88, R95). A substitute keeps its place without a reference and
without tags (R95, R100). -/
def Stream.begun (x : Stream) (e : Entry) (as_ : SentAs) : Stream :=
  let sub := isSubstitute e as_
  let e' : Entry :=
    { e with
      stage := .sending, sentAs := some as_, ref := if sub then none else e.ref, tags := if sub then [] else e.tags }
  { x with
    window := x.window.map fun y => if y.tick = e.tick then e' else y
    cue := e.cue
    offset := e.offset
    shown := true
    lastPresented := match as_ with | .frame k _ _ => some k | _ => x.lastPresented
    cues := applyChanges e.changes x.cues
    slipEnd := none }

/-- The presentation record of an entry that begins sending now (R150). -/
def State.presentationOf (s : State) (x : Stream) (e : Entry) (as_ : SentAs) : Presentation :=
  let marked := match as_ with | .frame .. => e.tags.any fun t => x.tagLive t | _ => false
  { port := x.port, egress := x.egress, tick := e.tick, deliver := e.deliver, start := s.et, sentAs := as_, marked := marked,
    listEnd := e.listEnd.isSome, recipients := x.recipients, fragment := 0, todo := x.recipients }

/-- An entry begins sending and is handed to the Egress Scheduler, which makes the presentation record; on an UP port the
transmitter arbiter may take its first message at once (R95, R150, R152). -/
def State.handOver (s : State) (n : StreamId) (e : Entry) (as_ : SentAs) : State :=
  let x := s.stream n
  let p := s.presentationOf x e as_
  let s := s.setStream n (x.begun e as_)
  let s := if isSubstitute e as_ then State.giveBack n s e else s
  (s.setPresentation n (some p)).transmit x.port

/-! ### The end of a presentation (R96) -/

/-- The last shown fields set (R96, step 1). A GAP entry has no clip and frame, and the manual says nothing of what the
fields then hold: two free values (log 11). -/
def State.setShown (s : State) (n : StreamId) (e : Entry) : State :=
  match e.frame with
  | some k =>
    s.setStream n
      { s.stream n with
        shownTick := e.tick, shownClip := BitVec.ofNat 8 k.clip, shownFrame := BitVec.ofNat 32 k.frame }
  | none =>
    (s.setStream n
      { s.stream n with
        shownTick := e.tick, shownClip := Config.freeByte s.drawn, shownFrame := Config.freeWord s.drawn }).draw

/-- The park of a list-end entry's completion, with ENDL (R54, R89). -/
def State.parkAtEnd (s : State) (n : StreamId) (e : Entry) (which : ListEnd) : State :=
  let x := s.stream n
  let s := s.setStream n
    { x with
      state := .parked, speed := 0, shown := false, releaseTime := none, releaseResume := false, slipEnd := none }
  let s := s.discard n
  match e.frame with
  | some k =>
    s.raise (.endl n which e.cue e.offset e.tick true (BitVec.ofNat 8 k.clip) (BitVec.ofNat 32 k.frame))
  | none =>
    (s.raise
      (.endl n which e.cue e.offset e.tick false (Config.freeByte s.drawn) (Config.freeWord s.drawn))).draw

/-- A run begun by a locate's then-action: anchored at the ET at which the locate entry began sending, with the locate
presentation as run tick 0 (R56, R67, R74). -/
def Stream.runFromLocate (x : Stream) (l : Locate) (anchor : Time) : Stream :=
  let start : Projection :=
    { anchor := anchor, index := 0, deliver := anchor, acc := 0, cue := l.cue, offset := l.offset,
      counters := liveCounters x.cues, prev := x.lastPresented, fresh := false }
  { x with state := .running, speed := l.thenSpeed, proj := start.step x }

/-- The result of a locate: FAILED if a FILL for a failed frame was sent, OK otherwise (R56). -/
def Entry.locateResult (e : Entry) : Result := if e.sentAs = some (.fill .failed) then .failed else .ok

/-- The completion of a locate entry (R56). -/
def State.finishLocate (s : State) (n : StreamId) (e : Entry) (l : Locate) : State :=
  let s := s.raise (.locd l.ref n e.locateResult l.cue l.offset)
  let x := { s.stream n with locate := none }
  s.setStream n
    (if l.thenPlay then x.runFromLocate l e.deliver else { x with state := .parked, speed := 0, shown := false })

/-- The transport consequences of a completion (R96, step 4). -/
def State.consequences (s : State) (n : StreamId) (e : Entry) : State :=
  match e.listEnd with
  | some which => s.parkAtEnd n e which
  | none =>
    match (s.stream n).locate with
    | some l => if e.locate = true ∧ l.projected = true then s.finishLocate n e l else s
    | none => s

/-- The HOLD action of a mark that fired (R102). -/
def State.holdByMark (s : State) (n : StreamId) (e : Entry) (fired : Option (Fin 8)) : State :=
  match fired with
  | none => s
  | some slot =>
    if (s.stream n).state = .running then (s.hold n none true).raise (.hldn n slot e.tick) else s

/-- The end of the stream's presentation, complete or INTERRUPTED (R96). The record has been dropped. -/
def State.finish (s : State) (n : StreamId) (interrupted : Bool) : State :=
  match (s.stream n).sendingEntry with
  | none => s
  | some e =>
    let s := s.setShown n e
    let tags := match e.sentAs with | some (.frame ..) => if interrupted then [] else e.tags | _ => []
    let fired := (s.stream n).holdFired tags
    let s := tags.foldl (State.evalTag n e) s
    let s := s.setStream n
      { s.stream n with window := (s.stream n).window.filter fun y => y.stage != .sending }
    let s := match e.ref with | some d => s.release d | none => s
    let s := s.consequences n e
    let s := s.holdByMark n e fired
    let s := (s.project n).projectLocateIfDue n
    s.markMirror n

/-- The presentation record is dropped and its end reported (R154, R156). -/
def State.endPresentation (s : State) (n : StreamId) (interrupted : Bool) : State :=
  (s.setPresentation n none).finish n interrupted

/-- An entry begins sending; on a DOWN port it is reported INTERRUPTED at once, without any message (R156). -/
def State.begin (s : State) (n : StreamId) (e : Entry) (as_ : SentAs) : State :=
  let port := (s.stream n).port
  let s := s.handOver n e as_
  if (s.port port).up then s else s.endPresentation n true

/-! ### Turns and late policies (R72, R75, R76, R155) -/

/-- One application of a late policy: the late count rises and LATE is raised (R155). `e` carries the deliver time before
any shift. -/
def State.applyLate (s : State) (n : StreamId) (e : Entry) (outcome : LateOutcome) (waited : Time) : State :=
  let x := s.stream n
  let s := s.setStream n { x with lateCount := x.lateCount + 1 }
  match e.frame with
  | some k => s.raise (.late n x.policy outcome k.clip e.tick k.frame waited e.deliver)
  | none => s

/-- The timeline shifted by δ (R76): the entry's own deliver time becomes `t`, every later entry and the run are shifted. -/
def State.shift (s : State) (n : StreamId) (e : Entry) (t : Time) : State :=
  let x := s.stream n
  let delta := t - e.deliver
  let s := s.setStream n
    { x with proj := { x.proj with anchor := x.proj.anchor + delta, deliver := x.proj.deliver + delta } }
  let window := x.window.map fun y =>
    if y.tick = e.tick then { y with deliver := t }
    else
      let y' := { y with deliver := y.deliver + delta }
      { y' with deadline := y'.deadlineAt x.margin }
  s.retime n window

/-- The substitute that SKIP and REPEAT send, and what LATE then says of it (R155). -/
def Stream.substitute (x : Stream) : SentAs × LateOutcome :=
  match x.policy, x.lastPresented with
  | .repeatLast, some k => (.repeated k, .repeated)
  | _, _ => (.fill .missing, .fillMissing)

/-- The late policy at the turn of an entry whose frame is neither READY nor FAILED (R155, R75). On a DOWN port none is
applied: the entry is sent as FILL MISSING (R156). -/
def State.latePolicy (s : State) (n : StreamId) (e : Entry) : State :=
  let x := s.stream n
  if (s.port x.port).up then
    match x.policy with
    | .slip =>
      if (later e.deliver x.slipLimit).ule s.et then (s.applyLate n e .fillMissing 0).begin n e (.fill .missing)
      else s.setStream n { x with slipEnd := some (later e.deliver x.slipLimit) }
    | _ => (s.applyLate n e x.substitute.2 0).begin n e x.substitute.1
  else s.begin n e (.fill .missing)

/-- An entry's turn (R72). -/
def State.turn (s : State) (n : StreamId) (e : Entry) : State :=
  match e.stage with
  | .ready => s.begin n e (s.ownKind e)
  | .failed => s.begin n e (.fill .failed)
  | _ => s.latePolicy n e

/-- The entry whose turn has come (R72): the earliest unsent entry of a RUNNING stream with nothing SENDING, its deliver
time being reached, and no SLIP wait in progress. -/
def State.dueEntry (s : State) (n : StreamId) : Option Entry :=
  let x := s.stream n
  if x.state = .running ∧ x.slipEnd = none ∧ x.sendingEntry = none then
    match x.unsent with
    | [] => none
    | e :: _ => if s.reached e.deliver then some e else none
  else none

/-- The turn of the stream's entry, if it has come. -/
def State.turnIfDue (s : State) (n : StreamId) : State :=
  match s.dueEntry n with
  | none => s
  | some e => s.turn n e

/-! ### What a report of a frame sets going (R74, R75) -/

/-- The stream's SLIP wait is in progress and Engine Time has not passed its end (R75). -/
def State.inWait (s : State) (x : Stream) : Bool :=
  x.state == .running && (match x.slipEnd with | some t => s.et.ule t | none => false)

/-- The entry of a stream that may begin sending because its frame is READY or FAILED: a locate entry with nothing
SENDING (R74), or the entry of a SLIP wait whose end has not been passed (R75). -/
def State.wakeable (s : State) (n : StreamId) : Option Entry :=
  let x := s.stream n
  match x.unsent with
  | [] => none
  | e :: _ =>
    let settled := e.stage == .ready || e.stage == .failed
    if settled && x.sendingEntry.isNone
        && ((x.state == .seeking && e.locate) || s.inWait x) then some e
    else none

/-- A locate entry begins sending; its deliver time becomes the ET at which it begins (R74). -/
def State.beginLocate (s : State) (n : StreamId) (e : Entry) : State :=
  let e' := { e with deliver := s.et }
  s.begin n e' (if e.stage = .failed then .fill .failed else s.ownKind e)

/-- The entry of a SLIP wait begins sending: its frame with a shift of the timeline, or FILL FAILED (R75, R76). -/
def State.endWait (s : State) (n : StreamId) (e : Entry) : State :=
  if e.stage = .failed then (s.applyLate n e .fillFailed (s.et - e.deliver)).begin n e (.fill .failed)
  else
    let as_ := s.ownKind e
    ((s.applyLate n e .frameAfterWait (s.et - e.deliver)).shift n e s.et).begin n { e with deliver := s.et } as_

/-- What a stream does once the frame it waits for is READY or FAILED. -/
def State.wake (s : State) (n : StreamId) (e : Entry) : State :=
  if (s.stream n).state = .seeking then s.beginLocate n e else s.endWait n e

/-- Streams woken, lowest number first, until none is left to wake. A stream is woken at most once for its wait and once
for its locate, so the turns suffice (log 19). -/
def wakeLoop : Nat → State → State
  | 0, s => s
  | fuel + 1, s =>
    match allStreams.findSome? (fun n => (s.wakeable n).map fun e => (n, e)) with
    | none => s
    | some b => wakeLoop fuel (s.wake b.1 b.2)

/-- The streams that wait for a frame that is now READY or FAILED begin sending. -/
def State.wakeAll (s : State) : State := wakeLoop 256 s

/-! ### Runs begun by PLAY (R46 to R48, R67) -/

/-- The floor of a run started by an order: the decision ET plus L, and one more than the deliver time of an entry kept
SENDING (R67). -/
def State.runFloor (s : State) (x : Stream) : Time :=
  let a := later s.et x.latency
  match x.sendingEntry with
  | none => a
  | some e => if a.ult (later e.deliver 1) then later e.deliver 1 else a

/-- A run at a speed from an anchor: the window's unsent entries are discarded, and the window is projected afresh from
the position of R39 (R46, R47, R48). -/
def State.startRun (s : State) (n : StreamId) (speed : Int) (anchor : Time) : State :=
  let s := (s.discard n).unmarkSending n
  let x := s.stream n
  let s := s.setStream n
    { x with
      state := .running, speed := speed, releaseTime := none, releaseResume := false,
      proj :=
        { anchor := anchor, index := 0, deliver := anchor, acc := 0, cue := x.cue, offset := x.offset,
          counters := liveCounters x.cues, prev := x.lastPresented, fresh := !x.shown } }
  s.project n

/-! ### Closing (R60, R61) -/

/-- A stream is closed, as SHUT and STOP close it (R60): its presentation is cut off, its window discarded, its viewers
and its admission removed, its marks, cues, hold and locate cleared; it enters CLOSED, and a mirror update and, from
SEEKING, LOCD ABANDONED are raised. -/
def State.closeStream (s : State) (n : StreamId) : State :=
  let x := s.stream n
  let s := (s.setPresentation n none).cutStream n x.port
  let s := s.discard n
  let s := match x.sendingEntry with | some e => State.giveBack n s e | none => s
  let s := s.withdrawRate x.port (x.egress * x.unmuted)
  let y := s.stream n
  let s := s.setStream n
    { y with
      state := .closed, speed := 0, window := [], cues := [], marks := Vector.replicate 8 none,
      viewers := Vector.replicate 8 none, releaseTime := none, releaseResume := false, locate := none, slipEnd := none,
      proj := { y.proj with counters := [] } }
  let s := s.markMirror n
  match x.locate with
  | some l => if x.state = .seeking then s.raise (.locd l.ref n .abandoned l.cue l.offset) else s
  | none => s

end Sys2Proof.Machine
end

