-- ==== Sys2Proof/Machine/Service.lean ====
section
/-! DEFINITION. Allocation: the needs of a waiter (R110), whether they can be met and what is reclaimed for them (R111),
serving a request (R115) or a frame (R117), and the service pass (R114). -/

namespace Sys2Proof.Machine

/-! ### Needs (R110, R111) -/

/-- What a waiter needs: a directory entry, pages and chunk records. -/
structure Needs where
  entry : Bool
  pages : Nat
  records : Nat
  deriving DecidableEq, Repr

/-- The pages of a frame of `bytes` bytes: ceil(frame bytes / 1,048,576). -/
def pageCount (bytes : Nat) : Nat := ceilDiv bytes Config.pageBytes

/-- The needs of a request, from the result of a plan and the clip's frame bytes (R110). -/
def needsOf (p : Plan) (bytes : Nat) : Needs :=
  match p with
  | .mapped ps => ⟨true, pageCount bytes, ps.length⟩
  | .held => ⟨true, pageCount bytes, 0⟩
  | .unmapped => ⟨true, 0, 0⟩
  | .notCurrent => ⟨true, 0, 0⟩

/-- The page target: the pages needed, and the play page reserve besides for a SCRUB waiter that needs pages (R111). -/
def Needs.target (x : Needs) (reserve : Nat) (cls : Cls) : Nat :=
  if x.pages = 0 then 0
  else
    match cls with
    | .play => x.pages
    | .scrub => x.pages + reserve

/-- The pages held by the entries on the reclaim list. -/
def FrameBuffer.reclaimPages (b : FrameBuffer) : Nat :=
  (b.reclaim.map fun d => match b.dir.find? (fun e => e.id == d) with | some e => e.pages.length | none => 0).sum

/-- The needs can be met at a page target (R111). -/
def State.canMeet (s : State) (x : Needs) (target : Nat) : Bool :=
  decide (x.records ≤ s.dispatcher.freeRecords)
    && decide (target ≤ s.buffer.freePages + s.buffer.reclaimPages)
    && (!x.entry || decide (1 ≤ s.buffer.freeEntries + s.buffer.reclaim.length))

/-- Entries reclaimed from the head of the reclaim list, until the free pages reach the target and, if one is needed, a
FREE entry exists (R111). -/
def reclaimLoop (target : Nat) (entry : Bool) : Nat → State → State
  | 0, s => s
  | fuel + 1, s =>
    if target ≤ s.buffer.freePages ∧ (entry = false ∨ 1 ≤ s.buffer.freeEntries) then s
    else
      match s.buffer.reclaim with
      | [] => s
      | d :: _ => reclaimLoop target entry fuel (s.freeEntry d)

/-- Entries reclaimed for a waiter (R111). -/
def State.reclaimFor (s : State) (x : Needs) (target : Nat) : State :=
  reclaimLoop target x.entry s.buffer.reclaim.length s

/-- The `count` lowest numbers from `next` on that are not taken; `fuel` bounds the search. Any free page, and any FREE
entry, may be taken (R104): the model takes the lowest (log 8). -/
def lowestFree (taken : List Nat) : Nat → Nat → Nat → List Nat
  | _, _, 0 => []
  | 0, _, _ + 1 => []
  | fuel + 1, next, count + 1 =>
    if taken.contains next then lowestFree taken fuel (next + 1) (count + 1)
    else next :: lowestFree taken fuel (next + 1) count

/-- Free pages for an allocation. -/
def FrameBuffer.takePages (b : FrameBuffer) (count : Nat) : List Nat :=
  lowestFree (b.dir.flatMap (·.pages)) Config.pages 0 count

/-- A FREE directory entry for an allocation. -/
def FrameBuffer.takeEntry (b : FrameBuffer) : Nat :=
  match lowestFree (b.dir.map (·.id)) Config.directoryEntries 0 1 with
  | d :: _ => d
  | [] => 0

/-! ### Answers (R94, R106) -/

/-- A window entry is answered with a reference. -/
def State.answer (s : State) (n : StreamId) (tick : Word) (stage : Stage) (d : Nat) : State :=
  s.changeEntry n tick fun e => { e with stage := stage, ref := some d }

/-- A request on the list whose key is now found is answered as a hit and leaves the list (R114). -/
def State.answerHit (s : State) (n : StreamId) (tick : Word) (deadline : Deadline) (cls : Cls) (e : DirEntry) : State :=
  ((s.removeWaiters fun w => w.isRequest n tick).answer n tick e.stageOf e.id).hit e deadline cls

/-- Every other request with the key is answered "found FILLING" once a FILLING entry has been made (R115). -/
def State.answerSameKey (s : State) (key : FrameKey) : State :=
  s.buffer.waiters.foldl
    (fun s w =>
      match w with
      | .request n tick k deadline cls =>
        if k = key then
          match s.buffer.lookup key with
          | some e => s.answerHit n tick deadline cls e
          | none => s
        else s
      | .frame .. => s) s

/-- The direction of the stream's entry of a tick. -/
def Stream.directionOf (x : Stream) (tick : Word) : Direction :=
  match x.window.find? (fun e => e.tick == tick) with
  | some e => e.direction
  | none => .none

/-! ### Serving (R115, R117) -/

/-- A directory entry taken for a request: users 1, the request's deadline and class (R115). -/
def newEntry (id : Nat) (state : FrameState) (key : FrameKey) (bytes : Nat) (pages : List Nat) (decoding : Decoding)
    (deadline : Deadline) (cls : Cls) (cause : Option Cause) : DirEntry :=
  { id := id, state := state, key := key, stale := false, bytes := bytes, pages := pages, decoding := decoding, total := 0,
    unsettled := 0, users := 1, deadline := deadline, cls := cls, cause := cause }

/-- A directory entry leaves FREE. -/
def State.addEntry (s : State) (e : DirEntry) : State := s.setBuffer { s.buffer with dir := s.buffer.dir ++ [e] }

/-- An allocation is answered "allocated" (R115): the entry is FILLING, the request's window entry is its user, the
stream's FETCHED marks are checked (R103), and the other requests of its key are answered. -/
def State.allocated (s : State) (n : StreamId) (tick : Word) (e : DirEntry) : State :=
  let s := (s.addEntry e).answer n tick .fetching e.id
  (s.fetchedMarks n e.key ((s.stream n).directionOf tick) tick).answerSameKey e.key

/-- A request is served (R115): resources are taken and the plan's result completes it. DESIGN CHOICE (log 40): the request
and the others of its key are answered before the production is made, so that FTCH precedes a FAIL of the production and
FAIL counts every user; R115 gives the two no order. -/
def State.serveRequest (s : State) (n : StreamId) (tick : Word) (key : FrameKey) (deadline : Deadline) (cls : Cls) :
    State :=
  let plan := s.decoder.plan key
  let bytes := (s.clip key.clip).bytes
  let needs := needsOf plan bytes
  let s := (s.removeWaiters fun w => w.isRequest n tick).reclaimFor needs (needs.target s.buffer.reserve cls)
  let id := s.buffer.takeEntry
  let pages := s.buffer.takePages needs.pages
  match plan with
  | .mapped ps =>
    (s.allocated n tick (newEntry id .filling key bytes pages .awaiting deadline cls none)).produce id ps.length
  | .held =>
    let s := s.setDecoder { s.decoder with hold := s.decoder.hold ++ [id] }
    s.allocated n tick (newEntry id .filling key bytes pages .held deadline cls none)
  | _ =>
    let s := s.addEntry (newEntry id .failed key bytes [] .undecoded deadline cls (some .unmapped))
    (s.raise (.fail key .unmapped none 0 0 1)).answer n tick .failed id

/-- The key is held by a stale entry that is FILLING or READY, so that a request for it cannot be met (R110). -/
def State.keyHeldStale (s : State) (key : FrameKey) : Bool :=
  s.buffer.dir.any fun e => e.key == key && e.stale && e.state != .failed

/-! ### The pass (R114) -/

/-- A service pass on its way: the state, whether it considers PLAY waiters only, whether it has ended, and the SCRUB
waiters that it has left where they stood. -/
structure Pass where
  state : State
  playOnly : Bool
  ended : Bool
  passed : List Waiter

/-- A request is considered (R114). -/
def Pass.request (p : Pass) (n : StreamId) (tick : Word) (key : FrameKey) (deadline : Deadline) (cls : Cls) : Pass :=
  let s := p.state
  match s.buffer.lookup key with
  | some e => { p with state := s.answerHit n tick deadline cls e }
  | none =>
    let needs := needsOf (s.decoder.plan key) (s.clip key.clip).bytes
    if s.keyHeldStale key then { p with ended := true }
    else if s.canMeet needs (needs.target s.buffer.reserve cls) then
      { p with state := s.serveRequest n tick key deadline cls }
    else if cls = .scrub ∧ s.canMeet needs (needs.target s.buffer.reserve .play) then
      { p with playOnly := true, passed := .request n tick key deadline cls :: p.passed }
    else { p with ended := true }

/-- A frame waiter is considered (R117). -/
def Pass.frame (p : Pass) (d need : Nat) : Pass :=
  let s := p.state
  if s.canMeet ⟨false, 0, need⟩ 0 then
    { p with state := (s.removeWaiters fun w => w.isFrame d).produce d need }
  else { p with ended := true }

/-- Two waiters are of the same request or frame. -/
def Waiter.same (a b : Waiter) : Bool :=
  match a, b with
  | .request n t _ _ _, b => b.isRequest n t
  | .frame d _ _ _, b => b.isFrame d

/-- One waiter is considered, or passed over if it is SCRUB and the pass considers PLAY waiters only (R114). -/
def Pass.consider (p : Pass) (w : Waiter) : Pass :=
  if p.playOnly && w.cls == .scrub then { p with passed := w :: p.passed }
  else
    match w with
    | .request n tick key deadline cls => p.request n tick key deadline cls
    | .frame d need _ _ => p.frame d need

/-- The waiter nearest the head of the list that the pass has not left where it stood (R114). -/
def Pass.next (p : Pass) : Option Waiter :=
  if p.ended then none else p.state.buffer.waiters.find? fun w => !p.passed.any (·.same w)

/-- The waiters taken from the head of the list, as the list then stands, until the pass ends (R114). A frame that rejoins
the list (R117) is met again in its new place. -/
def passLoop : Nat → Pass → Pass
  | 0, p => p
  | fuel + 1, p =>
    match p.next with
    | none => p
    | some w => passLoop fuel (p.consider w)

/-- A request that the pass did not serve is answered "waiting" (R94, R114). -/
def State.answerWaiting (s : State) (w : Waiter) : State :=
  match w with
  | .request n tick _ _ _ =>
    s.changeEntry n tick fun e => if e.stage = .projected then { e with stage := .waiting } else e
  | .frame .. => s

/-- A service pass (R114). An event that arrives during it calls for the pass that follows. A waiter that is considered
leaves the list, is left where it stood, ends the pass, or rejoins the list with the needs of the new walk, which no pass
changes; so twice as many turns as there are waiters suffice. -/
def State.servicePass (s : State) : State :=
  let start := s.setBuffer { s.buffer with passWanted := false }
  let done := (passLoop (2 * s.buffer.waiters.length) ⟨start, false, false, []⟩).state
  done.buffer.waiters.foldl State.answerWaiting done

end Sys2Proof.Machine
end

