-- ==== Sys2Proof/Machine/Region.lean ====
section
/-! DEFINITION. The Region Interface: host-access faults (R19 to R21), scans (R9 to R11), START (R4, R5), STOP (R6, R7,
R123, R158) and RESET (R8). -/

namespace Sys2Proof.Machine

/-! ### Offsets of the running counts in the header (10.3) -/

def offOrderFill : Nat := 0x40
def offOrderTaken : Nat := 0x44
def offNoticeFill : Nat := 0x48
def offNoticeTaken : Nat := 0x4C

/-- The messages being transmitted are cut short on both ports (R154). -/
def State.cutBoth (s : State) : State := (s.cutTransmission .e0).cutTransmission .e1

/-! ### HALTED and host-access faults (R19, R20, R21) -/

/-- The engine enters HALTED (R20, R21): scans and the scan timer stop, and sending stops in the middle of a message. -/
def State.halt (s : State) : State :=
  (s.setRegion { s.region with engine := .halted, timer := none, scan := none }).cutBoth

/-- What is given up when an access of a kind fails (R19). A status record's mark is cleared as its writing begins (R18), so
its update is lost by then. -/
def Region.giveUp (r : Region) : Access → Region
  | .orderFillRead => { r with intake := .blocked, scan := none }
  | .orderRecordRead => { r with intake := .blocked, scan := none }
  | .orderTakenWrite => { r with intake := .blocked, scan := none }
  | .noticeTakenRead => r
  | .noticeWrite => { r with batch := none }
  | .noticeFillWrite => { r with batch := none }
  | .statusWrite => r

/-- A host-access fails (R19, R20): with the latch clear it is set, HACC is raised and the access's purpose is given up;
with the latch set the engine enters HALTED. -/
def State.hostFault (s : State) (a : Access) (offset : Nat) : State :=
  if s.region.faultLatch then s.halt
  else
    let s := s.setRegion { s.region with faultLatch := true }
    let s := s.raise (.hacc a (BitVec.ofNat 32 offset))
    s.setRegion (s.region.giveUp a)

/-! ### Scans (R9, R10, R11) -/

/-- The log position of a count (1.2). -/
def logPosition (count : Word) (size : Nat) : Nat := count.toNat % size

/-- A structural fault at the position of order taken (R11). -/
def State.structuralFault (s : State) (kind : Nat) : State :=
  (s.setRegion { s.region with intake := .blocked, scan := none }).raise
    (.rgnf kind (logPosition s.region.orderTaken s.region.work.orderSize))

/-- A notice taken value may be taken into use (R16). -/
def Region.usable (r : Region) (v : Word) : Bool :=
  v.toNat % 8 == 0 && decide ((r.noticeFill - v).toNat ≤ r.work.noticeSize)

/-- Notice taken is read from the header (R10, R16, R19). -/
def State.readTaken (s : State) (c : CountRead) : State :=
  match c with
  | .failed => s.hostFault .noticeTakenRead offNoticeTaken
  | .value v => if s.region.usable v then s.setRegion { s.region with noticeTaken := v } else s

/-- A scan begins (R10): it reads notice taken, and unless the engine is STOPPING or intake is BLOCKED it reads and checks
order fill and is then in progress, for as long as order taken differs from it. DESIGN CHOICE (log 37): where order fill is
both no multiple of 8 and too far from order taken, RGNF carries kind 5; R10, R11 and 10.5 name no precedence. -/
def State.scanPass (s : State) (taken fill : CountRead) : State :=
  let s := s.readTaken taken
  if s.region.engine = .running ∧ s.region.intake = .taking then
    match fill with
    | .failed => s.hostFault .orderFillRead offOrderFill
    | .value f =>
      if f.toNat % 8 ≠ 0 then s.structuralFault 5
      else if s.region.work.orderSize < (f - s.region.orderTaken).toNat then s.structuralFault 4
      else if f = s.region.orderTaken then s
      else s.setRegion { s.region with scan := some f }
  else s

/-- A scan is asked for (R9): it starts at once, or is noted as wanted while one is in progress. -/
def State.startScan (s : State) (taken fill : CountRead) : State :=
  match s.region.scan with
  | none => s.scanPass taken fill
  | some _ => s.setRegion { s.region with scanWanted := true }

/-! ### START (R4, R5) -/

/-- The log sizes that checks 5 and 6 accept: powers of two from 4 KiB to 1 MiB. -/
def logSizes : List Nat := [4096, 8192, 16384, 32768, 65536, 131072, 262144, 524288, 1048576]

/-- Two areas, by offset and length, do not overlap. -/
def apart (a b : Nat × Nat) : Bool := decide (a.1 + a.2 ≤ b.1) || decide (b.1 + b.2 ≤ a.1)

/-- An area begins at a multiple of 64 and lies wholly inside the region. -/
def placed (region : Nat) (a : Nat × Nat) : Bool := a.1 % 64 == 0 && decide (a.1 + a.2 ≤ region)

/-- Checks 3 to 8 of R4, in order: the code of the first that fails. -/
def headerRefusal (h : List Byte) : Option (BitVec 4) :=
  let region := u32 h 0x04
  let orders := (u32 h 0x08, u32 h 0x0C)
  let notices := (u32 h 0x10, u32 h 0x14)
  let mirror := (u32 h 0x18, 4096)
  let header := (0, 256)
  if u32 h 0x00 ≠ 1 then some 3
  else if region % 4096 ≠ 0 ∨ region = 0 ∨ 67108864 < region then some 4
  else if !logSizes.contains orders.2 then some 5
  else if !logSizes.contains notices.2 then some 6
  else if !(placed region orders && placed region notices && placed region mirror && apart orders notices
      && apart orders mirror && apart notices mirror && apart orders header && apart notices header
      && apart mirror header) then some 7
  else if u32 h 0x44 % 8 ≠ 0 ∨ u32 h 0x48 % 8 ≠ 0 ∨ notices.2 < (w32 h 0x48 - w32 h 0x4C).toNat then some 8
  else none

/-- The working copies that a header gives, the scan period clamped to 20 to 1,000 µs (R3, R4). -/
def workingOf (h : List Byte) : Working :=
  { orderOffset := u32 h 0x08, orderSize := u32 h 0x0C, noticeOffset := u32 h 0x10, noticeSize := u32 h 0x14,
    mirrorOffset := u32 h 0x18, periodNs := 1000 * min (max (u32 h 0x1C) 20) 1000 }

/-- The first expiry of a scan timer that counts from ET `t`, at ET `now` (R9). -/
def firstExpiry (t now : Time) (period : Nat) : Time := later t (((now - t).toNat / period + 1) * period)

/-- START takes effect (R5). `since` is the ET at which the START was taken. The engine is STOPPED no longer, so a START that
still waits has no effect any more (R4). -/
def State.enterRunning (s : State) (h : List Byte) (since : Time) (taken fill : CountRead) : State :=
  let work := workingOf h
  let r : Region :=
    { s.region with
      work := work, orderTaken := w32 h 0x44, noticeFill := w32 h 0x48, engine := .running, intake := .taking,
      marks := Vector.replicate 64 true, startWaiting := none,
      timer := some (firstExpiry since s.et work.periodNs) }
  let r := if r.usable (w32 h 0x4C) then { r with noticeTaken := w32 h 0x4C } else r
  let s := s.setRegion r
  let s := s.setBuffer { s.buffer with reserve := min (u32 h 0x20) 16384 }
  allMembers.foldl State.opportunity (s.startScan taken fill)

/-- A failed read of the header at START (R4, R19, R20): the latch is set without HACC, or the engine enters HALTED. -/
def State.headerFault (s : State) : State :=
  if s.region.faultLatch then s.halt else s.setRegion { s.region with faultLatch := true }

/-- START in STOPPED with the writers at rest (R4). -/
def State.proceed (s : State) (since : Time) (header : HeaderRead) (taken fill : CountRead) : State :=
  let base : BitVec 64 := s.region.regionHi ++ s.region.regionLo
  let s := s.setRegion { s.region with startFault := 0, base := base }
  if base.toNat % 4096 ≠ 0 then s.setRegion { s.region with startFault := 1 }
  else
    match header with
    | .failed => (s.setRegion { s.region with startFault := 2 }).headerFault
    | .bytes h =>
      match headerRefusal h with
      | some code => s.setRegion { s.region with startFault := code }
      | none => s.enterRunning h since taken fill

/-- The notice writer or the mirror writer is still writing what R7 leaves to it. -/
def Region.writersBusy (r : Region) : Bool :=
  decide (0 < r.stopNotices) || r.batch.isSome || allStreams.any fun n => r.stopMarks[n]

/-! ### STOP (R6, R7) -/

/-- STOP in RUNNING (R6): every presentation is cut off and every open stream closed, every FILLING entry is marked stale
(R123), and what is left in the hold is handed back and freed (R22). -/
def State.stopRunning (s : State) : State :=
  let s := s.setRegion { s.region with engine := .stopping, scan := none }
  let s := s.setEgress { s.egress with presentations := Vector.replicate 64 none }
  let s := s.cutBoth
  let s := allStreams.foldl (fun s n => if (s.stream n).state = .closed then s else s.closeStream n) s
  let s := s.markStaleWhere fun e => e.state == .filling
  s.decoder.hold.foldl State.freeEntry s

/-- The engine leaves STOPPING for STOPPED (R7): STPD is raised, the scan timer stops, a scan in progress ends, and what
has been raised until now is left to the writers. -/
def State.enterStopped (s : State) : State :=
  let s := s.setRegion { s.region with engine := .stopped, timer := none, scan := none, scanWanted := false }
  let s := s.raise .stpd
  s.setRegion { s.region with stopNotices := s.region.notices.length, stopMarks := s.region.marks }

/-! ### RESET (R8) -/

/-- The Region Interface after RESET (R1, R8): REGION_LO, REGION_HI and NOTICE_LEVEL stay, and so do the working base, the
working copies and the copies of the counts until the next START. -/
def Region.afterReset (r : Region) : Region :=
  { Region.reset with
    regionLo := r.regionLo, regionHi := r.regionHi, noticeLevel := r.noticeLevel, base := r.base, work := r.work,
    orderTaken := r.orderTaken, noticeFill := r.noticeFill, noticeTaken := r.noticeTaken }

/-- A member after RESET (R143): settings at their defaults, tags FREE, the link in TRAINING, the capacity kept. -/
def Member.afterReset (x : Member) : Member := { Member.reset with link := .training, capacity := x.capacity }

/-- The members after RESET. -/
def Dispatcher.afterReset (d : Dispatcher) : Dispatcher :=
  { members := allMembers.foldl (fun (v : Vector Member 8) (m : MemberId) => v.set m d.members[m].afterReset) d.members, chunks := [], arrival := 0 }

/-- The Egress Scheduler after RESET (R158): the port link states stay. -/
def Egress.afterReset (e : Egress) : Egress :=
  { port0 := { PortState.reset with up := e.port0.up }, port1 := { PortState.reset with up := e.port1.up },
    presentations := Vector.replicate 64 none }

/-- RESET (R8, R22, R35, R38, R123, R143, R158). Engine Time (R62) and the contents of the frame store stay. -/
def State.resetEngine (s : State) : State :=
  let s := s.cutBoth
  { s with
    region := s.region.afterReset
    decoder := Decoder.reset
    streams := Vector.replicate 64 Stream.reset
    buffer := { FrameBuffer.reset with store := s.buffer.store }
    dispatcher := s.dispatcher.afterReset
    egress := s.egress.afterReset }

end Sys2Proof.Machine
end

