-- ==== Sys2Proof/Machine/NoticeWriter.lean ====
section
/-! DEFINITION. The two writers of the Region Interface: the notice writer (R15 to R17) and the mirror writer (R18). -/

namespace Sys2Proof.Machine

/-! ### The notice writer (R15, R16, R17) -/

/-- The notice writer on its way through a batch: the state, its write position, what the host memory answers to its reads
of notice taken, how many writes succeed before one fails (absent: none fails), the levels of the notices written, and
whether a write has failed. A PAD and the notice after it are two writes (R16, log 35). -/
structure Writer where
  state : State
  position : Word
  reads : List CountRead
  failAt : Option Nat
  levels : List Nat
  failed : Bool

/-- The room at a write position: the log size minus (the write position minus notice taken) (R16). -/
def Region.room (r : Region) (position : Word) : Nat := r.work.noticeSize - (position - r.noticeTaken).toNat

/-- The bytes between a write position and the end of the log. -/
def Region.tail (r : Region) (position : Word) : Nat := r.work.noticeSize - logPosition position r.work.noticeSize

/-- The room that a notice of `size` bytes needs: for itself, or for a PAD over the rest of the log and itself (R16). -/
def Region.need (r : Region) (position : Word) (size : Nat) : Nat :=
  if size ≤ r.tail position then size else r.tail position + size

/-- There is room for a notice of `size` bytes. -/
def Writer.fits (w : Writer) (size : Nat) : Bool :=
  decide (w.state.region.need w.position size ≤ w.state.region.room w.position)

/-- When the room is short, notice taken is read again (R16). An exhausted list of answers stands for a value that brings
nothing new. -/
def Writer.seekRoom (w : Writer) (size : Nat) : Writer :=
  if w.fits size then w
  else
    match w.reads with
    | [] => w
    | c :: rest => { w with state := w.state.readTaken c, reads := rest }

/-- The `k` oldest held notices leave the writer. -/
def State.popNotices (s : State) (k : Nat) : State :=
  s.setRegion { s.region with notices := s.region.notices.drop k, stopNotices := s.region.stopNotices - k }

/-- The writes that a notice at a write position takes, by region offset and bytes: itself, or the PAD over the rest of the
log and itself at the start of the log (R16). -/
def Region.writesOf (r : Region) (position : Word) (n : Notice) : List (Nat × List Byte) :=
  let place := r.work.noticeOffset + logPosition position r.work.noticeSize
  if n.size ≤ r.tail position then [(place, n.bytes)]
  else [(place, padBytes (r.tail position)), (r.work.noticeOffset, n.bytes)]

/-- Writes to host memory go out, one after another. -/
def State.hostWrites (s : State) : List (Nat × List Byte) → State
  | [] => s
  | w :: rest => (s.hostWrite w.1 w.2).hostWrites rest

/-- A notice is written at the write position, with the PAD that it needs before it (R16). -/
def Writer.write (w : Writer) (n : Notice) : Writer :=
  let writes := w.state.region.writesOf w.position n
  { w with
    state := (w.state.popNotices 1).hostWrites writes
    position := w.position + BitVec.ofNat 32 (w.state.region.need w.position n.size)
    failAt := w.failAt.map (· - writes.length)
    levels := w.levels ++ [n.body.level] }

/-- The `i`-th of the writes of a notice fails: those before it have gone out, HACC carries the offset at which the failed
one was aimed, and what is left of the batch, `k` notices, is lost (R17, R19). -/
def Writer.fail (w : Writer) (n : Notice) (i k : Nat) : Writer :=
  let writes := w.state.region.writesOf w.position n
  let place := match writes[i]? with | some x => x.1 | none => 0
  { w with
    state := ((w.state.popNotices k).hostWrites (writes.take i)).hostFault .noticeWrite place
    failed := true }

/-- Which of the writes of a notice fails, if one of them does. -/
def Writer.failing (w : Writer) (n : Notice) : Option Nat :=
  w.failAt.filter fun i => decide (i < (w.state.region.writesOf w.position n).length)

/-- A notice that finds no room is discarded, and the notices-lost flag is set (R16). -/
def Writer.discard (w : Writer) : Writer :=
  let s := w.state.popNotices 1
  { w with state := s.setRegion { s.region with noticesLost := true } }

/-- The notices of a batch, one after another: `k` are left. -/
def batchLoop : Nat → Writer → Writer
  | 0, w => w
  | k + 1, w =>
    match w.state.region.notices with
    | [] => w
    | n :: _ =>
      let w := w.seekRoom n.size
      if w.state.halted then w
      else if w.fits n.size then
        match w.failing n with
        | some i => w.fail n i (k + 1)
        | none => batchLoop k (w.write n)
      else batchLoop k w.discard

/-- The held notices that the writer may write: all of them in RUNNING and STOPPING, those raised before the engine entered
STOPPED in STOPPED, and none in HALTED (R15). -/
def Region.writable (r : Region) : Nat :=
  match r.engine with
  | .running => r.notices.length
  | .stopping => r.notices.length
  | .stopped => min r.stopNotices r.notices.length
  | .halted => 0

/-- A batch: every notice held now that may be written is written or discarded (R15 to R17). The next batch waits until
this one has been covered by an advance of notice fill. -/
def State.writeBatch (s : State) (reads : List CountRead) (failAt : Option Nat) : State :=
  if s.region.batch.isSome then s
  else
    let w := batchLoop s.region.writable ⟨s, s.region.noticeFill, reads, failAt, [], false⟩
    if w.failed || w.state.halted || w.levels.isEmpty then w.state
    else
      w.state.setRegion
        { w.state.region with batch := some ⟨w.levels, (w.position - w.state.region.noticeFill).toNat⟩ }

/-- One MSI, if the condition holds. -/
def State.signalIf (s : State) (b : Bool) : State := if b then s.emit .msi else s

/-- Notice fill is advanced over a written batch (R17), or its write fails and the batch is lost. -/
def State.advanceFill (s : State) (write : WriteResult) : State :=
  if s.halted then s
  else
    match s.region.batch with
    | none => s
    | some b =>
      match write with
      | .failed => (s.setRegion { s.region with batch := none }).hostFault .noticeFillWrite offNoticeFill
      | .ok =>
        let v := s.region.noticeFill + BitVec.ofNat 32 b.bytes
        ((s.setRegion { s.region with noticeFill := v, batch := none }).hostWrite offNoticeFill (le 4 v.toNat)).signalIf
          (b.levels.any (signals s.region.noticeLevel))

/-! ### The mirror writer (R18) -/

/-- The marks that the mirror writer serves in an engine state (R18). -/
def Region.servedMarks (r : Region) : Option (Vector Bool 64) :=
  match r.engine with
  | .running => some r.marks
  | .stopping => some r.marks
  | .stopped => some r.stopMarks
  | .halted => none

/-- The lowest marked stream that the mirror writer may serve. -/
def Region.markedStream (r : Region) : Option StreamId :=
  match r.servedMarks with
  | none => none
  | some v => allStreams.find? fun n => v[n]

/-- The three writes of one status record that lies at `base`, by region offset and bytes (R18). -/
def mirrorWrites (base : Nat) (c : Word) (x : Stream) : List (Nat × List Byte) :=
  [(base, le 4 (c + 1).toNat), (base + 4, x.statusBytes), (base, le 4 (c + 2).toNat)]

/-- The mirror writer serves the lowest marked stream (R18): it clears the mark, writes the record, and takes c + 2 as its
change count, whether or not a write fails. -/
def State.writeMirror (s : State) (failAt : Option (Fin 3)) : State :=
  match s.region.markedStream with
  | none => s
  | some n =>
    let c := s.region.changeCounts[n]
    let base := s.region.work.mirrorOffset + 64 * n
    let writes := mirrorWrites base c (s.stream n)
    let s := s.setRegion
      { s.region with
        marks := s.region.marks.set n false
        stopMarks := s.region.stopMarks.set n false
        changeCounts := s.region.changeCounts.set n (c + 2) }
    match failAt with
    | none => s.hostWrites writes
    | some k =>
      (s.hostWrites (writes.take k)).hostFault .statusWrite (base + (if k = 1 then 4 else 0))

end Sys2Proof.Machine
end

