-- ==== Sys2Proof/Machine/Orders.lean ====
section
/-! DEFINITION. The orders: what each owner decides of a record's body (R27 to R31, R36, R37, R42 to R49, R52 to R58, R60,
R80 to R82, R99, R126, R127, R147 to R149), and the order reader that takes a record and answers it (R11 to R13). -/

namespace Sys2Proof.Machine

/-- What the owner of an order decides (R13): the result code, the result value, and what the order then does. A refused
order does nothing. -/
structure Decision where
  result : Result
  value : Nat
  effect : State → State

/-- A refusal with result value 0. -/
def refuse (r : Result) : Decision := ⟨r, 0, id⟩

/-- OK, or CLAMPED where a field was clamped. -/
def okOr (clamped : Bool) : Result := if clamped then .clamped else .ok

/-! ### LAYD (R27 to R31, R33) -/

def PendingOp.isDelete : PendingOp → Bool
  | .define _ => false
  | .delete => true

/-- What an entry becomes (R33). -/
def PendingOp.outcome : PendingOp → LayoutState
  | .define d => .active d
  | .delete => .empty

/-- A definition or deletion takes effect (R29, R33): the entry changes, LAYC is raised, a service pass is called for
(R114) and the hold is replanned, the frames that the entry held being released (R34). -/
def State.layoutTakesEffect (s : State) (e : Fin 16) (ref : Word) (op : PendingOp) : State :=
  (((s.setLayout e ⟨op.outcome, 0⟩).raise (.layc ref e .ok op.isDelete)).callPass).replanHold
    fun k => s.decoder.holder k == some e

/-- A LAYD that passed its checks, by the state of its entry (R29, R30, R31). -/
def layoutOrder (e : Fin 16) (x : LayoutEntry) (ref : Word) (op : PendingOp) : Decision :=
  match x.state with
  | .empty => if op.isDelete then refuse .noSuch else ⟨.ok, 0, fun s => s.layoutTakesEffect e ref op⟩
  | .active d =>
    if x.inFlight = 0 then ⟨.ok, 0, fun s => s.layoutTakesEffect e ref op⟩
    else ⟨.ok, x.inFlight, fun s => s.setLayout e { x with state := .retiring d ⟨ref, op⟩ }⟩
  | .retiring d p =>
    ⟨.ok, x.inFlight, fun s =>
      (s.setLayout e { x with state := .retiring d ⟨ref, op⟩ }).raise (.layc p.ref e .superseded p.op.isDelete)⟩

/-- LAYD (R27 to R31). -/
def decideLayd (s : State) (b : List Byte) : Decision :=
  if h : u8 b 4 < 16 then
    let e : Fin 16 := ⟨u8 b 4, h⟩
    let x := s.decoder.layout[e]
    if u8 b 5 = 0 then layoutOrder e x (reference b) .delete
    else
      match layoutDef b with
      | none => refuse .badField
      | some d => if s.decoder.overlapsOther e d then refuse .overlap else layoutOrder e x (reference b) (.define d)
  else refuse .badField

/-! ### CLIP (R36, R37) -/

/-- An open stream's cue list holds a CLIP cue naming the clip (R37). -/
def State.clipInUse (s : State) (c : Fin 256) : Bool :=
  allStreams.any fun n => (s.stream n).state != .closed && namesClip (s.stream n).cues c

/-- A clip record replaced, and every directory entry that holds the clip marked stale (R37, R122). -/
def State.changeClip (s : State) (c : Fin 256) (x : Clip) : State :=
  (s.setClip c x).markStaleWhere fun e => e.key.clip == c

/-- CLIP (R36, R37). DESIGN CHOICE (log 6): a deletion sets every field of the clip but its generation to 0, as after power-on;
R37 says only that the clip is EMPTY. -/
def decideClip (s : State) (b : List Byte) : Decision :=
  if h : u16 b 4 < 256 then
    let c : Fin 256 := ⟨u16 b 4, h⟩
    let generation := (s.clip c).generation + 1
    let taken (x : Clip) : Decision :=
      if s.clipInUse c then refuse .inUse else ⟨.ok, generation.toNat, fun s => s.changeClip c x⟩
    if u32 b 24 = 0 then
      if (s.clip c).defined then taken { Clip.reset with generation := generation } else refuse .noSuch
    else
      match clipDef b generation with
      | none => refuse .badField
      | some x => taken x
  else refuse .badField

/-! ### MEMB and MRST (R126, R127) -/

/-- MEMB's settings are in range (R126). -/
def settingsOk (limit reserve timeout window : Nat) : Bool :=
  decide (1 ≤ limit) && decide (limit ≤ 32) && decide (reserve < limit) && decide (timeout ≤ 10) && decide (window ≤ 7)

/-- A taken MEMB (R126). -/
def State.applySettings (s : State) (m : MemberId) (limit reserve timeout window : Nat) : State :=
  let changed := (s.member m).limit != limit
  let s := s.setMember m
    { s.member m with limit := limit, reserve := reserve, timeoutCode := timeout, windowCode := window }
  let s := if changed then s.stallTest m else s
  s.opportunity m

/-- MEMB (R126). -/
def decideMemb (s : State) (b : List Byte) : Decision :=
  if h : u8 b 4 < 8 then
    if settingsOk (u8 b 5) (u8 b 6) (u8 b 7) (u8 b 8) then
      ⟨.ok, (s.member ⟨u8 b 4, h⟩).outstanding,
        fun s => s.applySettings ⟨u8 b 4, h⟩ (u8 b 5) (u8 b 6) (u8 b 7) (u8 b 8)⟩
    else refuse .badField
  else refuse .badField

/-- A taken MRST (R127). -/
def State.resetMember (s : State) (m : MemberId) : State :=
  match (s.member m).link with
  | .up => (s.dropLink m .reset).setLink m .training
  | .stalled => (s.dropLink m .reset).setLink m .training
  | .down => s.setLink m .training
  | .training => s

/-- MRST (R127). -/
def decideMrst (b : List Byte) : Decision :=
  if h : u8 b 4 < 8 then ⟨.ok, 0, fun s => s.resetMember ⟨u8 b 4, h⟩⟩ else refuse .badField

/-! ### OPEN (R42 to R44) -/

/-- A rate in range (R42, R36). -/
def rateOk (n d : Nat) : Bool :=
  decide (1 ≤ n) && decide (n ≤ 480000) && decide (1 ≤ d) && decide (d ≤ 2002) && decide (d ≤ n) && decide (n ≤ 240 * d)

/-- Check 3 of R42. -/
def openFieldsOk (b : List Byte) : Bool :=
  ((u32 b 8 == 0 && u32 b 12 == 0) || rateOk (u32 b 8) (u32 b 12))
    && decide (u8 b 5 ≤ 1)
    && decide (1 ≤ u32 b 16) && decide (u32 b 16 ≤ 12000)
    && decide (u32 b 20 ≤ 20000000)
    && decide (u32 b 24 ≤ 1000000000)
    && decide (1 ≤ u8 b 6) && decide (u8 b 6 ≤ 16)
    && decide (u8 b 7 ≤ 2)
    && decide (u32 b 28 ≤ 1000000000)
    && decide (1 ≤ u16 b 38)
    && decide (u8 b 45 ≤ 64)

def portOf (code : Nat) : Port := if code = 0 then .e0 else .e1

def policyOf (code : Nat) : Policy := if code = 0 then .skip else if code = 1 then .repeatLast else .slip

/-- The rate that a stream takes: the order's, or for 0 over 0 the native rate of the clip of the first CLIP cue (R43). -/
def openRate (s : State) (b : List Byte) (cues : List Cue) : Option (Nat × Nat) :=
  if u32 b 8 = 0 ∧ u32 b 12 = 0 then
    match firstClip cues with
    | none => none
    | some c => some ((s.clipAt c).rateN, (s.clipAt c).rateD)
  else some (u32 b 8, u32 b 12)

/-- The stream as OPEN makes it of the CLOSED stream `old` (R44, R98). The run state stays as closing left it until the next
run (R65). -/
def openedStream (old : Stream) (b : List Byte) (rate : Nat × Nat) (cues : List Cue) : Stream :=
  let position := clampPosition cues (u8 b 44) (u32 b 48)
  { Stream.reset with
    state := .parked
    rateN := rate.1, rateD := rate.2, q := periodWhole rate.1 rate.2, r := periodRest rate.1 rate.2
    port := portOf (u8 b 5), egress := u32 b 16, margin := u32 b 20, latency := u32 b 24, depth := u8 b 6
    policy := policyOf (u8 b 7), slipLimit := u32 b 28
    cues := cues, cue := position.1, offset := position.2.1, proj := { old.proj with fresh := false }
    viewers := (Vector.replicate 8 none).set 0
      (some { ethernet := bytesAt b 32 6, ipv4 := bytesAt b 40 4, udpPort := u16 b 38, muted := false })
    : Stream }.resetProjection

/-- OPEN (R42 to R44). -/
def decideOpen (s : State) (b : List Byte) : Decision :=
  if h : u8 b 4 < 64 then
    let n : StreamId := ⟨u8 b 4, h⟩
    if (s.stream n).state ≠ .closed then refuse .inUse
    else if !openFieldsOk b then refuse .badField
    else if u8 b 45 = 0 then refuse .empty
    else
      match checkCues s.decoder [] 0 (rawCues b 56 (u8 b 45)) with
      | .refused code i => ⟨code, i, id⟩
      | .accepted cues =>
        match openRate s b cues with
        | none => refuse .badField
        | some rate =>
          let x := openedStream (s.stream n) b rate cues
          match tooSlowAt s x.q x.egress 0 cues with
          | some i => ⟨.tooSlow, i, id⟩
          | none =>
            if (s.port x.port).admits x.egress then
              ⟨okOr (clampPosition cues (u8 b 44) (u32 b 48)).2.2, 0,
                fun s => ((s.setStream n x).allocate x.port x.egress).markMirror n⟩
            else refuse .noBandwidth
  else refuse .badField

/-! ### CUES (R80 to R82) -/

/-- The projection state set back to a run tick index (R81): T = A + floor(k × 10^9 × D / N), a = (k × 10^9 × D) mod N. -/
def Stream.setBack (x : Stream) (k : BitVec 64) : Projection :=
  { x.proj with
    index := k
    deliver := later x.proj.anchor (k.toNat * 1000000000 * x.rateD / x.rateN)
    acc := k.toNat * 1000000000 * x.rateD % x.rateN
    fresh := true }

/-- A CUES in REPLACE mode carried out (R81). -/
def State.replaceCues (s : State) (n : StreamId) (cues : List Cue) (cue offset : Nat) : State :=
  let earliest := (s.stream n).unsent.head?
  let s := s.setStream n { s.stream n with cues := cues, cue := cue, offset := offset, shown := false }
  let s := (s.discard n).unmarkSending n
  let x := s.stream n
  let proj :=
    match earliest with
    | some e => if x.state = .running then x.setBack e.index else { x.proj with fresh := true }
    | none => { x.proj with fresh := true }
  (s.setStream n { x with proj := proj }).project n

/-- A CUES in APPEND mode carried out (R82): `cues` is the whole resulting list. -/
def State.appendCues (s : State) (n : StreamId) (cues : List Cue) : State :=
  let x := s.stream n
  let added := cues.drop x.cues.length
  (s.setStream n
    { x with
      cues := cues
      proj := { x.proj with counters := x.proj.counters ++ liveCounters added }
      window := x.window.map fun e =>
        if e.stage ≠ .sending ∧ e.listEnd = some .atEnd then { e with listEnd := none } else e }).project n

/-- CUES in REPLACE mode, from check 5 on (R80, R81). -/
def decideReplace (s : State) (n : StreamId) (b : List Byte) : Decision :=
  match checkCues s.decoder [] 0 (rawCues b 16 (u8 b 7)) with
  | .refused code i => ⟨code, i, id⟩
  | .accepted cues =>
    match tooSlowAt s (s.stream n).q (s.stream n).egress 0 cues with
    | some i => ⟨.tooSlow, i, id⟩
    | none =>
      let position := clampPosition cues (u8 b 6) (u32 b 8)
      ⟨okOr position.2.2, 0, fun s => s.replaceCues n cues position.1 position.2.1⟩

/-- CUES in APPEND mode, from check 4 on (R80, R82). -/
def decideAppend (s : State) (n : StreamId) (b : List Byte) : Decision :=
  let old := (s.stream n).cues
  if 64 < old.length + u8 b 7 then ⟨.full, old.length, id⟩
  else
    match checkCues s.decoder old 0 (rawCues b 16 (u8 b 7)) with
    | .refused code i => ⟨code, i, id⟩
    | .accepted cues =>
      match tooSlowAt s (s.stream n).q (s.stream n).egress 0 (cues.drop old.length) with
      | some i => ⟨.tooSlow, i, id⟩
      | none => ⟨.ok, old.length, fun s => s.appendCues n cues⟩

/-- CUES (R80). -/
def decideCues (s : State) (b : List Byte) : Decision :=
  if h : u8 b 4 < 64 then
    let n : StreamId := ⟨u8 b 4, h⟩
    let mode := u8 b 5
    let state := (s.stream n).state
    if 1 < mode then refuse .badField
    else if state = .closed ∨ (mode = 0 ∧ state = .seeking) then refuse .wrongState
    else if 64 < u8 b 7 then refuse .badField
    else if u8 b 7 = 0 then refuse .empty
    else if mode = 0 then decideReplace s n b
    else decideAppend s n b
  else refuse .badField

/-! ### XPRT (R45 to R58) -/

/-- A speed clamped to −256 to 256, and whether it was (R45). -/
def clampSpeed (v : Int) : Int × Bool :=
  if 256 < v then (256, true) else if v < -256 then (-256, true) else (v, false)

/-- The flags byte of XPRT: start-time flag, TIME and RESUME in the release set (10.4). -/
def startTimeFlag (b : List Byte) : Bool := u8 b 7 % 2 == 1
def timeFlag (b : List Byte) : Bool := u8 b 7 / 2 % 2 == 1
def resumeFlag (b : List Byte) : Bool := u8 b 7 / 4 % 2 == 1

/-- PLAY (R46 to R48, R67, R68). -/
def decidePlay (s : State) (n : StreamId) (b : List Byte) : Decision :=
  let x := s.stream n
  if x.state = .closed ∨ x.state = .seeking then refuse .wrongState
  else if s16 b 8 = 0 then refuse .badField
  else if startTimeFlag b = true ∧ 2 ^ 63 ≤ u64 b 24 then refuse .badField
  else
    let speed := clampSpeed (s16 b 8)
    let low := s.runFloor x
    let raised := startTimeFlag b && decide (u64 b 24 < low.toNat)
    let anchor : Time := if startTimeFlag b && !raised then BitVec.ofNat 64 (u64 b 24) else low
    ⟨okOr (speed.2 || raised), 0, fun s => (s.startRun n speed.1 anchor).markMirror n⟩

/-- HOLD (R49, R68). -/
def decideHold (s : State) (n : StreamId) (b : List Byte) : Decision :=
  if (s.stream n).state ≠ .running then refuse .wrongState
  else if timeFlag b = true ∧ 2 ^ 63 ≤ u64 b 32 then refuse .badField
  else if timeFlag b = true ∧ u64 b 32 ≤ s.et.toNat then refuse .notHeld
  else
    let time : Option Time := if timeFlag b then some (BitVec.ofNat 64 (u64 b 32)) else none
    ⟨.ok, 0, fun s => (s.hold n time (resumeFlag b)).markMirror n⟩

/-- RESUME (R52, R67). -/
def decideResume (s : State) (n : StreamId) : Decision :=
  let x := s.stream n
  if x.state ≠ .held then refuse .wrongState
  else if x.releaseResume then ⟨.ok, 0, fun s => (s.releaseHold n (s.runFloor x)).markMirror n⟩
  else refuse .notPermitted

/-- The locate of a SEEKING stream ends without an end of its own: LOCD is raised for its order (R53, R57). -/
def State.raiseLocd (s : State) (n : StreamId) (old : Option Locate) (r : Result) : State :=
  match old with
  | some l => s.raise (.locd l.ref n r l.cue l.offset)
  | none => s

/-- PARK of a RUNNING, HELD or SEEKING stream (R53, R54). -/
def State.park (s : State) (n : StreamId) : State :=
  let old := (s.stream n).locate
  let s := (s.discard n).unmarkSending n
  let s := s.setStream n
    { s.stream n with
      state := .parked, speed := 0, shown := false, releaseTime := none, releaseResume := false, locate := none }
  (s.markMirror n).raiseLocd n old .abandoned

/-- PARK (R53). -/
def decidePark (s : State) (n : StreamId) : Decision :=
  match (s.stream n).state with
  | .closed => refuse .wrongState
  | .parked => ⟨.ok, 0, id⟩
  | _ => ⟨.ok, 0, fun s => s.park n⟩

/-- A locate begins, or replaces the one in progress (R55, R57, R58). DESIGN CHOICE (log 19): LOCD SUPERSEDED is raised before
the new entry is projected, and so before a FAIL that its lookup brings about in another block; R15 lets either come first. -/
def State.beginSeek (s : State) (n : StreamId) (l : Locate) : State :=
  let old := (s.stream n).locate
  let seeking := (s.stream n).state == .seeking
  let s := (s.discard n).unmarkSending n
  let s := s.setStream n
    { s.stream n with
      state := .seeking, speed := 0, releaseTime := none, releaseResume := false, locate := some l }
  let s := if seeking then s else s.markMirror n
  (s.raiseLocd n old .superseded).projectLocateIfDue n

/-- LOCATE (R55, R57). -/
def decideLocate (s : State) (n : StreamId) (b : List Byte) : Decision :=
  let x := s.stream n
  if x.state = .closed then refuse .wrongState
  else if 1 < u8 b 6 ∨ (u8 b 6 = 1 ∧ s16 b 10 = 0) then refuse .badField
  else
    let play := u8 b 6 == 1
    let speed : Int × Bool := if play then clampSpeed (s16 b 10) else (0, false)
    let target := clampPosition x.cues (u8 b 13) (u32 b 16)
    ⟨okOr (speed.2 || target.2.2), 0, fun s =>
      s.beginSeek n ⟨target.1, target.2.1, play, speed.1, reference b, s.et, false⟩⟩

/-- STEP (R58). -/
def decideStep (s : State) (n : StreamId) (b : List Byte) : Decision :=
  let x := s.stream n
  if x.state ≠ .parked then refuse .wrongState
  else if s8 b 12 = 0 ∨ 32 < s8 b 12 ∨ s8 b 12 < -32 then refuse .badField
  else
    let target := stepTarget x.cues x.cue x.offset (s8 b 12)
    ⟨okOr target.2.2, 0, fun s => s.beginSeek n ⟨target.1, target.2.1, false, 0, reference b, s.et, false⟩⟩

/-- XPRT (R45): the stream number and the action, then the action against the stream's state, then its own fields. -/
def decideXprt (s : State) (b : List Byte) : Decision :=
  if h : u8 b 4 < 64 then
    let n : StreamId := ⟨u8 b 4, h⟩
    match u8 b 5 with
    | 1 => decidePlay s n b
    | 2 => decideHold s n b
    | 3 => decideResume s n
    | 4 => decidePark s n
    | 5 => decideLocate s n b
    | 6 => decideStep s n b
    | _ => refuse .badField
  else refuse .badField

/-! ### MARK (R99) -/

/-- The next serial: one more, skipping 0 (R99). -/
def nextSerial (v : Word) : Word := if v + 1 = 0 then 1 else v + 1

/-- Check 3 of R99. -/
def markFieldsOk (b : List Byte) : Bool :=
  decide (u16 b 12 < 256) && decide (u32 b 16 ≤ 16777215) && decide (u8 b 7 ≤ 1) && decide (u8 b 8 ≤ 1)
    && decide (u8 b 9 ≤ 2) && !(u8 b 8 == 1 && u8 b 7 == 1) && decide (u8 b 10 ≤ 1)
    && (u8 b 10 == 0 || decide (1 ≤ u16 b 14))

/-- The mark that a SET writes (R99). -/
def markOf (b : List Byte) (clip : Fin 256) (serial : Word) : Mark :=
  { serial := serial, clip := clip, frame := u32 b 16
    kind := if u8 b 7 = 0 then .shown else .fetched
    action := if u8 b 8 = 0 then .notify else .hold
    cond := if u8 b 9 = 0 then .any else if u8 b 9 = 1 then .forward else .reverse
    limit := if u8 b 10 = 0 then none else some (u16 b 14)
    count := 0 }

/-- MARK SET and CLEAR on an open stream's slot (R99). -/
def decideSlot (x : Stream) (n : StreamId) (i : Fin 8) (b : List Byte) : Decision :=
  if u8 b 6 = 0 then
    if h : u16 b 12 < 256 then
      if markFieldsOk b then
        let v := nextSerial x.serial
        ⟨.ok, v.toNat, fun s =>
          s.setStream n { (s.stream n).setMark i (some (markOf b ⟨u16 b 12, h⟩ v)) with serial := v }⟩
      else refuse .badField
    else refuse .badField
  else if x.marks[i].isSome then ⟨.ok, 0, fun s => s.setStream n ((s.stream n).setMark i none)⟩
  else refuse .noSuch

/-- MARK (R99). -/
def decideMark (s : State) (b : List Byte) : Decision :=
  if h : u8 b 4 < 64 ∧ u8 b 5 < 8 then
    let n : StreamId := ⟨u8 b 4, h.1⟩
    if 1 < u8 b 6 then refuse .badField
    else if (s.stream n).state = .closed then refuse .wrongState
    else decideSlot (s.stream n) n ⟨u8 b 5, h.2⟩ b
  else refuse .badField

/-! ### SHUT (R60) -/

/-- SHUT (R60). -/
def decideShut (s : State) (b : List Byte) : Decision :=
  if h : u8 b 4 < 64 then
    let n : StreamId := ⟨u8 b 4, h⟩
    if (s.stream n).state = .closed then refuse .wrongState else ⟨.ok, 0, fun s => s.closeStream n⟩
  else refuse .badField

/-! ### SHAR (R147 to R149) -/

/-- A viewer slot replaced. -/
def Stream.setViewer (x : Stream) (v : Fin 8) (y : Option Viewer) : Stream := { x with viewers := x.viewers.set v y }

/-- If every message owed to the recipients still listed has been sent, the presentation is complete (R154), and the next
entry's turn may have come (R72). -/
def State.completeIfDone (s : State) (n : StreamId) : State :=
  if s.complete n then (s.endPresentation n false).turnIfDue n else s

/-- A viewer is added, unmuted (R147). -/
def State.addViewer (s : State) (n : StreamId) (v : Fin 8) (y : Viewer) : State :=
  let x := s.stream n
  (s.setStream n (x.setViewer v (some y))).allocate x.port x.egress

/-- A viewer is removed (R148), or muted (R149): `unmuted` says whether it held admission. -/
def State.dropViewer (s : State) (n : StreamId) (v : Fin 8) (y : Option Viewer) (unmuted : Bool) : State :=
  let x := s.stream n
  let s := s.setStream n (x.setViewer v y)
  let s := if unmuted then s.withdrawRate x.port x.egress else s
  (s.cancelViewer n v).completeIfDone n

/-- SHAR ADD (R147). -/
def decideAdd (s : State) (n : StreamId) (v : Fin 8) (b : List Byte) : Decision :=
  let x := s.stream n
  if u16 b 14 = 0 then refuse .badField
  else if x.viewers[v].isSome then refuse .inUse
  else if (s.port x.port).admits x.egress then
    ⟨.ok, x.unmuted + 1, fun s =>
      s.addViewer n v { ethernet := bytesAt b 8 6, ipv4 := bytesAt b 16 4, udpPort := u16 b 14, muted := false }⟩
  else refuse .noBandwidth

/-- SHAR REMOVE (R148). -/
def decideRemove (s : State) (n : StreamId) (v : Fin 8) : Decision :=
  let x := s.stream n
  if v = 0 then refuse .notPermitted
  else
    match x.viewers[v] with
    | none => refuse .noSuch
    | some y => ⟨.ok, (x.setViewer v none).unmuted, fun s => s.dropViewer n v none (!y.muted)⟩

/-- SHAR MUTE (R149). -/
def decideMute (s : State) (n : StreamId) (v : Fin 8) : Decision :=
  let x := s.stream n
  match x.viewers[v] with
  | none => refuse .noSuch
  | some y =>
    if y.muted then ⟨.ok, x.unmuted, id⟩
    else
      let z := some { y with muted := true }
      ⟨.ok, (x.setViewer v z).unmuted, fun s => s.dropViewer n v z true⟩

/-- SHAR UNMUTE (R149). -/
def decideUnmute (s : State) (n : StreamId) (v : Fin 8) : Decision :=
  let x := s.stream n
  match x.viewers[v] with
  | none => refuse .noSuch
  | some y =>
    if !y.muted then ⟨.ok, x.unmuted, id⟩
    else if (s.port x.port).admits x.egress then
      let z : Viewer := { y with muted := false }
      ⟨.ok, (x.setViewer v (some z)).unmuted, fun s => s.addViewer n v z⟩
    else refuse .noBandwidth

/-- SHAR (R147 to R149). -/
def decideShar (s : State) (b : List Byte) : Decision :=
  if h : u8 b 4 < 64 ∧ u8 b 6 < 8 then
    let n : StreamId := ⟨u8 b 4, h.1⟩
    let v : Fin 8 := ⟨u8 b 6, h.2⟩
    if 3 < u8 b 5 then refuse .badField
    else if (s.stream n).state = .closed then refuse .wrongState
    else
      match u8 b 5 with
      | 0 => decideAdd s n v b
      | 1 => decideRemove s n v
      | 2 => decideMute s n v
      | _ => decideUnmute s n v
  else refuse .badField

/-! ### The order reader (R11 to R13) -/

/-- What becomes of a record that is read whole (R12, R13): nothing for PAD, and otherwise the decision that its answer
carries. -/
def decideRecord (s : State) (tag : Word) (b : List Byte) : Option Decision :=
  let kind := orderKind tag
  if kind = .pad then none
  else if kind = .unknown then some (refuse .unknownTag)
  else if b.length < requiredLength kind b then some (refuse .badLength)
  else
    some
      (match kind with
       | .layd => decideLayd s b
       | .clip => decideClip s b
       | .memb => decideMemb s b
       | .mrst => decideMrst b
       | .opens => decideOpen s b
       | .cues => decideCues s b
       | .xprt => decideXprt s b
       | .mark => decideMark s b
       | .shut => decideShut s b
       | .shar => decideShar s b
       | .pad => refuse .unknownTag
       | .unknown => refuse .unknownTag)

/-- The structural fault of a record, the kind first found (R11): its length, then the end of the log, then the order fill
value of the scan (the precedence of the kinds is log 37). -/
def recordFault (r : Region) (fill : Word) (len : Nat) : Option Nat :=
  if len % 8 ≠ 0 ∨ 2048 < len then some 1
  else if r.work.orderSize < logPosition r.orderTaken r.work.orderSize + 8 + len then some 2
  else if (fill - r.orderTaken).toNat < 8 + len then some 3
  else none

/-- Order taken is advanced past a record and written to the header (R12). A scan that has reached its order fill value
ends (R10). -/
def State.passRecord (s : State) (fill : Word) (len : Nat) : State :=
  let taken := s.region.orderTaken + BitVec.ofNat 32 (8 + len)
  (s.setRegion
      { s.region with orderTaken := taken, scan := if taken = fill then none else some fill }).hostWrite
    offOrderTaken (le 4 taken.toNat)

/-- The answer is raised, and the decision carried out (R13). What it makes ready then begins (R74, R75). -/
def State.carryOut (s : State) (tag : Word) (b : List Byte) (position : Nat) (d : Decision) : State :=
  (d.effect (s.raise (.answ (reference b) tag position d.result d.value))).wakeAll

/-- The order fill value of the scan in progress, while it takes records (R10). -/
def Region.takes (r : Region) : Option Word :=
  if r.engine = .running ∧ r.intake = .taking then
    match r.scan with
    | some fill => if fill = r.orderTaken then none else some fill
    | none => none
  else none

/-- The order reader takes the next record of the log (R11 to R13): a structural fault, or the record is passed and
decided. Without a scan that takes records nothing happens (log 3). DESIGN CHOICE (log 42): a failure of the write of order
taken is a HOST_ACCESS_FAULT of its own, so HACC comes after the order's ANSW and effect, and with the fault latch set the
order is decided, answered and carried out before the engine enters HALTED; R12, R19 and R20 give no order. -/
def State.takeRecord (s : State) (tag : Word) (r : Record) : State :=
  match s.region.takes with
  | none => s
  | some fill =>
    match recordFault s.region fill r.len.toNat with
    | some kind => s.structuralFault kind
    | none =>
      let position := logPosition s.region.orderTaken s.region.work.orderSize
      let passed := s.passRecord fill r.len.toNat
      match decideRecord passed tag r.body with
      | none => passed
      | some d => passed.carryOut tag r.body position d

end Sys2Proof.Machine
end

