-- ==== Sys2Proof/Machine/RegionCmds.lean ====
section
/-! DEFINITION. The commands of the Region Interface: the register window (R1, R2), starting, stopping and resetting the
engine (R4 to R8), scans (R9, R10), the writers (R15 to R18) and host-access faults (R19, R20). -/

namespace Sys2Proof.Machine

/-- A command that goes on to a next state. -/
abbrev Reply := Host.Outcome State Fault Refusal

/-- Power-on or a PCIe reset (R1, R8). The queue of commands and the model's own counters are the model's and stay. -/
def execPowerOn (s : State) : Reply :=
  .next { State.reset with sent := s.cutBoth.sent, drawn := s.drawn, pending := s.pending }

/-- START (R2, R4, R5): in STOPPED it is checked and taken, or waits while the writers still write. Of several that wait
the first is the one that starts the engine. A START that takes effect ends the wait of an older one (R4, log 12). -/
def execStart (header : HeaderRead) (taken fill : CountRead) (s : State) : Reply :=
  .next
    (if s.region.engine = .stopped then
      if s.region.writersBusy then s.setRegion { s.region with startWaiting := some (s.region.startWaiting.getD s.et) }
      else s.proceed s.et header taken fill
     else s)

/-- A START that waited proceeds once the writers have ended, if the engine is still STOPPED (R4). -/
def execStartDeferred (header : HeaderRead) (taken fill : CountRead) (s : State) : Reply :=
  .next
    (match s.region.startWaiting with
     | none => s
     | some since =>
       if s.region.writersBusy then s
       else
         let s := s.setRegion { s.region with startWaiting := none }
         if s.region.engine = .stopped then s.proceed since header taken fill else s)

/-- STOP (R6): in RUNNING only. -/
def execStop (s : State) : Reply := .next (if s.region.engine = .running then s.stopRunning else s)

/-- The engine leaves STOPPING for STOPPED once no tag is ISSUED (R7). -/
def execStopComplete (s : State) : Reply :=
  .next (if s.region.engine = .stopping ∧ s.anyIssued = false then s.enterStopped else s)

/-- RESET (R8), in any engine state. -/
def execReset (s : State) : Reply := .next s.resetEngine

/-- The engine is RUNNING or STOPPING. -/
def EngineState.works : EngineState → Bool
  | .running => true
  | .stopping => true
  | .stopped => false
  | .halted => false

/-- SCAN (R2, R9): in RUNNING or STOPPING. -/
def execScan (taken fill : CountRead) (s : State) : Reply :=
  .next (if s.region.engine.works then s.startScan taken fill else s)

/-- RESUME_INTAKE (R14): in RUNNING while intake is BLOCKED. -/
def execResumeIntake (write : WriteResult) (taken fill : CountRead) (s : State) : Reply :=
  .next
    (if s.region.engine = .running ∧ s.region.intake = .blocked then
      match write with
      | .failed => s.hostFault .orderTakenWrite offOrderTaken
      | .ok =>
        let s := s.hostWrite offOrderTaken (le 4 s.region.orderTaken.toNat)
        (s.setRegion { s.region with intake := .taking }).startScan taken fill
     else s)

/-- CLEAR_FAULT (R2): not in HALTED. -/
def execClearFault (s : State) : Reply :=
  .next (if s.halted then s else s.setRegion { s.region with faultLatch := false })

/-- CLEAR_LOST (R2): not in HALTED. -/
def execClearLost (s : State) : Reply :=
  .next (if s.halted then s else s.setRegion { s.region with noticesLost := false })

/-- A write of NOTICE_LEVEL (R1, R17): the low three bits are kept, and one MSI is sent if the level is lowered while the
fault latch is set. -/
def execNoticeLevelWrite (value : Word) (s : State) : Reply :=
  .next
    ((s.setRegion { s.region with noticeLevel := value.setWidth 3 }).signalIf
      (decide (value.setWidth 3 < s.region.noticeLevel) && s.region.faultLatch))

/-- A write of another register (R1, R2): REGION_LO and REGION_HI take it, IDENT and STATUS do not, and an action code of
CONTROL that names no action has no effect. -/
def execRegisterWrite (reg : WindowReg) (value : Word) (s : State) : Reply :=
  .next
    (match reg with
     | .regionLo => s.setRegion { s.region with regionLo := value }
     | .regionHi => s.setRegion { s.region with regionHi := value }
     | .ident => s
     | .status => s
     | .control => s)

/-- An expiry of the scan timer (R9), once Engine Time has reached it. -/
def execScanTimerExpiry (taken fill : CountRead) (s : State) : Reply :=
  .next
    (match s.region.timer with
     | none => s
     | some t =>
       if s.reached t then
         (s.setRegion { s.region with timer := some (later t s.region.work.periodNs) }).startScan taken fill
       else s)

/-- The further scan that was wanted starts when the scan in progress has ended (R9). -/
def execFurtherScan (taken fill : CountRead) (s : State) : Reply :=
  .next
    (if s.region.scanWanted = true ∧ s.region.scan = none ∧ s.region.engine.works = true then
      (s.setRegion { s.region with scanWanted := false }).scanPass taken fill
     else s)

/-- PCIe reports that an access of a kind has failed (R19, R20). HACC carries the offset at which it was aimed: the running
counts lie at fixed places, and a record is read where order taken stands. DESIGN CHOICE (log 43): a failed write of a notice
is one of the batch that awaits its advance, or else of the batch that the notices held now would make; a failed write of a
status record is one of the record that the mirror writer serves next, if it serves any. `offset` says which of the writes it
was. -/
def State.accessFails (s : State) (access : Access) (offset : Word) : State :=
  match access with
  | .orderFillRead => s.hostFault access offOrderFill
  | .orderRecordRead =>
    s.hostFault access (s.region.work.orderOffset + logPosition s.region.orderTaken s.region.work.orderSize)
  | .orderTakenWrite => s.hostFault access offOrderTaken
  | .noticeTakenRead => s.hostFault access offNoticeTaken
  | .noticeFillWrite => s.hostFault access offNoticeFill
  | .noticeWrite =>
    (if s.region.batch.isSome then s else s.popNotices s.region.writable).hostFault access offset.toNat
  | .statusWrite =>
    match s.region.markedStream with
    | none => s.hostFault access offset.toNat
    | some n => s.writeMirror (some (if offset.toNat = s.region.work.mirrorOffset + 64 * n + 4 then 1 else 0))

/-- The engine makes host-accesses: in RUNNING, in STOPPING, and in STOPPED while the writers still write (R7, R21). -/
def Region.accesses (r : Region) : Bool := r.engine.works || (r.engine == .stopped && r.writersBusy)

/-- PCIe reports that a host-access failed (R19, R20). -/
def execHostAccessFault (access : Access) (offset : Word) (s : State) : Reply :=
  .next (if s.region.accesses then s.accessFails access offset else s)

/-- The notice writer writes a batch (R15 to R17). -/
def execNoticeBatchWrite (reads : List CountRead) (failAt : Option Nat) (s : State) : Reply :=
  .next (s.writeBatch reads failAt)

/-- The notice writer advances notice fill (R17). -/
def execNoticeFillAdvance (write : WriteResult) (s : State) : Reply := .next (s.advanceFill write)

/-- The mirror writer writes one status record (R18). -/
def execMirrorRecordWrite (failAt : Option (Fin 3)) (s : State) : Reply := .next (s.writeMirror failAt)

end Sys2Proof.Machine
end

