-- ==== Sys2Proof/Machine/LogCmds.lean ====
section
/-! DEFINITION. The commands that take a record of the order log (R10 to R13). Each is a taking of the next record with the
tag of its order; which of an order's forms a record is follows from its body, as the order's rule says (log 22). -/

namespace Sys2Proof.Machine

/-- A record whose tag is no order's is skipped and answered UNKNOWN_TAG (R12). -/
def execUnknownTag (tag : Word) (r : Record) (s : State) : Reply := .next (s.takeRecord tag r)

/-- PAD: filler, taken without an answer (R12). -/
def execPad (r : Record) (s : State) : Reply := .next (s.takeRecord tagPAD r)

/-- LAYD with a member count of 1 to 8: a definition (R27 to R30). -/
def execLaydDefine (r : Record) (s : State) : Reply := .next (s.takeRecord tagLAYD r)

/-- LAYD with a member count of 0: a deletion (R27, R29 to R31). -/
def execLaydDelete (r : Record) (s : State) : Reply := .next (s.takeRecord tagLAYD r)

/-- CLIP with a frame blocks value above 0: a definition (R36, R37). -/
def execClipDefine (r : Record) (s : State) : Reply := .next (s.takeRecord tagCLIP r)

/-- CLIP with a frame blocks value of 0: a deletion (R36, R37). -/
def execClipDelete (r : Record) (s : State) : Reply := .next (s.takeRecord tagCLIP r)

/-- MEMB: the four settings of a member (R126). -/
def execMemb (r : Record) (s : State) : Reply := .next (s.takeRecord tagMEMB r)

/-- MRST: a member link is reset (R127). -/
def execMrst (r : Record) (s : State) : Reply := .next (s.takeRecord tagMRST r)

/-- OPEN: a stream is opened (R42 to R44). -/
def execOpen (r : Record) (s : State) : Reply := .next (s.takeRecord tagOPEN r)

/-- CUES in REPLACE mode (R80, R81). -/
def execCuesReplace (r : Record) (s : State) : Reply := .next (s.takeRecord tagCUES r)

/-- CUES in APPEND mode (R80, R82). -/
def execCuesAppend (r : Record) (s : State) : Reply := .next (s.takeRecord tagCUES r)

/-- XPRT with the action PLAY (R45 to R48). -/
def execXprtPlay (r : Record) (s : State) : Reply := .next (s.takeRecord tagXPRT r)

/-- XPRT with the action HOLD (R45, R49). -/
def execXprtHold (r : Record) (s : State) : Reply := .next (s.takeRecord tagXPRT r)

/-- XPRT with the action RESUME (R45, R52). -/
def execXprtResume (r : Record) (s : State) : Reply := .next (s.takeRecord tagXPRT r)

/-- XPRT with the action PARK (R45, R53). -/
def execXprtPark (r : Record) (s : State) : Reply := .next (s.takeRecord tagXPRT r)

/-- XPRT with the action LOCATE (R45, R55 to R57). -/
def execXprtLocate (r : Record) (s : State) : Reply := .next (s.takeRecord tagXPRT r)

/-- XPRT with the action STEP (R45, R58). -/
def execXprtStep (r : Record) (s : State) : Reply := .next (s.takeRecord tagXPRT r)

/-- MARK with the operation SET (R99). -/
def execMarkSet (r : Record) (s : State) : Reply := .next (s.takeRecord tagMARK r)

/-- MARK with the operation CLEAR (R99). -/
def execMarkClear (r : Record) (s : State) : Reply := .next (s.takeRecord tagMARK r)

/-- SHUT: a stream is closed (R60). -/
def execShut (r : Record) (s : State) : Reply := .next (s.takeRecord tagSHUT r)

/-- SHAR with the operation ADD (R147). -/
def execSharAdd (r : Record) (s : State) : Reply := .next (s.takeRecord tagSHAR r)

/-- SHAR with the operation REMOVE (R147, R148). -/
def execSharRemove (r : Record) (s : State) : Reply := .next (s.takeRecord tagSHAR r)

/-- SHAR with the operation MUTE (R147, R149). -/
def execSharMute (r : Record) (s : State) : Reply := .next (s.takeRecord tagSHAR r)

/-- SHAR with the operation UNMUTE (R147, R149). -/
def execSharUnmute (r : Record) (s : State) : Reply := .next (s.takeRecord tagSHAR r)

end Sys2Proof.Machine
end

