-- ==== Sys2Proof/Machine/MemberCmds.lean ====
section
/-! DEFINITION. The commands of the member links: partner and loss (R124, R125), the messages ATTACH, DATA and DONE (R124,
R134 to R137, R160), expiries (R138) and holdoffs (R137). In HALTED each is without effect (R143). -/

namespace Sys2Proof.Machine

/-- LINK_PARTNER_DETECTED (R124): a DOWN link enters TRAINING. -/
def execLinkPartnerDetected (member : MemberId) (s : State) : Reply :=
  .next (if s.halted || (s.member member).link != .down then s else s.setLink member .training)

/-- A link loses its partner or its training fails (R124, R125). -/
def State.loseLink (s : State) (m : MemberId) : State :=
  if s.halted then s
  else
    match (s.member m).link with
    | .training => ((s.setLink m .down).failQueue m .linkDown).wakeAll
    | .up => (s.dropLink m .lost).wakeAll
    | .stalled => (s.dropLink m .lost).wakeAll
    | .down => s

/-- MEMBER_LINK_LOST (R124, R125). -/
def execMemberLinkLost (member : MemberId) (s : State) : Reply := .next (s.loseLink member)

/-- ATTACH (R124, R160): a TRAINING link becomes UP with the capacity given. DESIGN CHOICE (log 19): MBUP is raised before the
issue opportunity, and so before a FAIL that a RANGE_ERROR raises there; R139 gives this order for the return from STALLED
only. -/
def State.receiveAttach (s : State) (m : MemberId) (capacity : Nat) : State :=
  if (s.member m).link = .training then
    (((s.setMember m { s.member m with link := .up, capacity := capacity }).raise
      (.mbup m .training capacity)).opportunity m).wakeAll
  else s

/-- A block of DATA goes into its frame's pages (R134, R104). -/
def State.storeBlock (s : State) (d place : Nat) (block : List Byte) : State :=
  match s.dirEntry d with
  | none => s
  | some e =>
    match frameAddress e.pages place with
    | none => s
    | some a => s.setBuffer { s.buffer with store := writeBytes s.buffer.store a block }

/-- DATA (R134): for an ISSUED tag and an offset below the chunk's count the block is written and the offset noted; any
other is discarded. -/
def State.receiveData (s : State) (m : MemberId) (t : Fin 32) (offset : Nat) (block : List Byte) : State :=
  match (s.member m).tags[t] with
  | .issued d place expiry arrived =>
    match s.chunk d place with
    | none => s
    | some c =>
      if offset < c.count then
        let noted := if arrived.contains offset then arrived else arrived ++ [offset]
        (s.setMember m ((s.member m).setTag t (.issued d place expiry noted))).storeBlock d
          (place + offset * Config.blockBytes) block
      else s
  | _ => s

/-- Every offset of a request has arrived (R135). -/
def allArrived (count : Nat) (arrived : List Nat) : Bool := (List.range count).all arrived.contains

/-- How long a NOT_READY is retried: 2^code ms (R137). -/
def notReadyWindow (code : Nat) : Nat := 2 ^ code * 1000000

/-- NOT_READY (R137): within the window the chunk is requeued with a holdoff, past it the chunk fails on the member. -/
def State.retry (s : State) (m : MemberId) (c : Chunk) : State :=
  if (s.et - c.firstIssue.getD s.et).toNat < notReadyWindow (s.member m).windowCode then
    s.join { c with holdoff := some (later s.et Config.holdoffNs) }
  else s.failOn c .notReady

/-- A DONE for an ISSUED tag, by its status; the tag is FREE by now (R135). -/
def State.answerChunk (s : State) (m : MemberId) (c : Chunk) (arrived : List Nat) (status : Nat) : State :=
  match status with
  | 0 => if allArrived c.count arrived then s.settleDone c else s.failOn c .shortData
  | 1 => s.retry m c
  | 2 => s.failOn c .mediumError
  | _ => s.settleFailed c .rangeError

/-- DONE (R135, R136). DESIGN CHOICE (log 19): the chunk settles or fails first, and the issue opportunity of the freed tag
follows; R135 gives the two no order. -/
def State.receiveDone (s : State) (m : MemberId) (t : Fin 32) (status : Nat) : State :=
  match (s.member m).tags[t] with
  | .free => s
  | .abandoned => (((s.setMember m ((s.member m).setTag t .free)).stallTest m).opportunity m).wakeAll
  | .issued d place _ arrived =>
    let s := s.setMember m ((s.member m).setTag t .free)
    let s :=
      match s.chunk d place with
      | none => s
      | some c => s.answerChunk m c arrived status
    (s.opportunity m).wakeAll

/-- A message arrives on a member link: it is decoded by R160 and acted on. In HALTED every answer is discarded (R21). -/
def State.receive (s : State) (m : MemberId) (message : List Byte) : State :=
  if s.halted then s
  else
    match linkMessage message with
    | .attach capacity => s.receiveAttach m capacity
    | .data t offset block => s.receiveData m t offset block
    | .done t status => s.receiveDone m t status
    | .discarded => s

/-- ATTACH arrives (R124). -/
def execAttach (member : MemberId) (message : List Byte) (s : State) : Reply := .next (s.receive member message)

/-- DATA arrives (R134). -/
def execData (member : MemberId) (message : List Byte) (s : State) : Reply := .next (s.receive member message)

/-- DONE arrives (R135 to R137). -/
def execMemberDone (member : MemberId) (message : List Byte) (s : State) : Reply := .next (s.receive member message)

/-- A message that is discarded arrives (R160). -/
def execMemberMessageDiscard (member : MemberId) (message : List Byte) (s : State) : Reply :=
  .next (s.receive member message)

/-- An ISSUED tag whose expiry Engine Time has reached becomes ABANDONED, and its chunk fails on the member (R138, R139).
DESIGN CHOICE (log 19): the chunk fails before the test for STALLED; R138 and R139 give the two no order. -/
def State.expire (s : State) (m : MemberId) (t : Fin 32) : State :=
  if s.halted then s
  else
    match (s.member m).tags[t] with
    | .issued d place (some e) _ =>
      if s.reached e then
        let s := s.setMember m ((s.member m).setTag t .abandoned)
        let s :=
          match s.chunk d place with
          | none => s
          | some c => s.failOn c .timeout
        (s.stallTest m).wakeAll
      else s
    | _ => s

/-- TAG_EXPIRY (R138). -/
def execTagExpiry (member : MemberId) (tag : Fin 32) (s : State) : Reply := .next (s.expire member tag)

/-- A QUEUED chunk of the member has reached its holdoff end. -/
def State.heldOff (s : State) (m : MemberId) : Bool :=
  s.dispatcher.chunks.any fun c =>
    c.state == .queued && c.current == m && (match c.holdoff with | none => false | some t => s.reached t)

/-- HOLDOFF_END (R137, R132): the issue opportunity that a reached holdoff end gives. -/
def execHoldoffEnd (member : MemberId) (s : State) : Reply :=
  .next (if s.halted || !s.heldOff member then s else (s.opportunity member).wakeAll)

end Sys2Proof.Machine
end

