-- ==== Sys2Proof/Machine/PortCmds.lean ====
section
/-! DEFINITION. The commands of the egress ports: fragments and messages (R151, R152, R154) and the links (R144, R156,
R157). -/

namespace Sys2Proof.Machine

/-- FRAGMENT_ELIGIBLE (R151, R152): a fragment has become eligible, and a free transmitter takes the arbiter's choice. -/
def execFragmentEligible (port : Port) (s : State) : Reply := .next (s.transmit port)

/-- The transmission of a message ends (R152, R154): a presentation whose last message it was is complete, and the arbiter
chooses again. -/
def State.messageEnds (s : State) (p : Port) : State :=
  if s.halted then s
  else
    match (s.port p).transmitting with
    | none => s
    | some t =>
      (((s.setPort p { s.port p with transmitting := none }).completeIfDone t.stream).wakeAll).transmit p

/-- MESSAGE_SENT (R152, R154). -/
def execMessageSent (port : Port) (s : State) : Reply := .next (s.messageEnds port)

/-- PORT_LINK_UP (R144, R157): a DOWN port becomes UP, and PTUP is raised. -/
def execPortLinkUp (port : Port) (s : State) : Reply :=
  .next
    (if (s.port port).up then s
     else (s.setPort port { s.port port with up := true }).raise (.ptup port))

/-- What the loss of its port does to one stream (R156): a presentation that is SENDING ends INTERRUPTED, and a SLIP wait
ends with FILL MISSING, INTERRUPTED at once. -/
def State.interrupt (p : Port) (s : State) (n : StreamId) : State :=
  let x := s.stream n
  if x.state = .closed ∨ x.port ≠ p then s
  else if x.sendingEntry.isSome then s.endPresentation n true
  else
    match x.slipEnd, x.unsent with
    | some _, e :: _ => s.begin n e (.fill .missing)
    | _, _ => s

/-- A port becomes DOWN (R144, R156). In HALTED the link state follows the link, and nothing else happens (R158). DESIGN
CHOICE (log 19): PDWN is raised before the notices of the presentations that it interrupts; R15 lets either block's come
first. -/
def State.portDown (s : State) (p : Port) : State :=
  let s := (s.setPort p { s.port p with up := false }).raise (.pdwn p)
  if s.halted then s else (allStreams.foldl (State.interrupt p) (s.cutTransmission p)).wakeAll

/-- PORT_LINK_DOWN (R144, R156). -/
def execPortLinkDown (port : Port) (s : State) : Reply := .next (if (s.port port).up then s.portDown port else s)

/-- PORT_FRAME_RECEIVED (R144): a frame that a port receives is discarded, and has no effect. -/
def execPortFrameReceived (_port : Port) (_frame : List Byte) (s : State) : Reply := .next s

end Sys2Proof.Machine
end

