-- ==== Sys2Proof/Machine/StreamCmds.lean ====
section
/-! DEFINITION. The commands of the Layout Decoder, the Stream Controller and the Frame Buffer Manager that no order brings:
LAYC (R33), TICK_TURN (R72), RLSD (R51), SLIP_WAIT_END (R75) and SERVICE_PASS (R114). -/

namespace Sys2Proof.Machine

/-- A RETIRING entry whose in-flight count is zero completes (R33), but not in HALTED (R22). -/
def State.completeLayout (s : State) (e : Fin 16) : State :=
  if s.halted then s
  else
    match s.decoder.layout[e].state with
    | .retiring _ p =>
      if s.decoder.layout[e].inFlight = 0 then (s.layoutTakesEffect e p.ref p.op).wakeAll else s
    | _ => s

/-- LAYC (R33): a pending definition or deletion takes effect. -/
def execLayc (entry : Fin 16) (s : State) : Reply := .next (s.completeLayout entry)

/-- TICK_TURN (R72): the turn of the stream's entry, if it has come. No tick is generated in HALTED (R21). -/
def execTickTurn (stream : StreamId) (s : State) : Reply :=
  .next (if s.halted then s else (s.turnIfDue stream).wakeAll)

/-- A HELD stream is released by its release time (R51). DESIGN CHOICE (log 19): RLSD, which R51 lists after the projection,
comes after a FAIL that the projection's lookups and reports bring about in another block; R15 lets either come first. -/
def State.timeRelease (s : State) (n : StreamId) : State :=
  if s.halted || (s.stream n).state != .held then s
  else
    match (s.stream n).releaseTime with
    | none => s
    | some t => if s.reached t then (((s.releaseHold n t).raiseAt t (.rlsd n)).markMirror n).wakeAll else s

/-- RLSD (R51). -/
def execRlsd (stream : StreamId) (s : State) : Reply := .next (s.timeRelease stream)

/-- The end of a SLIP wait while the frame is neither READY nor FAILED (R75): FILL MISSING begins, with LATE (R155). A frame
that is settled only after the end of the wait comes too late for it. -/
def State.endSlip (s : State) (n : StreamId) : State :=
  let x := s.stream n
  if s.halted || x.state != .running then s
  else
    match x.slipEnd, x.unsent with
    | some t, e :: _ =>
      if s.reached t = true ∧ ((e.stage ≠ .ready ∧ e.stage ≠ .failed) ∨ t ≠ s.et) then
        ((s.applyLate n e .fillMissing (s.et - e.deliver)).begin n e (.fill .missing)).wakeAll
      else s
    | _, _ => s

/-- SLIP_WAIT_END (R75). -/
def execSlipWaitEnd (stream : StreamId) (s : State) : Reply := .next (s.endSlip stream)

/-- SERVICE_PASS (R114): a pass that is called for. None begins in HALTED (R123). -/
def execServicePass (s : State) : Reply :=
  .next (if s.halted || !s.buffer.passWanted then s else s.servicePass.wakeAll)

end Sys2Proof.Machine
end

