-- ==== Sys2Proof/Machine/Dispatch.lean ====
section
/-! DEFINITION. The dispatch of a command to its meaning, one arm per command. -/

namespace Sys2Proof.Machine

def exec (i : Instr) (s : State) : Host.Outcome State Fault Refusal :=
  match i with
  | .powerOn => Sys2Proof.Machine.execPowerOn s
  | .start header taken fill => Sys2Proof.Machine.execStart header taken fill s
  | .startDeferred header taken fill => Sys2Proof.Machine.execStartDeferred header taken fill s
  | .stop => Sys2Proof.Machine.execStop s
  | .stopComplete => Sys2Proof.Machine.execStopComplete s
  | .reset => Sys2Proof.Machine.execReset s
  | .scan taken fill => Sys2Proof.Machine.execScan taken fill s
  | .resumeIntake write taken fill => Sys2Proof.Machine.execResumeIntake write taken fill s
  | .clearFault => Sys2Proof.Machine.execClearFault s
  | .clearLost => Sys2Proof.Machine.execClearLost s
  | .noticeLevelWrite value => Sys2Proof.Machine.execNoticeLevelWrite value s
  | .registerWrite reg value => Sys2Proof.Machine.execRegisterWrite reg value s
  | .scanTimerExpiry taken fill => Sys2Proof.Machine.execScanTimerExpiry taken fill s
  | .furtherScan taken fill => Sys2Proof.Machine.execFurtherScan taken fill s
  | .pad r => Sys2Proof.Machine.execPad r s
  | .unknownTag tag r => Sys2Proof.Machine.execUnknownTag tag r s
  | .laydDefine r => Sys2Proof.Machine.execLaydDefine r s
  | .laydDelete r => Sys2Proof.Machine.execLaydDelete r s
  | .layc entry => Sys2Proof.Machine.execLayc entry s
  | .clipDefine r => Sys2Proof.Machine.execClipDefine r s
  | .clipDelete r => Sys2Proof.Machine.execClipDelete r s
  | .memb r => Sys2Proof.Machine.execMemb r s
  | .mrst r => Sys2Proof.Machine.execMrst r s
  | .openStream r => Sys2Proof.Machine.execOpen r s
  | .cuesReplace r => Sys2Proof.Machine.execCuesReplace r s
  | .cuesAppend r => Sys2Proof.Machine.execCuesAppend r s
  | .xprtPlay r => Sys2Proof.Machine.execXprtPlay r s
  | .xprtHold r => Sys2Proof.Machine.execXprtHold r s
  | .xprtResume r => Sys2Proof.Machine.execXprtResume r s
  | .xprtPark r => Sys2Proof.Machine.execXprtPark r s
  | .xprtLocate r => Sys2Proof.Machine.execXprtLocate r s
  | .xprtStep r => Sys2Proof.Machine.execXprtStep r s
  | .markSet r => Sys2Proof.Machine.execMarkSet r s
  | .markClear r => Sys2Proof.Machine.execMarkClear r s
  | .shut r => Sys2Proof.Machine.execShut r s
  | .sharAdd r => Sys2Proof.Machine.execSharAdd r s
  | .sharRemove r => Sys2Proof.Machine.execSharRemove r s
  | .sharMute r => Sys2Proof.Machine.execSharMute r s
  | .sharUnmute r => Sys2Proof.Machine.execSharUnmute r s
  | .hostAccessFault access offset => Sys2Proof.Machine.execHostAccessFault access offset s
  | .noticeBatchWrite reads failAt => Sys2Proof.Machine.execNoticeBatchWrite reads failAt s
  | .noticeFillAdvance write => Sys2Proof.Machine.execNoticeFillAdvance write s
  | .mirrorRecordWrite failAt => Sys2Proof.Machine.execMirrorRecordWrite failAt s
  | .tickTurn stream => Sys2Proof.Machine.execTickTurn stream s
  | .rlsd stream => Sys2Proof.Machine.execRlsd stream s
  | .slipWaitEnd stream => Sys2Proof.Machine.execSlipWaitEnd stream s
  | .servicePass => Sys2Proof.Machine.execServicePass s
  | .linkPartnerDetected member => Sys2Proof.Machine.execLinkPartnerDetected member s
  | .attach member message => Sys2Proof.Machine.execAttach member message s
  | .memberLinkLost member => Sys2Proof.Machine.execMemberLinkLost member s
  | .data member message => Sys2Proof.Machine.execData member message s
  | .memberDone member message => Sys2Proof.Machine.execMemberDone member message s
  | .memberMessageDiscard member message => Sys2Proof.Machine.execMemberMessageDiscard member message s
  | .tagExpiry member tag => Sys2Proof.Machine.execTagExpiry member tag s
  | .holdoffEnd member => Sys2Proof.Machine.execHoldoffEnd member s
  | .fragmentEligible port => Sys2Proof.Machine.execFragmentEligible port s
  | .messageSent port => Sys2Proof.Machine.execMessageSent port s
  | .portLinkUp port => Sys2Proof.Machine.execPortLinkUp port s
  | .portLinkDown port => Sys2Proof.Machine.execPortLinkDown port s
  | .portFrameReceived port frame => Sys2Proof.Machine.execPortFrameReceived port frame s

end Sys2Proof.Machine
end

