-- ==== Sys2Proof/Machine/Step.lean ====
section
/-! DEFINITION. One step of the block: the command at the front of the queue, or one nanosecond of Engine Time. -/

namespace Sys2Proof.Machine

/-- The idle step, on an empty queue: Engine Time advances by one nanosecond (R62; DESIGN CHOICE, log 1). -/
def State.tick (s : State) : State := { s with et := s.et + 1 }

/-- The step: the command at the front of the queue is taken and carried out; on an empty queue Engine Time advances. -/
def step (s : State) : Host.Outcome State Fault Refusal :=
  match s.pending with
  | [] => .next s.tick
  | c :: rest => exec c { s with pending := rest }

/-- The state with the command that a word spells put at the front of its queue, unchanged where the word spells none. -/
def State.withFetchWord (s : State) (nbits w : Nat) : State :=
  match Sys2Proof.decodeTableWord nbits w with
  | none => s
  | some c => { s with pending := c :: s.pending }

end Sys2Proof.Machine
end

