-- ==== Sys2Proof/Safety.lean ====
section
/-! DEFINITION. What counts as a sound state: the promises that the manual makes about the machine whatever is commanded,
as predicates that the statements use. -/

namespace Sys2Proof.Machine

/-- The Region Interface keeps its promises: at most 64 held notices (R15); HALTED only with the fault latch set (R20, R2);
the scan timer running only in RUNNING and STOPPING (R9, R21); a scan in progress only in RUNNING with intake OPEN (R10,
R11); a START waiting only while the engine has stayed STOPPED, or in HALTED, which RESET alone ends (R4, R8). -/
structure Region.Sound (r : Region) : Prop where
  held : r.notices.length ≤ Config.heldNotices
  latch : r.engine = .halted → r.faultLatch = true
  timer : r.timer ≠ none → r.engine.works = true
  scan : r.scan ≠ none → r.engine = .running ∧ r.intake = .taking
  waiting : r.startWaiting ≠ none → r.engine = .stopped ∨ r.engine = .halted

/-- A member's settings are in the ranges of R126. -/
structure Member.Legal (x : Member) : Prop where
  limitLow : 1 ≤ x.limit
  limitHigh : x.limit ≤ 32
  reserve : x.reserve < x.limit
  timeout : x.timeoutCode ≤ 10
  window : x.windowCode ≤ 7

/-- Neither port's allocated rate passes 12,000 bytes per µs (R145). -/
def State.WithinRates (s : State) : Prop :=
  s.egress.port0.allocated ≤ Config.portLimit ∧ s.egress.port1.allocated ≤ Config.portLimit

/-- A DOWN port, and in HALTED any port, sends nothing (R144, R21). -/
def State.Silent (s : State) : Prop :=
  ∀ p : Port, (s.port p).up = false ∨ s.halted = true → (s.port p).transmitting = none

/-- The invariant of the machine that the statements rest on. -/
structure State.Sound (s : State) : Prop where
  region : s.region.Sound
  members : ∀ m : MemberId, (s.member m).Legal
  rates : s.WithinRates
  store : Memory.wf s.buffer.store = true
  silent : s.Silent

/-- What the ports have promised: each port's allocated rate is the sum, over the open streams that send on it, of E times
the unmuted viewers (R145), and no presentation record belongs to a CLOSED stream (R60, R150). -/
structure State.Admitted (s : State) : Prop where
  rates : ∀ p : Port, (s.port p).allocated =
    ((List.finRange 64).map fun n : StreamId =>
      let x := s.stream n
      if x.state ≠ .closed ∧ x.port = p then
        x.egress * (List.finRange 8).countP fun i => x.viewers[i].any fun v => !v.muted
      else 0).sum
  closed : ∀ n : StreamId, (s.stream n).state = .closed → s.presentation n = none

/-- Everything that HALTED keeps until RESET (R21, R22, R61, R123, R143): the layout and clip tables and the hold, every
stream, the frame buffer, the dispatcher, and the presentation records. -/
def State.SameTables (s t : State) : Prop :=
  t.decoder = s.decoder ∧ t.streams = s.streams ∧ t.buffer = s.buffer ∧ t.dispatcher = s.dispatcher
    ∧ t.egress.presentations = s.egress.presentations

/-! ### What an operation leaves unchanged -/

/-- The four settings of a member are the same (R126). -/
def Member.SameSettings (x y : Member) : Prop :=
  y.limit = x.limit ∧ y.reserve = x.reserve ∧ y.timeoutCode = x.timeoutCode ∧ y.windowCode = x.windowCode

/-- The Region Interface differs by notices, a newly set notices-lost flag and newly set mirror marks only, notices are only
appended, and the held notices do not pass their limit unless they did before. -/
def Region.Near (r q : Region) : Prop :=
  ∃ ns lost marks, q = { r with notices := ns, noticesLost := lost, marks := marks } ∧
    (r.notices.length ≤ Config.heldNotices → ns.length ≤ Config.heldNotices) ∧
    (∀ n : StreamId, r.marks[n] = true → marks[n] = true) ∧ r.notices <+: ns ∧ (r.noticesLost = true → lost = true)

/-- An output that is neither an MSI nor a write to host memory. -/
def Output.inner : Output → Bool
  | .msi => false
  | .hostWrite .. => false
  | .memberMessage .. => true
  | .delivery .. => true
  | .cutShort .. => true

/-- A window entry but for its stage and its directory reference. -/
def Entry.core (e : Entry) : Entry := { e with stage := .projected, ref := none }

/-- An output that is a READ on a member link (R133). -/
def Output.isRead : Output → Bool
  | .memberMessage .. => true
  | .msi => false
  | .hostWrite .. => false
  | .delivery .. => false
  | .cutShort .. => false

/-- A window entry but for the stage that it has before it begins sending. -/
def Entry.seen (e : Entry) : Entry := { e with stage := if e.stage = .sending then .sending else .projected }

/-- A stream differs from another by the stages of its unsent window entries only (R91). -/
def Stream.Like (x y : Stream) : Prop :=
  y = { x with window := y.window } ∧ y.window.map Entry.seen = x.window.map Entry.seen

/-- A stream waits for a frame: it is SEEKING (R74), or a SLIP wait is in progress (R75). -/
def Stream.Waits (x : Stream) : Prop := x.state = .seeking ∨ x.slipEnd ≠ none

/-- The link and the capacity of a member are the same, its ABANDONED tags are ABANDONED still, and on a link that is not
UP its FREE tags are FREE still. -/
structure Member.Keeps (x y : Member) : Prop where
  link : y.link = x.link
  capacity : y.capacity = x.capacity
  abandoned : ∀ t : Fin 32, x.tags[t] = .abandoned → y.tags[t] = .abandoned
  free : x.link ≠ .up → ∀ t : Fin 32, x.tags[t] = .free → y.tags[t] = .free

/-- An operation of the blocks that may change member links and lower allocated rates, for the streams of which `A`
holds. It leaves Engine Time, the queue of commands, the contents of the frame store, the play page reserve, the member
settings, the clip table and the states of the layout entries; changes the Region Interface by notices and newly set mirror
marks only; raises no port's rate and changes no port's link; sends no MSI, writes nothing to host memory, and sends a READ
in RUNNING only; begins no presentation of a stream for which `A` does not hold; and changes no such stream but for the
stages of its unsent window entries. -/
structure Mild (A : StreamId → Prop) (s t : State) : Prop where
  et : t.et = s.et
  pending : t.pending = s.pending
  region : s.region.Near t.region
  store : t.buffer.store = s.buffer.store
  reserve : t.buffer.reserve = s.buffer.reserve
  settings : ∀ m : MemberId, (s.member m).SameSettings (t.member m)
  clips : t.decoder.clips = s.decoder.clips
  layouts : ∀ e : Fin 16, t.decoder.layout[e].state = s.decoder.layout[e].state
  rates : ∀ p : Port, (t.port p).allocated ≤ (s.port p).allocated
  links : ∀ p : Port, (t.port p).up = (s.port p).up
  silent : s.Silent → t.Silent
  outputs : ∃ l, t.sent = s.sent ++ l ∧ ∀ o ∈ l, o.inner = true ∧ (o.isRead = true → s.region.engine = .running)
  quiet : ∀ n : StreamId, ¬ A n → s.presentation n = none → t.presentation n = none
  sending : ∀ (p : Port) (x : Transmission), (t.port p).transmitting = some x →
    (s.port p).transmitting = some x ∨ s.presentation x.stream ≠ none ∨ A x.stream
  others : ∀ n : StreamId, ¬ A n → (s.stream n).Like (t.stream n)

/-- An inner operation of the blocks, for the streams of which `A` holds: besides what Mild says, it leaves the member
links and the allocated rates. -/
structure Calm (A : StreamId → Prop) (s t : State) : Prop extends Mild A s t where
  keeps : ∀ m : MemberId, (s.member m).Keeps (t.member m)
  same : ∀ p : Port, (t.port p).allocated = (s.port p).allocated

/-! ### Orders -/

/-- The order reader may take the record (R10, R11): it is taking records in a scan, and the record passes the three
structural checks. -/
structure State.Readable (s : State) (r : Record) : Prop where
  running : s.region.engine = .running
  taking : s.region.intake = .taking
  scan : ∃ fill, s.region.scan = some fill ∧ 8 + r.len.toNat ≤ (fill - s.region.orderTaken).toNat
  whole : r.len.toNat % 8 = 0
  short : r.len.toNat ≤ 2048
  inLog : s.region.orderTaken.toNat % s.region.work.orderSize + 8 + r.len.toNat ≤ s.region.work.orderSize

/-- The state once the reader has passed the record (R12): order taken is advanced past it and written to the header, and a
scan that has reached its order fill value has ended (R10). -/
def State.afterRecord (s : State) (r : Record) : State :=
  let taken := s.region.orderTaken + BitVec.ofNat 32 (8 + r.len.toNat)
  { s with
    region := { s.region with orderTaken := taken, scan := if s.region.scan = some taken then none else s.region.scan }
    sent := s.sent ++ [.hostWrite (s.region.base + 0x44) (le 4 taken.toNat)] }

/-- The state once the reader has passed the record and its answer is raised (R12, R13). A refused order does nothing
else. -/
def State.answered (s : State) (tag : Word) (r : Record) (code : Result) (value : Nat) : State :=
  (s.afterRecord r).raise
    (.answ (reference r.body) tag (s.region.orderTaken.toNat % s.region.work.orderSize) code value)

/-- A notice is held by the writer, unless the flag says that notices have been lost (R15). -/
def State.Notified (s : State) (b : NoticeBody) (et : Time) : Prop :=
  ⟨b, et⟩ ∈ s.region.notices ∨ s.region.noticesLost = true

/-- The tag and the record of a command that takes a record of the order log. -/
def orderOf : Instr → Option (Word × Record)
  | .pad r => some (tagPAD, r)
  | .unknownTag tag r => some (tag, r)
  | .laydDefine r => some (tagLAYD, r)
  | .laydDelete r => some (tagLAYD, r)
  | .clipDefine r => some (tagCLIP, r)
  | .clipDelete r => some (tagCLIP, r)
  | .memb r => some (tagMEMB, r)
  | .mrst r => some (tagMRST, r)
  | .openStream r => some (tagOPEN, r)
  | .cuesReplace r => some (tagCUES, r)
  | .cuesAppend r => some (tagCUES, r)
  | .xprtPlay r => some (tagXPRT, r)
  | .xprtHold r => some (tagXPRT, r)
  | .xprtResume r => some (tagXPRT, r)
  | .xprtPark r => some (tagXPRT, r)
  | .xprtLocate r => some (tagXPRT, r)
  | .xprtStep r => some (tagXPRT, r)
  | .markSet r => some (tagMARK, r)
  | .markClear r => some (tagMARK, r)
  | .shut r => some (tagSHUT, r)
  | .sharAdd r => some (tagSHAR, r)
  | .sharRemove r => some (tagSHAR, r)
  | .sharMute r => some (tagSHAR, r)
  | .sharUnmute r => some (tagSHAR, r)
  | _ => none

/-- No stream is about to begin sending an entry whose frame is settled: every step ends so (R74, R75). -/
def State.Settled (s : State) : Prop := ∀ n : StreamId, s.wakeable n = none

/-- The command takes the record `r` of the order log under the tag: the reader is taking records, the record passes the
structural checks, and no stream was about to begin sending. -/
structure State.Takes (s : State) (c : Instr) (tag : Word) (r : Record) : Prop where
  order : orderOf c = some (tag, r)
  readable : s.Readable r
  settled : s.Settled

/-! ### Conditions that several statements share -/

/-- The checks of R4 on the 256 header bytes, by their codes. -/
def HeaderCheck (h : List Byte) : Nat → Prop
  | 3 => u32 h 0x00 = 1
  | 4 => u32 h 0x04 % 4096 = 0 ∧ u32 h 0x04 ≠ 0 ∧ u32 h 0x04 ≤ 64 * 1048576
  | 5 => ∃ k, 12 ≤ k ∧ k ≤ 20 ∧ u32 h 0x0C = 2 ^ k
  | 6 => ∃ k, 12 ≤ k ∧ k ≤ 20 ∧ u32 h 0x14 = 2 ^ k
  | 7 =>
    let areas := [(u32 h 0x08, u32 h 0x0C), (u32 h 0x10, u32 h 0x14), (u32 h 0x18, 4096)]
    (∀ a ∈ areas, a.1 % 64 = 0 ∧ a.1 + a.2 ≤ u32 h 0x04) ∧
      List.Pairwise (fun a b : Nat × Nat => a.1 + a.2 ≤ b.1 ∨ b.1 + b.2 ≤ a.1) ((0, 256) :: areas)
  | 8 => u32 h 0x44 % 8 = 0 ∧ u32 h 0x48 % 8 = 0 ∧ (w32 h 0x48 - w32 h 0x4C).toNat ≤ u32 h 0x14
  | _ => True

/-- A value of notice taken that the header gives may be taken into use (R16). -/
def Region.Usable (r : Region) (v : Word) : Prop := v.toNat % 8 = 0 ∧ (r.noticeFill - v).toNat ≤ r.work.noticeSize

/-- A value of order fill passes the count check of R10. -/
def Region.CountOk (r : Region) (f : Word) : Prop := f.toNat % 8 = 0 ∧ (f - r.orderTaken).toNat ≤ r.work.orderSize

/-- The Region Interface once a scan has begun without a fault (R10): notice taken is taken into use, and in RUNNING with
intake OPEN the scan is in progress unless order taken has the order fill value already. -/
def Region.scanned (r : Region) (v f : Word) : Region :=
  if r.engine = .running ∧ r.intake = .taking ∧ f ≠ r.orderTaken then { r with noticeTaken := v, scan := some f }
  else { r with noticeTaken := v }

/-- The deliver time of run tick `k` of a run anchored at `a`, at rate `n` over `d` (R66). -/
def runTick (a : Time) (n d k : Nat) : Time := a + BitVec.ofNat 64 (k * (1000000000 * d) / n)

/-- The whole part and the remainder of the stream's period are those of its rate (R64). -/
structure Stream.Paced (x : Stream) : Prop where
  rate : 0 < x.rateN
  whole : x.q = 1000000000 * x.rateD / x.rateN
  rest : x.r = 1000000000 * x.rateD % x.rateN

/-- The entries are run ticks `k`, `k + 1` and so on of a run of the stream anchored at `a`: index, deliver time and, for a
FRAME, ready deadline (R66, R70). -/
def Stream.RunTimes (x : Stream) (a : Time) (k : Nat) (l : List Entry) : Prop :=
  ∀ (i : Nat) (e : Entry), l[i]? = some e →
    e.index = BitVec.ofNat 64 (k + i) ∧ e.deliver = runTick a x.rateN x.rateD (k + i) ∧
      (e.kind = .frame →
        e.deadline =
          some
            (if e.deliver.toNat < e.allowance + x.margin then 0
             else e.deliver - BitVec.ofNat 64 (e.allowance + x.margin)))

/-- The entries were projected by the stream's run: their tick numbers follow on from its next tick number (R66), and their
class is that of its speed (R59). -/
def Stream.Projected (x : Stream) (speed : Int) (l : List Entry) : Prop :=
  ∀ (i : Nat) (e : Entry), l[i]? = some e →
    e.tick = x.nextTick + BitVec.ofNat 32 i ∧ e.cls = (if speed.natAbs ≤ 16 then .play else .scrub) ∧ e.locate = false

/-- A window entry but for the times that a release or a shift sets. -/
def Entry.untimed (e : Entry) : Entry := { e.core with index := 0, deliver := 0, deadline := none }

/-- What is SENDING of a window, the list-end mark taken off (R47, R54). -/
def Stream.kept (x : Stream) : List Entry :=
  (x.window.filter fun e => e.stage == .sending).map fun e => { e with listEnd := none }

/-- The window is full, or its projection has come to a list end (R92). -/
def Stream.Filled (x : Stream) : Prop := x.depth ≤ x.window.length ∨ ∃ e ∈ x.window, e.listEnd ≠ none

/-- The floor of a run that an order starts at ET `et` (R67). -/
def Stream.floorAt (x : Stream) (et : Time) : Time :=
  let a := et + BitVec.ofNat 64 x.latency
  match x.sendingEntry with
  | some e => if a.toNat < (e.deliver + 1).toNat then e.deliver + 1 else a
  | none => a

/-- A CLIP cue passes the transmit test of R43 at the stream's E within its period. -/
def State.Transmittable (s : State) (x : Stream) (c : Cue) : Prop :=
  c.gap = true ∨ ((s.clipAt c.clip).bytes * 1000 + x.egress - 1) / x.egress ≤ x.q

/-- The bytes that a notice of `size` bytes takes at a write position, with the PAD over the rest of the log where it does
not fit there (R16). -/
def Region.span (r : Region) (p : Word) (size : Nat) : Nat :=
  let tail := r.work.noticeSize - p.toNat % r.work.noticeSize
  if size ≤ tail then size else tail + size

/-- The bytes that notices take, one after another, from a write position (R16). -/
def Region.spans (r : Region) : Word → List Notice → Nat
  | _, [] => 0
  | p, n :: rest => r.span p n.size + r.spans (p + BitVec.ofNat 32 (r.span p n.size)) rest

/-- A write to host memory at an offset in the region (1.2). -/
def Region.writeAt (r : Region) (offset : Nat) (bytes : List Byte) : Output :=
  .hostWrite (r.base + BitVec.ofNat 64 offset) bytes

/-- The writes of a notice at a write position (R16): itself, or the PAD and itself at the start of the log. -/
def Region.noticeWrites (r : Region) (p : Word) (n : Notice) : List Output :=
  let position := p.toNat % r.work.noticeSize
  let tail := r.work.noticeSize - position
  if n.size ≤ tail then [r.writeAt (r.work.noticeOffset + position) n.bytes]
  else [r.writeAt (r.work.noticeOffset + position) (le 4 0x20444150 ++ le 4 (tail - 8)), r.writeAt r.work.noticeOffset n.bytes]

/-- STATUS as a read of the register window gives it (10.2): the engine state, intake BLOCKED, the fault latch, notices lost
and the start fault code, every other bit 0. -/
def Region.ShowsStatus (r : Region) (w : Word) : Prop :=
  w.toNat % 4 = (match r.engine with | .stopped => 0 | .running => 1 | .stopping => 2 | .halted => 3) ∧
    w.toNat / 4 % 2 = (if r.intake = .blocked then 1 else 0) ∧ w.toNat / 8 % 2 = (if r.faultLatch = true then 1 else 0) ∧
    w.toNat / 16 % 2 = (if r.noticesLost = true then 1 else 0) ∧ w.toNat / 32 % 8 = 0 ∧
    w.toNat / 256 % 16 = r.startFault.toNat ∧ w.toNat / 4096 = 0

/-- The codes of 10.1 and 10.5, in their order. -/
def CodesOk : Prop :=
  [Result.ok, .clamped, .unknownTag, .badLength, .badField, .noSuch, .wrongState, .inUse, .overlap, .full, .empty, .loopCross,
        .noBandwidth, .tooSlow, .notHeld, .notPermitted, .superseded, .abandoned, .failed].map Result.code = List.range 19 ∧
    [Policy.skip, .repeatLast, .slip].map Policy.code = [0, 1, 2] ∧
    [Direction.forward, .reverse, .none].map Direction.code = [0, 1, 2] ∧
    [Cause.timeout, .notReady, .mediumError, .rangeError, .linkDown, .shortData, .unmapped].map Cause.code =
      [1, 2, 3, 4, 5, 6, 7] ∧
    [Link.down, .training, .up, .stalled].map Link.code = [0, 1, 2, 3] ∧
    [DropCause.lost, .reset].map DropCause.code = [0, 1] ∧ [ListEnd.atEnd, .atStart].map ListEnd.code = [0, 1] ∧
    [LateOutcome.fillMissing, .repeated, .fillFailed, .frameAfterWait].map LateOutcome.code = [0, 1, 2, 3] ∧
    [Access.orderFillRead, .orderRecordRead, .orderTakenWrite, .noticeTakenRead, .noticeWrite, .noticeFillWrite,
        .statusWrite].map accessCode = [1, 2, 3, 4, 5, 6, 7] ∧
    [Port.e0, .e1].map portCode = [0, 1]

/-- The bytes of a notice record (10.5): the tag, the body length, the level of 1.6, reserved bytes and the ET, and from
byte 24 the fields of its kind, each modulo its width, reserved bytes 0. Of byte 2 of FTCH nothing is said (log 41). -/
def Notice.LaidOut (n : Notice) : Prop :=
  let b := n.bytes
  let zero (i k : Nat) : Prop := bytesAt b (24 + i) k = List.replicate k 0
  let head (tag : List Byte) (level length : Nat) : Prop := b.take 4 = tag ∧ u8 b 8 = level ∧ b.length = 24 + length
  u32 b 4 + 8 = b.length ∧ bytesAt b 9 7 = List.replicate 7 0 ∧ u64 b 16 = n.et.toNat ∧
    match n.body with
    | .answ ref tag position result value =>
      head [65, 78, 83, 87] 1 24 ∧ u32 b 24 = ref.toNat ∧ u32 b 28 = tag.toNat ∧ u32 b 32 = position % 2 ^ 32 ∧
        u16 b 36 = result.code ∧ zero 14 2 ∧ u32 b 40 = value % 2 ^ 32 ∧ zero 20 4
    | .layc ref entry result deleted =>
      head [76, 65, 89, 67] 2 8 ∧ u32 b 24 = ref.toNat ∧ u8 b 28 = entry.val ∧ u8 b 29 = result.code ∧
        u8 b 30 = (if deleted = true then 1 else 0) ∧ zero 7 1
    | .locd ref stream result cue offset =>
      head [76, 79, 67, 68] 2 16 ∧ u32 b 24 = ref.toNat ∧ u8 b 28 = stream.val ∧ u8 b 29 = result.code ∧
        u8 b 30 = cue % 256 ∧ zero 7 1 ∧ u32 b 32 = offset % 2 ^ 32 ∧ zero 12 4
    | .rlsd stream => head [82, 76, 83, 68] 2 8 ∧ u8 b 24 = stream.val ∧ zero 1 7
    | .shwn stream slot direction clip serial frame tick =>
      head [83, 72, 87, 78] 3 24 ∧ u8 b 24 = stream.val ∧ u8 b 25 = slot.val ∧ u8 b 26 = direction.code ∧
        u8 b 27 = clip.val ∧ u32 b 28 = serial.toNat ∧ u32 b 32 = frame % 2 ^ 32 ∧ u32 b 36 = tick.toNat ∧ zero 16 8
    | .ftch stream slot clip serial frame tick =>
      head [70, 84, 67, 72] 2 24 ∧ u8 b 24 = stream.val ∧ u8 b 25 = slot.val ∧ u8 b 27 = clip.val ∧
        u32 b 28 = serial.toNat ∧ u32 b 32 = frame % 2 ^ 32 ∧ u32 b 36 = tick.toNat ∧ zero 16 8
    | .hldn stream slot tick =>
      head [72, 76, 68, 78] 3 8 ∧ u8 b 24 = stream.val ∧ u8 b 25 = slot.val ∧ zero 2 2 ∧ u32 b 28 = tick.toNat
    | .endl stream which cue offset tick picture clip frame =>
      head [69, 78, 68, 76] 3 24 ∧ u8 b 24 = stream.val ∧ u8 b 25 = which.code ∧ u8 b 26 = cue % 256 ∧
        u8 b 27 = (if picture = true then 1 else 0) ∧ u32 b 28 = offset % 2 ^ 32 ∧ u32 b 32 = tick.toNat ∧
        u8 b 36 = clip.toNat ∧ zero 13 3 ∧ u32 b 40 = frame.toNat ∧ zero 20 4
    | .late stream policy outcome clip tick frame waited deliver =>
      head [76, 65, 84, 69] 4 24 ∧ u8 b 24 = stream.val ∧ u8 b 25 = policy.code ∧ u8 b 26 = outcome.code ∧
        u8 b 27 = clip.val ∧ u32 b 28 = tick.toNat ∧ u32 b 32 = frame % 2 ^ 32 ∧ u32 b 36 = waited.toNat % 2 ^ 32 ∧
        u64 b 40 = deliver.toNat
    | .mbup member cameFrom capacity =>
      head [77, 66, 85, 80] 4 16 ∧ u8 b 24 = member.val ∧ u8 b 25 = cameFrom.code ∧ zero 2 6 ∧
        u64 b 32 = capacity % 2 ^ 64
    | .mdwn member cause outstanding =>
      head [77, 68, 87, 78] 6 8 ∧ u8 b 24 = member.val ∧ u8 b 25 = cause.code ∧ u8 b 26 = outstanding % 256 ∧ zero 3 5
    | .mstl member abandoned limit =>
      head [77, 83, 84, 76] 6 8 ∧ u8 b 24 = member.val ∧ u8 b 25 = abandoned % 256 ∧ u8 b 26 = limit % 256 ∧ zero 3 5
    | .ptup port => head [80, 84, 85, 80] 4 8 ∧ u8 b 24 = portCode port ∧ zero 1 7
    | .pdwn port => head [80, 68, 87, 78] 6 8 ∧ u8 b 24 = portCode port ∧ zero 1 7
    | .stpd => head [83, 84, 80, 68] 4 0
    | .fail key cause chunk total unsettled users =>
      head [70, 65, 73, 76] 5 32 ∧ u8 b 24 = key.clip.val ∧ u8 b 25 = cause.code ∧
        u8 b 26 = (match chunk with | none => 255 | some c => c.1.val) ∧ zero 3 1 ∧ u32 b 28 = key.generation.toNat ∧
        u32 b 32 = key.frame % 2 ^ 32 ∧ zero 12 4 ∧
        u64 b 40 = (match chunk with | none => 0 | some c => c.2 % 2 ^ 64) ∧ u16 b 48 = total % 65536 ∧
        u16 b 50 = unsettled % 65536 ∧ u16 b 52 = users % 65536 ∧ zero 30 2
    | .hacc access offset => head [72, 65, 67, 67] 7 8 ∧ u8 b 24 = accessCode access ∧ zero 1 3 ∧ u32 b 28 = offset.toNat
    | .rgnf kind position => head [82, 71, 78, 70] 7 8 ∧ u8 b 24 = kind % 256 ∧ zero 1 3 ∧ u32 b 28 = position % 2 ^ 32

/-- The bytes of a status record with change count `c` (10.6, R41): bytes 4 to 63 after the count. -/
def Stream.LaidOut (x : Stream) (c : Word) : Prop :=
  let b := le 4 c.toNat ++ x.statusBytes
  b.length = 64 ∧ u32 b 0 = c.toNat ∧
    u8 b 4 = (match x.state with | .closed => 0 | .parked => 1 | .running => 2 | .held => 3 | .seeking => 4) ∧ u8 b 5 = 0 ∧
    (-32768 ≤ x.speed → x.speed ≤ 32767 → s16 b 6 = if x.state = .running ∨ x.state = .held then x.speed else 0) ∧
    u8 b 8 = x.cue % 256 ∧ u8 b 9 = x.shownClip.toNat ∧ u16 b 10 = 0 ∧ u32 b 12 = x.offset % 2 ^ 32 ∧
    u32 b 16 = x.shownTick.toNat ∧ u32 b 20 = x.shownFrame.toNat ∧
    (∀ e rest, x.state = .running → x.unsent = e :: rest → u64 b 24 = e.deliver.toNat) ∧
    (x.state ≠ .running ∨ x.unsent = [] → u64 b 24 = 0) ∧ u32 b 32 = x.lateCount.toNat ∧
    bytesAt b 36 28 = List.replicate 28 0

/-- The writes of notices, one after another, from a write position (R16). -/
def Region.batchWrites (r : Region) : Word → List Notice → List Output
  | _, [] => []
  | p, n :: rest => r.noticeWrites p n ++ r.batchWrites (p + BitVec.ofNat 32 (r.span p n.size)) rest

/-- The entry whose turn has come (R72): the earliest unsent entry of a RUNNING stream with nothing SENDING and no SLIP
wait, its deliver time being reached. -/
structure State.Due (s : State) (n : StreamId) (e : Entry) : Prop where
  running : (s.stream n).state = .running
  idle : (s.stream n).sendingEntry = none
  unwaited : (s.stream n).slipEnd = none
  first : ∃ rest, (s.stream n).unsent = e :: rest
  reached : e.deliver.toNat ≤ s.et.toNat
  awake : s.region.engine ≠ .halted

/-- What an entry is sent as at its turn on an UP port (R95, R155), and what LATE says of it if it is late: its own kind
when it is READY, FILL FAILED when its frame FAILED, and otherwise the substitute of the late policy, which under SLIP is
sent once its limit is reached. -/
def State.TurnSends (s : State) (n : StreamId) (e : Entry) (as_ : SentAs) : Option LateOutcome → Prop
  | none =>
    e.stage = .failed ∧ as_ = .fill .failed ∨
      e.stage = .ready ∧
        ((∃ k d y, e.kind = .frame ∧ e.frame = some k ∧ e.ref = some d ∧ s.dirEntry d = some y ∧ as_ = .frame k y.bytes d) ∨
          (∃ k, e.kind = .repeated ∧ e.frame = some k ∧ as_ = .repeated k) ∨ e.kind = .gap ∧ as_ = .fill .gap)
  | some o =>
    e.stage ≠ .ready ∧ e.stage ≠ .failed ∧
      ((∃ k, (s.stream n).policy = .repeatLast ∧ (s.stream n).lastPresented = some k ∧ as_ = .repeated k ∧ o = .repeated) ∨
        ((s.stream n).policy = .skip ∨ (s.stream n).policy = .repeatLast ∧ (s.stream n).lastPresented = none ∨
            (s.stream n).policy = .slip ∧
              (e.deliver + BitVec.ofNat 64 (s.stream n).slipLimit).toNat ≤ s.et.toNat) ∧
          as_ = .fill .missing ∧ o = .fillMissing)

/-- The stream's entry `e` has begun sending as `as_` between `s` and `t` (R95, R150, R39, R155): the presentation record has
the entry's tick and times, the stream's port and rate and its viewers, and starts at the present ET; the stream's
position, its last presented frame and its loop counters are the entry's; no SLIP wait is left; and a late entry is
counted, with LATE. -/
structure State.Began (s t : State) (n : StreamId) (e : Entry) (as_ : SentAs) (late : Option (LateOutcome × Time)) : Prop
    where
  record : ∃ p, t.presentation n = some p ∧ p.port = (s.stream n).port ∧ p.egress = (s.stream n).egress ∧ p.tick = e.tick ∧
    p.deliver = e.deliver ∧ p.start = s.et ∧ p.sentAs = as_ ∧ p.listEnd = e.listEnd.isSome ∧
    p.recipients =
      (List.finRange 8).filterMap (fun i => ((s.stream n).viewers[i]).map fun v => (⟨i, v.muted⟩ : Recipient)) ∧
    (p.marked = true ↔
      (∃ k b d, as_ = .frame k b d) ∧ ∃ g ∈ e.tags, ∃ m : Mark, (s.stream n).marks[g.slot] = some m ∧ m.serial = g.serial)
  position : (t.stream n).cue = e.cue ∧ (t.stream n).offset = e.offset ∧ (t.stream n).shown = true
  last : (t.stream n).lastPresented = match as_ with | .frame k _ _ => some k | _ => (s.stream n).lastPresented
  counters : (t.stream n).cues = applyChanges e.changes (s.stream n).cues
  unwaited : (t.stream n).slipEnd = none
  count : (t.stream n).lateCount = if late.isSome then (s.stream n).lateCount + 1 else (s.stream n).lateCount
  notice : ∀ o w k, late = some (o, w) → e.frame = some k →
    t.Notified (.late n (s.stream n).policy o k.clip e.tick k.frame w e.deliver) s.et

/-- A frame that was waited for is READY at last (R75, R76, R155): between `s` and `t` the entry `e` of stream `n` has begun
sending as its frame `k` of `bytes` bytes in directory entry `d`; with δ the time from its deliver time to the present ET,
its own deliver time is the present ET, and the run and every later entry are shifted by δ, ready deadlines included; the
wait is counted, with LATE. -/
structure State.BeganAfterWait (s t : State) (n : StreamId) (e : Entry) (k : FrameKey) (bytes d : Nat) : Prop where
  record : ∃ p, t.presentation n = some p ∧ p.port = (s.stream n).port ∧ p.egress = (s.stream n).egress ∧ p.tick = e.tick ∧
    p.deliver = s.et ∧ p.start = s.et ∧ p.sentAs = .frame k bytes d ∧ p.listEnd = e.listEnd.isSome
  window : (t.stream n).window.map Entry.core =
    ((s.stream n).window.map fun y =>
      if y.tick = e.tick then { e with deliver := s.et, stage := .sending, sentAs := some (.frame k bytes d) }
      else
        let late := y.deliver + (s.et - e.deliver)
        { y with
          deliver := late
          deadline :=
            if y.kind = .frame then
              some
                (if late.toNat < y.allowance + (s.stream n).margin then 0
                 else late - BitVec.ofNat 64 (y.allowance + (s.stream n).margin))
            else y.deadline }).map Entry.core
  run : (t.stream n).proj =
    { (s.stream n).proj with
      anchor := (s.stream n).proj.anchor + (s.et - e.deliver), deliver := (s.stream n).proj.deliver + (s.et - e.deliver) }
  position : (t.stream n).state = .running ∧ (t.stream n).cue = e.cue ∧ (t.stream n).offset = e.offset ∧
    (t.stream n).shown = true ∧ (t.stream n).lastPresented = some k
  counters : (t.stream n).cues = applyChanges e.changes (s.stream n).cues
  unwaited : (t.stream n).slipEnd = none
  count : (t.stream n).lateCount = (s.stream n).lateCount + 1
  notice : t.Notified (.late n (s.stream n).policy .frameAfterWait k.clip e.tick k.frame (s.et - e.deliver) e.deliver) s.et

/-- The message that a port is sending is the last of stream `n`'s presentation, whose entry is `e` (R154). -/
structure State.Ends (s : State) (p : Port) (n : StreamId) (e : Entry) : Prop where
  awake : s.region.engine ≠ .halted
  message : ∃ t, (s.port p).transmitting = some t ∧ t.stream = n
  last : ∃ x, s.presentation n = some x ∧ x.port = p ∧ x.todo = []
  entry : (s.stream n).sendingEntry = some e

/-- The presentation of stream `n`'s entry `e` has completed between `s` and `t` (R96): its record is dropped, the last shown
fields are the entry's, nothing of the stream is SENDING, a mirror update is raised, and no other stream has changed but for
the stages of its entries. -/
structure State.Completed (s t : State) (p : Port) (n : StreamId) (e : Entry) : Prop where
  frame : Calm (fun i => i = n) (s.setPort p { s.port p with transmitting := none }) t
  record : t.presentation n = none
  idle : (t.stream n).sendingEntry = none
  tick : (t.stream n).shownTick = e.tick
  picture : ∀ k, e.frame = some k →
    (t.stream n).shownClip.toNat = k.clip.val ∧ (t.stream n).shownFrame = BitVec.ofNat 32 k.frame
  mirror : t.region.marks[n] = true

/-- No mark that tagged the entry holds the stream (R102). -/
def Stream.Unheld (x : Stream) (e : Entry) : Prop :=
  ∀ g ∈ e.tags, ∀ m : Mark, x.marks[g.slot] = some m → m.action = .notify

/-- The frames of a cue list in list order, by cue and frame of the cue (R58). -/
def frameList (cues : List Cue) : List (Nat × Nat) :=
  cues.zipIdx.flatMap fun c => (List.range c.1.length).map fun j => (c.2, j)

/-- A window entry that references a frame and is FETCHING takes the stage that the report of the frame gives (R91). -/
def State.reportedTo (s : State) (d : Nat) (g : Stage) : Vector Stream 64 :=
  s.streams.map fun x =>
    { x with window := x.window.map fun e => if e.ref = some d ∧ e.stage = .fetching then { e with stage := g } else e }

/-- A chunk has settled (R32, R118, R142): its record is back in the pool, the in-flight count of its layout entry is one
less, its frame's directory entry is `y`, and a service pass is called for. -/
def State.settledAs (s : State) (c : Chunk) (y : DirEntry) : State :=
  { s with
    dispatcher := { s.dispatcher with chunks := s.dispatcher.chunks.filter fun z => !(z.frame == c.frame && z.offset == c.offset) }
    decoder :=
      { s.decoder with
        layout := s.decoder.layout.set c.layout
          { s.decoder.layout[c.layout] with inFlight := s.decoder.layout[c.layout].inFlight - 1 } }
    buffer :=
      { s.buffer with dir := s.buffer.dir.map (fun z => if z.id = c.frame then y else z), passWanted := true } }

/-- A chunk of the FILLING frame `y`, the last one QUEUED, has failed finally with a cause (R118, R119, R141). -/
def State.chunkFailed (s : State) (c : Chunk) (y : DirEntry) (cause : Cause) : State :=
  (({ s.settledAs c { y with unsettled := y.unsettled - 1, state := .failed, cause := some cause } with
      streams := s.reportedTo c.frame .failed } : State).raise
    (.fail y.key cause (some (c.current, c.block)) y.total (y.unsettled - 1) y.users))

/-! ### The directory -/

/-- The directory entry `y` is the only one of its number. -/
def State.HasEntry (s : State) (y : DirEntry) : Prop := y ∈ s.buffer.dir ∧ ∀ z ∈ s.buffer.dir, z.id = y.id → z = y

/-- No chunk of the frame is QUEUED. -/
def State.NoneQueued (s : State) (d : Nat) : Prop := ∀ c ∈ s.dispatcher.chunks, c.frame = d → c.state ≠ .queued

/-- The directory entry of number `y.id` is `y`, and nothing else has changed. -/
def State.withEntry (s : State) (y : DirEntry) : State :=
  { s with buffer := { s.buffer with dir := s.buffer.dir.map fun z => if z.id = y.id then y else z } }

/-- The frame's chunk records carry another deadline and class (R108, R109). -/
def State.withChunks (s : State) (d : Nat) (f : Chunk → Chunk) : State :=
  { s with
    dispatcher :=
      { s.dispatcher with chunks := s.dispatcher.chunks.map fun c => if c.frame = d then f c else c } }

/-- Directory entry `d` has been freed (R121): it has left the reclaim list, the hold and the wait list, its pages are free,
and a service pass is called for. -/
def State.withoutEntry (s : State) (d : Nat) : State :=
  { s with
    decoder := { s.decoder with hold := s.decoder.hold.filter fun z => z != d }
    buffer :=
      { s.buffer with
        dir := s.buffer.dir.filter fun z => z.id != d
        reclaim := s.buffer.reclaim.filter fun z => z != d
        waiters := s.buffer.waiters.filter fun w => !w.isFrame d
        passWanted := true } }

/-- The presentation of a stream has an eligible next message on a port (R151, R152). -/
def State.Sendable (s : State) (p : Port) (n : StreamId) (x : Presentation) : Prop :=
  s.presentation n = some x ∧ x.port = p ∧ x.todo ≠ [] ∧
    (x.start + BitVec.ofNat 64 ((x.fragment * 8192 * 1000 + x.egress - 1) / x.egress)).toNat ≤ s.et.toNat

/-- The stream's presentation is the arbiter's choice on a port (R152): the earliest deliver time, and the lowest stream
number among equals. -/
def State.Chosen (s : State) (p : Port) (n : StreamId) (x : Presentation) : Prop :=
  s.Sendable p n x ∧
    ∀ (k : StreamId) (y : Presentation), s.Sendable p k y → k ≠ n →
      x.deliver.toNat < y.deliver.toNat ∨ x.deliver = y.deliver ∧ n < k

/-- A cue list as R79 accepts them: every cue has a frame, and a loop goes back to its own cue or an earlier one. -/
def CuesOk (cues : List Cue) : Prop :=
  cues ≠ [] ∧ ∀ (i : Nat) (c : Cue), cues[i]? = some c → 1 ≤ c.length ∧ ∀ l : Loop, c.loop = some l → l.back ≤ i

end Sys2Proof.Machine
end

