-- ==== Sys2Proof/Certificates/Slice0/Obligations.lean ====
section
/-! DEFINITION. The statements for the provers. Each says which rule of the manual it formalises, or that it is the model's
choice. -/

open Sys2Proof Sys2Proof.Machine

/-! ### The machine as a whole -/

/-- The block takes the command at the front of its queue (log 1). -/
def Obligations.StepTakesTheFrontCommand : Prop :=
  ∀ (c : Instr) (rest : List Instr) (s : State), s.pending = c :: rest → step s = exec c { s with pending := rest }

/-- With no command waiting, the step is one nanosecond of Engine Time: the model's choice (log 1). That ET counts
nanoseconds is R62. -/
def Obligations.IdleStepAdvancesEngineTime : Prop :=
  ∀ s : State, s.pending = [] → step s = .next { s with et := s.et + 1 }

/-- The state after power-on is sound (R1, R126, R145, R144), and the ports have promised nothing (R145, R38). -/
def Obligations.ResetStateIsSound : Prop := State.reset.Sound ∧ State.reset.Admitted

/-- Every step keeps the machine sound: at most 64 held notices (R15), HALTED only with the latch set (R20), the scan timer
and scans only in the engine states of R9 and R10, no START waiting in RUNNING or STOPPING (R4), member settings in the ranges of R126, allocated rates within R145, a
DOWN port and any port in HALTED silent (R144, R21), and the frame store in its canonical form. And every step keeps what
the ports have promised: a port's allocated rate is the sum, over the open streams that send on it, of E times the unmuted
viewers (R145), and no CLOSED stream has a presentation record (R60, R150). -/
def Obligations.StepKeepsTheMachineSound : Prop :=
  (∀ s t : State, s.Sound → step s = .next t → t.Sound) ∧
  ∀ s t : State, s.Admitted → step s = .next t → t.Admitted

/-- Every command goes on to a next state, whatever the state: nothing stops the engine but HALTED, which is a state of it
(R19, R20); that this holds of every command is log 23 (DEDUCED). No command but power-on moves Engine Time, and none touches
the queue of commands: that is the model's choice (log 1), R62 naming RESET, START and STOP only. -/
def Obligations.EveryCommandGoesOn : Prop :=
  ∀ (c : Instr) (s : State), ∃ t, exec c s = .next t ∧ t.pending = s.pending ∧ (c ≠ .powerOn → t.et = s.et)

/-- In HALTED, until RESET or power-on, tables, windows, directory entries and chunk records keep their contents, the
engine stays HALTED, no scan and no scan timer runs, and nothing goes out but the MSI of a lowered NOTICE_LEVEL (R21). -/
def Obligations.HaltedEngineKeepsItsTables : Prop :=
  ∀ (c : Instr) (s t : State), s.Sound → s.halted = true → c ≠ .reset → c ≠ .powerOn → exec c s = .next t →
    s.SameTables t ∧ t.halted = true ∧ t.region.timer = none ∧ t.region.scan = none ∧
      (t.sent = s.sent ∨ ∃ v : Word, c = .noticeLevelWrite v ∧ v.setWidth 3 < s.region.noticeLevel ∧
        t.sent = s.sent ++ [.msi])

/-! ### Registers and resets (R1, R2, R8, R17) -/

/-- After power-on the registers and Engine Time have the values of R1, and every block the values of its own rule: no
stream is open (R38), the layout and clip tables are EMPTY (R22, R35), the frame store is free (R105), the member links
are DOWN with the default settings (R124, R126), and the ports are DOWN with nothing allocated (R144, R145). -/
def Obligations.PowerOnLeavesTheseValues : Prop :=
  ∀ s : State, ∃ t, exec .powerOn s = .next t ∧
    t.region.regionLo = 0 ∧ t.region.regionHi = 0 ∧ t.region.noticeLevel = 7 ∧ t.region.engine = .stopped ∧
    t.region.intake = .taking ∧ t.region.faultLatch = false ∧ t.region.noticesLost = false ∧
    t.region.startFault = 0 ∧ t.et = 0 ∧ t.region.timer = none ∧ t.region.notices = [] ∧
    (∀ n : StreamId, t.region.changeCounts[n] = 0 ∧ t.region.marks[n] = false ∧ (t.stream n).state = .closed ∧
      t.presentation n = none) ∧
    (∀ e : Fin 16, t.decoder.layout[e].state = .empty) ∧
    (∀ c : Fin 256, (t.clip c).defined = false ∧ (t.clip c).generation = 0) ∧
    t.decoder.hold = [] ∧ t.buffer.dir = [] ∧ t.buffer.waiters = [] ∧ t.dispatcher.chunks = [] ∧
    (∀ m : MemberId, (t.member m).link = .down ∧ (t.member m).limit = 16 ∧ (t.member m).reserve = 4 ∧
      (t.member m).timeoutCode = 6 ∧ (t.member m).windowCode = 3 ∧
      ∀ g : Fin 32, (t.member m).tags[g] = .free) ∧
    (∀ p : Port, (t.port p).up = false ∧ (t.port p).allocated = 0 ∧ (t.port p).transmitting = none)

/-- RESET in any engine state (R8): STATUS as after power-on, notices and mirror updates discarded, the tables emptied, the
streams closed and the frame store freed without a notice; REGION_LO, REGION_HI, NOTICE_LEVEL, Engine Time, the copies of
the running counts (R1, R8), the members' capacities and the port links (R143, R158) stay, and every member link is in
TRAINING with the default settings (R143). -/
def Obligations.ResetLeavesTheseValues : Prop :=
  ∀ s : State, ∃ t, exec .reset s = .next t ∧
    t.region.regionLo = s.region.regionLo ∧ t.region.regionHi = s.region.regionHi ∧
    t.region.noticeLevel = s.region.noticeLevel ∧ t.et = s.et ∧ t.region.orderTaken = s.region.orderTaken ∧
    t.region.noticeFill = s.region.noticeFill ∧ t.region.noticeTaken = s.region.noticeTaken ∧
    t.region.engine = .stopped ∧ t.region.intake = .taking ∧ t.region.faultLatch = false ∧
    t.region.noticesLost = false ∧ t.region.startFault = 0 ∧ t.region.timer = none ∧ t.region.scan = none ∧
    t.region.notices = [] ∧ t.region.batch = none ∧
    (∀ n : StreamId, t.region.changeCounts[n] = 0 ∧ t.region.marks[n] = false ∧ (t.stream n).state = .closed ∧
      t.presentation n = none) ∧
    (∀ e : Fin 16, t.decoder.layout[e].state = .empty) ∧
    (∀ c : Fin 256, (t.clip c).defined = false ∧ (t.clip c).generation = 0) ∧
    t.decoder.hold = [] ∧ t.buffer.dir = [] ∧ t.buffer.waiters = [] ∧ t.dispatcher.chunks = [] ∧
    (∀ m : MemberId, (t.member m).link = .training ∧ (t.member m).capacity = (s.member m).capacity ∧
      (t.member m).limit = 16 ∧ (t.member m).reserve = 4 ∧ (t.member m).timeoutCode = 6 ∧
      (t.member m).windowCode = 3 ∧ ∀ g : Fin 32, (t.member m).tags[g] = .free) ∧
    (∀ p : Port, (t.port p).up = (s.port p).up ∧ (t.port p).allocated = 0 ∧ (t.port p).transmitting = none)

/-- The actions of CONTROL that the table of R2 gives no effect in an engine state, and the writes that R1 and R2 give
none, among them a write of CONTROL whose action code is 0 or 8 to 255 (10.2; a named action is a command of its own, log
22): the state stays as it is. CLEAR_FAULT and CLEAR_LOST clear their flag and change nothing else (R2), and
REGION_LO and REGION_HI take what is written to them, in every engine state (R1). A write of NOTICE_LEVEL (R1, R17):
the low three bits are kept, and one MSI is sent exactly when the level is lowered while the fault latch is set. A read
of the register window, which the model has as the function readRegister since the table has no row for it (log 32), gives
IDENT its constant, REGION_LO, REGION_HI and NOTICE_LEVEL what was written to them, CONTROL 0, and STATUS its fields, at the
offsets of 10.2. -/
def Obligations.ControlActionsAndRegisters : Prop :=
  ((∀ (h : HeaderRead) (a b : CountRead) (w : WriteResult) (v : Word) (s : State),
        (s.region.engine ≠ .stopped → exec (.start h a b) s = .next s) ∧
        (s.region.engine ≠ .running → exec .stop s = .next s) ∧
        (s.region.engine = .stopped ∨ s.region.engine = .halted → exec (.scan a b) s = .next s) ∧
        (s.region.engine ≠ .running ∨ s.region.intake = .taking → exec (.resumeIntake w a b) s = .next s) ∧
        (s.region.engine = .halted → exec .clearFault s = .next s ∧ exec .clearLost s = .next s) ∧
        (v.toNat % 256 = 0 ∨ 8 ≤ v.toNat % 256 → exec (.registerWrite .control v) s = .next s) ∧
        exec (.registerWrite .ident v) s = .next s ∧
        exec (.registerWrite .status v) s = .next s) ∧
    (∀ (v : Word) (s : State),
        (s.region.engine ≠ .halted →
          exec .clearFault s = .next { s with region := { s.region with faultLatch := false } } ∧
          exec .clearLost s = .next { s with region := { s.region with noticesLost := false } }) ∧
        exec (.registerWrite .regionLo v) s = .next { s with region := { s.region with regionLo := v } } ∧
        exec (.registerWrite .regionHi v) s = .next { s with region := { s.region with regionHi := v } })) ∧
  (∀ (v : Word) (s : State), ∃ t, exec (.noticeLevelWrite v) s = .next t ∧
      t.region.noticeLevel.toNat = v.toNat % 8 ∧
      t.region = { s.region with noticeLevel := t.region.noticeLevel } ∧
      (s.region.faultLatch = true ∧ v.toNat % 8 < s.region.noticeLevel.toNat → t = { s with region := t.region, sent := s.sent ++ [.msi] }) ∧
      (s.region.faultLatch = false ∨ s.region.noticeLevel.toNat ≤ v.toNat % 8 → t = { s with region := t.region })) ∧
  (∀ r : Region,
      readRegister r 0x00 = some 0x10645A1C ∧ readRegister r 0x04 = some r.regionLo ∧ readRegister r 0x08 = some r.regionHi ∧
        readRegister r 0x0C = some 0 ∧ (∃ w, readRegister r 0x10 = some w ∧ r.ShowsStatus w) ∧
        ∃ w, readRegister r 0x14 = some w ∧ w.toNat = r.noticeLevel.toNat) ∧
  (∀ (v : Word) (s : State),
      (∃ t, exec (.registerWrite .regionLo v) s = .next t ∧ readRegister t.region 0x04 = some v) ∧
        (∃ t, exec (.registerWrite .regionHi v) s = .next t ∧ readRegister t.region 0x08 = some v) ∧
        ∃ t w, exec (.noticeLevelWrite v) s = .next t ∧ readRegister t.region 0x14 = some w ∧ w.toNat = v.toNat % 8)

/-! ### Starting and stopping (R4 to R7) -/

/-- A START taken in STOPPED with the writers at rest, whose base fails check 1 or whose header fails one of checks 3
to 8, leaves the engine STOPPED with the code of the first failing check, the base copied and nothing else changed; so
does a START that waited (R4). A START whose read of the header fails (check 2) gives start fault code 2 and raises no
HACC; with the fault latch clear it sets the latch, and with the latch set it enters HALTED (R4, R19, R20). A START
taken in STOPPED while a writer still writes waits, and a START that waits goes on waiting while one does; a START
that has waited has no effect if the engine is no longer STOPPED (R4). That of several the first counts is the model's
choice (log 12). -/
def Obligations.StartIsRefusedOrWaits : Prop :=
  (∀ (header : HeaderRead) (a b : CountRead) (s : State) (code : Nat), s.region.engine = .stopped →
      s.region.writersBusy = false →
      let base : BitVec 64 := s.region.regionHi ++ s.region.regionLo
      ((code = 1 ∧ base.toNat % 4096 ≠ 0) ∨
        (∃ h, header = .bytes h ∧ base.toNat % 4096 = 0 ∧ 3 ≤ code ∧ code ≤ 8 ∧ ¬ HeaderCheck h code ∧
          ∀ k, k < code → HeaderCheck h k)) →
      let r : Region := { s.region with base := base, startFault := BitVec.ofNat 4 code }
      exec (.start header a b) s = .next { s with region := r } ∧
        (s.region.startWaiting ≠ none →
          exec (.startDeferred header a b) s = .next { s with region := { r with startWaiting := none } })) ∧
  (∀ (a b : CountRead) (s : State), s.region.engine = .stopped → s.region.writersBusy = false →
      (s.region.regionHi ++ s.region.regionLo : BitVec 64).toNat % 4096 = 0 →
      ∃ t, exec (.start .failed a b) s = .next t ∧ t.region.startFault = 2 ∧ t.region.faultLatch = true ∧
        t.region.notices = s.region.notices ∧ t.region.noticesLost = s.region.noticesLost ∧
        t.region.intake = s.region.intake ∧ s.SameTables t ∧
        (s.region.faultLatch = false → t.region.engine = .stopped) ∧
        (s.region.faultLatch = true →
          t.region.engine = .halted ∧ t.region.timer = none ∧ ∀ p : Port, (t.port p).transmitting = none)) ∧
  (∀ (h : HeaderRead) (a b : CountRead) (s : State),
      (s.region.engine = .stopped → s.region.writersBusy = true →
        exec (.start h a b) s =
          .next { s with region := { s.region with startWaiting := some (s.region.startWaiting.getD s.et) } }) ∧
      (s.region.writersBusy = true → exec (.startDeferred h a b) s = .next s) ∧
      (s.region.startWaiting ≠ none → s.region.writersBusy = false → s.region.engine ≠ .stopped →
        exec (.startDeferred h a b) s = .next { s with region := { s.region with startWaiting := none } }))

/-- A START whose header passes every check takes effect (R5), at once or, with the writers at rest, after it waited (R4):
the working copies, the counts and the play page reserve are taken from the header, with the clamps of R4, the engine is
RUNNING with intake OPEN, the mark of every status record is set, which is how the model raises the initial writes
of R5 (log 29, DEDUCED), a scan starts (R10), and the scan timer expires next at the first t + k × P after the present ET, t
being the ET at which the START was taken (R9; that a START that waited makes up for no earlier expiry is log 34, DEDUCED).
A START that still waits is to have no effect any more (R4), so none waits then.
No stream changes. -/
def Obligations.StartRunsTheEngine : Prop :=
  ∀ (h : List Byte) (v f : Word) (s : State) (c : Instr) (since : Time), s.region.engine = .stopped →
    s.region.writersBusy = false → s.region.scan = none →
    (c = .start (.bytes h) (.value v) (.value f) ∧ since = s.et ∨
      c = .startDeferred (.bytes h) (.value v) (.value f) ∧ s.region.startWaiting = some since) →
    (s.region.regionHi ++ s.region.regionLo : BitVec 64).toNat % 4096 = 0 → (∀ k, HeaderCheck h k) →
    let period := 1000 * min (max (u32 h 0x1C) 20) 1000
    let r : Region :=
      { s.region with
        startWaiting := none, startFault := 0, base := s.region.regionHi ++ s.region.regionLo, engine := .running, intake := .taking
        work := ⟨u32 h 0x08, u32 h 0x0C, u32 h 0x10, u32 h 0x14, u32 h 0x18, period⟩
        orderTaken := w32 h 0x44, noticeFill := w32 h 0x48, marks := Vector.replicate 64 true }
    r.Usable v → r.CountOk f →
    ∃ (t : State) (k : Nat), exec c s = .next t ∧ 1 ≤ k ∧ (k - 1) * period ≤ (s.et - since).toNat ∧
      (s.et - since).toNat < k * period ∧
      Calm (fun _ => False)
        { s with
          region := { r.scanned v f with timer := some (since + BitVec.ofNat 64 (k * period)) }
          buffer := { s.buffer with reserve := min (u32 h 0x20) 16384 } } t

/-- STOP in RUNNING (R6, R60, R61, R123, R22): the engine is STOPPING with no scan in progress (that the scan ends is log
13, DEDUCED) and intake as it was, every
stream is CLOSED with its mark set if it was open, no presentation is left and neither port sends, the hold is empty, and
no READ goes out. The engine leaves STOPPING for STOPPED once no tag of any member is ISSUED, ABANDONED tags apart: STPD
is raised, the scan timer stops, and what has been raised until then is left to the writers. While a tag is ISSUED it does
not (R7). That the engine is left STOPPING by STOP itself, and leaves it by a step of its own, is log 10 (DEDUCED); R7 tests
for the tags when STOP is taken too. -/
def Obligations.StopClosesEveryStream : Prop :=
  (∀ s : State, s.region.engine = .running →
      ∃ t, exec .stop s = .next t ∧
        Mild (fun n => (s.stream n).state ≠ .closed)
          { s with region := { s.region with engine := .stopping, scan := none } } t ∧
        (∀ n : StreamId, (t.stream n).state = .closed ∧ t.presentation n = none ∧
          ((s.stream n).state ≠ .closed →
            (t.stream n).window = [] ∧ (t.stream n).cues = [] ∧ t.region.marks[n] = true)) ∧
        (∀ p : Port, (t.port p).transmitting = none) ∧ t.decoder.hold = [] ∧
        (∀ (m : MemberId) (b : List Byte), .memberMessage m b ∈ t.sent → .memberMessage m b ∈ s.sent)) ∧
  (∀ s : State, s.region.engine = .stopping → s.region.notices.length < Config.heldNotices →
      ((∀ (m : MemberId) (g : Fin 32), (s.member m).tags[g] = .free ∨ (s.member m).tags[g] = .abandoned) →
        exec .stopComplete s =
          .next
            { s with
              region :=
                { s.region with
                  engine := .stopped, timer := none, scan := none, scanWanted := false
                  notices := s.region.notices ++ [⟨.stpd, s.et⟩], stopNotices := s.region.notices.length + 1
                  stopMarks := s.region.marks } }) ∧
      (∀ (m : MemberId) (g : Fin 32) (d o : Nat) (e : Option Time) (l : List Nat),
        (s.member m).tags[g] = .issued d o e l → exec .stopComplete s = .next s))

/-! ### Scans and intake (R9, R10, R11, R14) -/

/-- A SCAN, an expiry of the scan timer that Engine Time has reached, and a further scan that was wanted each start a
scan in RUNNING or STOPPING when none is in progress (R9): notice taken is taken into use, and in RUNNING with intake
OPEN the scan is in progress unless order taken stands at the order fill value read (R10). An expiry moves the timer
by the scan period (R9). A SCAN or an expiry that finds a scan in progress asks for one further scan and does nothing
else (R9), and a further scan waits for the end of the scan in progress. RESUME_INTAKE in RUNNING while intake is
BLOCKED writes order taken to the header, sets intake OPEN and starts a scan (R14). -/
def Obligations.ScansStartOrAreNoted : Prop :=
  ((∀ (v f : Word) (s : State), (s.region.engine = .running ∨ s.region.engine = .stopping) → s.region.scan = none →
        s.region.Usable v → s.region.CountOk f →
        exec (.scan (.value v) (.value f)) s = .next { s with region := s.region.scanned v f } ∧
        (∀ e : Time, s.region.timer = some e → e.toNat ≤ s.et.toNat →
          exec (.scanTimerExpiry (.value v) (.value f)) s =
            .next
              { s with
                region :=
                  ({ s.region with timer := some (e + BitVec.ofNat 64 s.region.work.periodNs) } : Region).scanned v f }) ∧
        (s.region.scanWanted = true →
          exec (.furtherScan (.value v) (.value f)) s =
            .next { s with region := ({ s.region with scanWanted := false } : Region).scanned v f })) ∧
    (∀ (a b : CountRead) (s : State) (g : Word), (s.region.engine = .running ∨ s.region.engine = .stopping) →
        s.region.scan = some g →
        exec (.scan a b) s = .next { s with region := { s.region with scanWanted := true } } ∧
        (∀ e : Time, s.region.timer = some e → e.toNat ≤ s.et.toNat →
          exec (.scanTimerExpiry a b) s =
            .next
              { s with
                region :=
                  { s.region with
                    timer := some (e + BitVec.ofNat 64 s.region.work.periodNs), scanWanted := true } }) ∧
        exec (.furtherScan a b) s = .next s)) ∧
  (∀ (v f : Word) (s : State), s.region.engine = .running → s.region.intake = .blocked → s.region.scan = none →
      s.region.Usable v → s.region.CountOk f →
      exec (.resumeIntake .ok (.value v) (.value f)) s =
        .next
          { s with
            region := ({ s.region with intake := .taking } : Region).scanned v f
            sent := s.sent ++ [.hostWrite (s.region.base + 0x44) (le 4 s.region.orderTaken.toNat)] })

/-- An order fill value that is no multiple of 8, or too far from order taken, is a structural fault at the position
of order taken (R10, R11): intake is BLOCKED, no scan is in progress and RGNF is raised. The kinds 5 and 4 are those
of 10.5; that kind 5 is named where both hold, and the first of 1, 2 and 3 below, is the model's choice (log 37). A record whose body length is no multiple of 8 or above 2,048, that passes the end of the log, or that passes
the order fill value of the scan is a structural fault (R11), of the first of the kinds 1, 2 and 3 of 10.5 that holds:
intake is BLOCKED, order taken stays, the scan ends and RGNF names the position of the record. -/
def Obligations.StructuralFaultsBlockIntake : Prop :=
  (∀ (v f : Word) (s : State), s.region.engine = .running → s.region.intake = .taking → s.region.scan = none →
      s.region.Usable v → ¬ s.region.CountOk f →
      exec (.scan (.value v) (.value f)) s =
        .next
          (({ s with region := { s.region with noticeTaken := v, intake := .blocked } } : State).raise
            (.rgnf (if f.toNat % 8 = 0 then 4 else 5) (s.region.orderTaken.toNat % s.region.work.orderSize)))) ∧
  (∀ (c : Instr) (tag f : Word) (r : Record) (s : State) (kind : Nat), orderOf c = some (tag, r) →
      s.region.engine = .running → s.region.intake = .taking → s.region.scan = some f → f ≠ s.region.orderTaken →
      let position := s.region.orderTaken.toNat % s.region.work.orderSize
      let lengthOk := r.len.toNat % 8 = 0 ∧ r.len.toNat ≤ 2048
      let inLog := position + 8 + r.len.toNat ≤ s.region.work.orderSize
      let inScan := 8 + r.len.toNat ≤ (f - s.region.orderTaken).toNat
      (kind = 1 ∧ ¬ lengthOk ∨ kind = 2 ∧ lengthOk ∧ ¬ inLog ∨ kind = 3 ∧ lengthOk ∧ inLog ∧ ¬ inScan) →
      exec c s =
        .next
          (({ s with region := { s.region with intake := .blocked, scan := none } } : State).raise (.rgnf kind position)))

/-! ### Host-access faults (R19, R20) -/

/-- A host-access that fails while the latch is clear sets the latch, raises HACC with the kind of access and the
offset at which it was aimed (a record is read where order taken stands), and its purpose is given up (R19): a failed read
of order fill or of a record and a failed write of order taken block intake and end the scan, a failed read of notice taken
changes nothing else, a failed write of a notice or of notice fill loses the batch, and a failed write of a status record
loses that update: its mark is cleared, none of the remaining writes is made, and c + 2 is taken as the change count (R18).
A host-access that fails while the latch is set takes the engine to HALTED without a notice: no scan and no scan timer runs,
both ports stop sending at once, and every table stays (R20, R21). That a failed write of order taken ends the scan is log
13, that the second fault blocks no intake and ends no batch is log 25 (both DEDUCED), and which batch, which record and
which of its writes a report is of is log 43, the model's choice (DESIGN CHOICE). -/
def Obligations.HostAccessFaults : Prop :=
  ∀ (a : Access) (o : Word) (s : State), s.region.accesses = true →
    let served : Vector Bool 64 := if s.region.engine = .stopped then s.region.stopMarks else s.region.marks
    let lost : Nat :=
      if a ≠ .noticeWrite ∨ s.region.batch ≠ none then 0
      else if s.region.engine = .stopped then min s.region.stopNotices s.region.notices.length
      else s.region.notices.length
    let r : Region :=
      { s.region with notices := s.region.notices.drop lost, stopNotices := s.region.stopNotices - lost }
    ((a ≠ .statusWrite ∨ ∀ k : StreamId, served[k] = false) →
      (s.region.faultLatch = false → s.region.notices.length < Config.heldNotices →
        let offset : Word :=
          match a with
          | .orderFillRead => 0x40
          | .orderRecordRead =>
            BitVec.ofNat 32 (s.region.work.orderOffset + s.region.orderTaken.toNat % s.region.work.orderSize)
          | .orderTakenWrite => 0x44
          | .noticeFillWrite => 0x48
          | .noticeTakenRead => 0x4C
          | .noticeWrite => o
          | .statusWrite => o
        let q : Region := { r with faultLatch := true, notices := r.notices ++ [⟨.hacc a offset, s.et⟩] }
        exec (.hostAccessFault a o) s =
          .next
            { s with
              region :=
                if a = .orderFillRead ∨ a = .orderRecordRead ∨ a = .orderTakenWrite then
                  { q with intake := .blocked, scan := none }
                else if a = .noticeWrite ∨ a = .noticeFillWrite then { q with batch := none }
                else q }) ∧
      (s.region.faultLatch = true →
        ∃ t, exec (.hostAccessFault a o) s = .next t ∧
          t.region = { r with engine := .halted, timer := none, scan := none } ∧ s.SameTables t ∧
          ∀ p : Port, (t.port p).transmitting = none ∧ (t.port p).up = (s.port p).up ∧
            (t.port p).allocated = (s.port p).allocated)) ∧
    (∀ n : StreamId, a = .statusWrite → served[n] = true → (∀ k : StreamId, k < n → served[k] = false) →
      let c := s.region.changeCounts[n]
      let base := s.region.work.mirrorOffset + 64 * n.val
      let q : Region :=
        { s.region with
          marks := s.region.marks.set n false, stopMarks := s.region.stopMarks.set n false
          changeCounts := s.region.changeCounts.set n (c + 2) }
      (s.region.faultLatch = false → s.region.notices.length < Config.heldNotices →
        exec (.hostAccessFault a o) s =
          .next
            { s with
              region :=
                { q with
                  faultLatch := true
                  notices :=
                    s.region.notices ++
                      [⟨.hacc .statusWrite (BitVec.ofNat 32 (if o.toNat = base + 4 then base + 4 else base)), s.et⟩] }
              sent := s.sent ++ if o.toNat = base + 4 then [q.writeAt base (le 4 (c + 1).toNat)] else [] }) ∧
      (s.region.faultLatch = true →
        ∃ t, exec (.hostAccessFault a o) s = .next t ∧
          t.region = { q with engine := .halted, timer := none, scan := none } ∧ s.SameTables t ∧
          ∀ p : Port, (t.port p).transmitting = none ∧ (t.port p).up = (s.port p).up ∧
            (t.port p).allocated = (s.port p).allocated))

/-! ### The writers (R15 to R18) -/

/-- When the room suffices for every held notice with its PADs, a batch writes them all, oldest first, each at the
write position modulo the log size, and leaves notice fill to the advance; a further batch waits for that advance
(R15, R16, R17). A notice for which the room is short makes the writer read notice taken again: a usable value that
brings the room is taken into use and the notice is written, and otherwise the notice is discarded and the
notices-lost flag set (R16). A write of a notice that fails loses the notices of the batch (R17) and is a fault (R19,
R20): with the latch clear, the latch is set and HACC raised with the offset at which the failed write was aimed; with the latch
set, the engine enters HALTED. A notice after a PAD is aimed at the start of the log (R16); that a failed write of its PAD is
a fault of the same kind is log 35 (DEDUCED). The bytes of every kind of notice are those of 10.5, with the levels of 1.6 and
the codes of 10.1; byte 2 of FTCH is free (log 41). -/
def Obligations.NoticeBatches : Prop :=
  (∀ (reads : List CountRead) (failAt : Option Nat) (s : State),
      (s.region.engine = .running ∨ s.region.engine = .stopping) →
      (∀ b, s.region.batch = some b → exec (.noticeBatchWrite reads failAt) s = .next s) ∧
      (s.region.batch = none → s.region.notices ≠ [] → s.region.work.noticeSize < 4294967296 →
        (s.region.noticeFill - s.region.noticeTaken).toNat + s.region.spans s.region.noticeFill s.region.notices
          ≤ s.region.work.noticeSize →
        exec (.noticeBatchWrite reads none) s =
          .next
            { s with
              region :=
                { s.region with
                  notices := [], stopNotices := s.region.stopNotices - s.region.notices.length
                  batch :=
                    some ⟨s.region.notices.map fun n => n.body.level, s.region.spans s.region.noticeFill s.region.notices⟩ }
              sent := s.sent ++ s.region.batchWrites s.region.noticeFill s.region.notices })) ∧
  ((∀ (n : Notice) (v : Word) (reads : List CountRead) (s : State),
        (s.region.engine = .running ∨ s.region.engine = .stopping) → s.region.batch = none → s.region.notices = [n] →
        s.region.work.noticeSize < 4294967296 →
        s.region.work.noticeSize <
          (s.region.noticeFill - s.region.noticeTaken).toNat + s.region.span s.region.noticeFill n.size →
        (s.region.Usable v →
          (s.region.noticeFill - v).toNat + s.region.span s.region.noticeFill n.size ≤ s.region.work.noticeSize →
          exec (.noticeBatchWrite (.value v :: reads) none) s =
            .next
              { s with
                region :=
                  { s.region with
                    noticeTaken := v, notices := [], stopNotices := s.region.stopNotices - 1
                    batch := some ⟨[n.body.level], s.region.span s.region.noticeFill n.size⟩ }
                sent := s.sent ++ s.region.noticeWrites s.region.noticeFill n }) ∧
        (¬ s.region.Usable v →
          exec (.noticeBatchWrite (.value v :: reads) none) s =
            .next
              { s with
                region :=
                  { s.region with notices := [], stopNotices := s.region.stopNotices - 1, noticesLost := true } }) ∧
        (s.region.Usable v →
          s.region.work.noticeSize < (s.region.noticeFill - v).toNat + s.region.span s.region.noticeFill n.size →
          exec (.noticeBatchWrite (.value v :: reads) none) s =
            .next
              { s with
                region :=
                  { s.region with
                    noticeTaken := v, notices := [], stopNotices := s.region.stopNotices - 1, noticesLost := true } })) ∧
    (∀ (n : Notice) (rest : List Notice) (reads : List CountRead) (s : State),
        (s.region.engine = .running ∨ s.region.engine = .stopping) → s.region.batch = none → s.region.notices = n :: rest →
        (s.region.noticeFill - s.region.noticeTaken).toNat + s.region.span s.region.noticeFill n.size
          ≤ s.region.work.noticeSize →
        ∃ t, exec (.noticeBatchWrite reads (some 0)) s = .next t ∧ t.region.noticeFill = s.region.noticeFill ∧
          t.region.batch = none ∧ s.SameTables t ∧
          (s.region.faultLatch = false →
            t.region.faultLatch = true ∧ t.region.engine = s.region.engine ∧ t.sent = s.sent ∧
              t.region.notices =
                [⟨.hacc .noticeWrite
                    (BitVec.ofNat 32
                      (s.region.work.noticeOffset + s.region.noticeFill.toNat % s.region.work.noticeSize)), s.et⟩]) ∧
          (s.region.faultLatch = true → t.region.engine = .halted ∧ t.region.notices = []) ∧
          (s.region.work.noticeSize - s.region.noticeFill.toNat % s.region.work.noticeSize < n.size →
            ∃ u, exec (.noticeBatchWrite reads (some 1)) s = .next u ∧ u.region.noticeFill = s.region.noticeFill ∧
              u.region.batch = none ∧ s.SameTables u ∧
              (s.region.faultLatch = false →
                u.region.faultLatch = true ∧ u.region.engine = s.region.engine ∧
                  u.sent = s.sent ++ (s.region.noticeWrites s.region.noticeFill n).take 1 ∧
                  u.region.notices =
                    [⟨.hacc .noticeWrite (BitVec.ofNat 32 s.region.work.noticeOffset), s.et⟩]) ∧
              (s.region.faultLatch = true → u.region.engine = .halted ∧ u.region.notices = [])))) ∧
  CodesOk ∧ ∀ n : Notice, n.LaidOut

/-- Notice fill is advanced over the batch that has been written, and written to the header; one MSI follows exactly when
the notices covered include one of a level greater than NOTICE_LEVEL, or of level 7 (R17). A fill write that fails leaves
notice fill unchanged and loses the batch (R17, R19). -/
def Obligations.NoticeFillAdvances : Prop :=
  ∀ (b : Batch) (s : State), s.region.engine ≠ .halted → s.region.batch = some b →
    let v := s.region.noticeFill + BitVec.ofNat 32 b.bytes
    (∃ t, exec (.noticeFillAdvance .ok) s = .next t ∧
      t.region = { s.region with noticeFill := v, batch := none } ∧ s.SameTables t ∧
      ((∃ l ∈ b.levels, s.region.noticeLevel.toNat < l ∨ l = 7) →
        t.sent = s.sent ++ [s.region.writeAt 0x48 (le 4 v.toNat), .msi]) ∧
      ((∀ l ∈ b.levels, l ≤ s.region.noticeLevel.toNat ∧ l ≠ 7) →
        t.sent = s.sent ++ [s.region.writeAt 0x48 (le 4 v.toNat)])) ∧
    (s.region.faultLatch = false → s.region.notices.length < Config.heldNotices →
      exec (.noticeFillAdvance .failed) s =
        .next
          { s with
            region :=
              { s.region with
                batch := none, faultLatch := true
                notices := s.region.notices ++ [⟨.hacc .noticeFillWrite 0x48, s.et⟩] } })

/-- The mirror writer serves the lowest-numbered marked stream: it clears the mark, writes the change count c + 1, the rest
of the record from the stream as it stands, and c + 2, and takes c + 2 as its count (R18). In STOPPED it serves the marks
set before the engine entered it. The bytes of the record are those of 10.6, with the fields of R41. -/
def Obligations.MirrorWriterServesTheLowestMark : Prop :=
  (∀ (x : Stream) (c : Word), x.LaidOut c) ∧
  ∀ (n : StreamId) (s : State),
    let served : Vector Bool 64 := if s.region.engine = .stopped then s.region.stopMarks else s.region.marks
    s.region.engine ≠ .halted → served[n] = true → (∀ k : StreamId, k < n → served[k] = false) →
    let c := s.region.changeCounts[n]
    let base := s.region.work.mirrorOffset + 64 * n.val
    let r : Region :=
      { s.region with
        marks := s.region.marks.set n false, stopMarks := s.region.stopMarks.set n false
        changeCounts := s.region.changeCounts.set n (c + 2) }
    let w : List Output :=
      [r.writeAt base (le 4 (c + 1).toNat), r.writeAt (base + 4) (s.stream n).statusBytes,
        r.writeAt base (le 4 (c + 2).toNat)]
    exec (.mirrorRecordWrite none) s = .next { s with region := r, sent := s.sent ++ w } ∧
    (∀ k : Fin 3, s.region.faultLatch = false → s.region.notices.length < Config.heldNotices →
      exec (.mirrorRecordWrite (some k)) s =
        .next
          { s with
            region :=
              { r with
                faultLatch := true
                notices :=
                  s.region.notices ++
                    [⟨.hacc .statusWrite (BitVec.ofNat 32 (if k = 1 then base + 4 else base)), s.et⟩] }
            sent := s.sent ++ w.take k })

/-! ### Records of the order log (R12, R13) -/

/-- A PAD is taken without an answer, whatever its body holds (R12). A record whose tag is none of the orders' and not
PAD is skipped and answered UNKNOWN_TAG, and a known order whose body is shorter than its layout requires is skipped
and answered BAD_LENGTH (R12, 10.4): nothing but the answer comes of it. -/
def Obligations.PadAndUndecodableRecords : Prop :=
  (∀ (r : Record) (s : State), s.Readable r → exec (.pad r) s = .next (s.afterRecord r)) ∧
  (∀ (c : Instr) (tag : Word) (r : Record) (s : State), s.Takes c tag r →
      (tag ∉ [tagLAYD, tagCLIP, tagMEMB, tagMRST, tagOPEN, tagCUES, tagXPRT, tagMARK, tagSHAR, tagSHUT, tagPAD] →
        exec c s = .next (s.answered tag r .unknownTag 0)) ∧
      ((tag = tagLAYD ∧ r.body.length < 56 ∨ tag = tagCLIP ∧ r.body.length < 48 ∨ tag = tagMEMB ∧ r.body.length < 16 ∨
          tag = tagMRST ∧ r.body.length < 8 ∨ tag = tagSHUT ∧ r.body.length < 8 ∨
          tag = tagOPEN ∧ r.body.length < 56 + 16 * u8 r.body 45 ∨ tag = tagCUES ∧ r.body.length < 16 + 16 * u8 r.body 7 ∨
          tag = tagXPRT ∧ r.body.length < 40 ∨ tag = tagMARK ∧ r.body.length < 24 ∨ tag = tagSHAR ∧ r.body.length < 24) →
        exec c s = .next (s.answered tag r .badLength 0)))

/-! ### Layout and clip orders (R27 to R37) -/

/-- A LAYD body is read as R27 and 10.4 say: with a member count of 1 to 8 it asks for a definition exactly when every
check of R27 passes, and the definition has the fields of the body. A CLIP body with a frame blocks value above 0 is
read as R36 and 10.4 say, and is refused exactly when a check of R36 fails. -/
def Obligations.LaydAndClipBodiesAreRead : Prop :=
  (∀ b : List Byte, 56 ≤ b.length →
      let w := u8 b 5
      let list (i : Nat) := (List.range w).map fun k => u8 b (i + k)
      let stripes := (u64 b 24 - u64 b 16) / u16 b 8 + 1
      let rows := (stripes + w - 1) / w
      let checks :=
        1 ≤ w ∧ w ≤ 8 ∧ u8 b 6 ≤ 1 ∧ u8 b 7 ≤ 1 ∧ (u16 b 8 = 16 ∨ u16 b 8 = 32 ∨ u16 b 8 = 64 ∨ u16 b 8 = 128 ∨ u16 b 8 = 256) ∧
          u64 b 16 ≤ u64 b 24 ∧ u64 b 24 < 2 ^ 48 ∧ (∀ x ∈ list 40, x ≤ 7) ∧ (list 40).Nodup ∧
          (u8 b 7 = 1 → ∀ k, k < w → u8 b (48 + k) ≤ 7 ∧ u8 b (48 + k) ≠ u8 b (40 + k)) ∧
          u64 b 32 < 2 ^ 48 ∧ u64 b 32 + rows * u16 b 8 - 1 < 2 ^ 48
      ((layoutDef b).isSome = true ↔ checks) ∧
      ∀ d, layoutDef b = some d →
        d.first = u64 b 16 ∧ d.last = u64 b 24 ∧ d.chunk = u16 b 8 ∧ d.base = u64 b 32 ∧
          d.members.map Fin.val = list 40 ∧
          d.alternates.map (List.map Fin.val) = (if u8 b 7 = 1 then some (list 48) else none) ∧
          d.interleave = if u8 b 6 = 0 then .rotate else .skew) ∧
  (∀ (b : List Byte) (g : Word), 48 ≤ b.length →
      let checks :=
        1 ≤ u32 b 24 ∧ u32 b 24 ≤ 16384 ∧ (u32 b 24 - 1) * 4096 + 1 ≤ u32 b 28 ∧ u32 b 28 ≤ u32 b 24 * 4096 ∧
          1 ≤ u32 b 32 ∧ u32 b 32 ≤ 16777216 ∧ 1 ≤ u32 b 36 ∧ u32 b 36 ≤ 480000 ∧ 1 ≤ u32 b 40 ∧ u32 b 40 ≤ 2002 ∧
          u32 b 40 ≤ u32 b 36 ∧ u32 b 36 ≤ 240 * u32 b 40 ∧ u64 b 8 < 2 ^ 48 ∧
          u64 b 8 + u64 b 16 + u32 b 32 * u32 b 24 - 1 < 2 ^ 48
      (checks →
        clipDef b g =
          some
            { defined := true, generation := g, first := u64 b 8, head := u64 b 16, blocks := u32 b 24, bytes := u32 b 28,
              frames := u32 b 32, rateN := u32 b 36, rateD := u32 b 40 }) ∧
      (¬ checks → clipDef b g = none))

/-- A LAYD that passes its checks (R28 to R31, R33): with the entry EMPTY, or ACTIVE with nothing in flight, it takes
effect at once, LAYC following its ANSW; with reads in flight the entry is RETIRING, and the answer gives their number; a
RETIRING entry takes the new pending operation, and the old one's LAYC says SUPERSEDED. -/
def Obligations.LaydChangesItsEntry : Prop :=
  ∀ (c : Instr) (r : Record) (s : State) (e : Fin 16) (op : PendingOp), s.Takes c tagLAYD r → 56 ≤ r.body.length →
    u8 r.body 4 = e.val →
    (op = .delete ∧ u8 r.body 5 = 0 ∨
      ∃ d, op = .define d ∧ u8 r.body 5 ≠ 0 ∧ layoutDef r.body = some d ∧
        ∀ i : Fin 16, i ≠ e → ∀ x ∈ s.decoder.layout[i].takenRanges, x.last < d.first ∨ d.last < x.first) →
    let ref := reference r.body
    let y := s.decoder.layout[e]
    let deleted := op.isDelete
    let became : LayoutState := match op with | .define d => .active d | .delete => .empty
    ((y.state = .empty ∧ deleted = false ∨ ∃ d, y.state = .active d ∧ y.inFlight = 0) →
      ∃ t, exec c s = .next t ∧
        Calm (fun n => (s.stream n).Waits)
          (((s.answered tagLAYD r .ok 0).setLayout e ⟨became, 0⟩).raise (.layc ref e .ok deleted)) t) ∧
    (∀ d, y.state = .active d → y.inFlight ≠ 0 →
      exec c s =
        .next
          ((s.answered tagLAYD r .ok y.inFlight).setLayout e { y with state := .retiring d ⟨ref, op⟩ })) ∧
    (∀ d p, y.state = .retiring d p →
      exec c s =
        .next
          (((s.answered tagLAYD r .ok y.inFlight).setLayout e { y with state := .retiring d ⟨ref, op⟩ }).raise
            (.layc p.ref e .superseded p.op.isDelete)))

/-- A LAYD is refused BAD_FIELD for an entry above 15 or a field that R27 refuses, OVERLAP for a range that another
entry has or is to have (R28), and NO_SUCH for the deletion of an EMPTY entry (R29); nothing changes but the answer. A
CLIP is refused BAD_FIELD for a clip above 255 or a field that R36 refuses, NO_SUCH for the deletion of an EMPTY clip,
and IN_USE when an open stream's cue list names the clip (R37); nothing changes but the answer. -/
def Obligations.LaydAndClipRefusals : Prop :=
  (∀ (c : Instr) (r : Record) (s : State), s.Takes c tagLAYD r → 56 ≤ r.body.length →
      (16 ≤ u8 r.body 4 → exec c s = .next (s.answered tagLAYD r .badField 0)) ∧
      (u8 r.body 5 ≠ 0 → layoutDef r.body = none → exec c s = .next (s.answered tagLAYD r .badField 0)) ∧
      (∀ (e i : Fin 16) (d : LayoutDef), u8 r.body 4 = e.val → u8 r.body 5 ≠ 0 → layoutDef r.body = some d → i ≠ e →
        (∃ x ∈ s.decoder.layout[i].takenRanges, d.first ≤ x.last ∧ x.first ≤ d.last) →
        exec c s = .next (s.answered tagLAYD r .overlap 0)) ∧
      (∀ e : Fin 16, u8 r.body 4 = e.val → u8 r.body 5 = 0 → s.decoder.layout[e].state = .empty →
        exec c s = .next (s.answered tagLAYD r .noSuch 0))) ∧
  (∀ (c : Instr) (r : Record) (s : State), s.Takes c tagCLIP r → 48 ≤ r.body.length →
      (256 ≤ u16 r.body 4 → exec c s = .next (s.answered tagCLIP r .badField 0)) ∧
      (u32 r.body 24 ≠ 0 → (∀ g, clipDef r.body g = none) → exec c s = .next (s.answered tagCLIP r .badField 0)) ∧
      (∀ k : Fin 256, u16 r.body 4 = k.val →
        (u32 r.body 24 = 0 → (s.clip k).defined = false → exec c s = .next (s.answered tagCLIP r .noSuch 0)) ∧
        (∀ (n : StreamId) (q : Cue), (s.stream n).state ≠ .closed → q ∈ (s.stream n).cues → q.gap = false →
          q.clip = k.val → (u32 r.body 24 ≠ 0 ∧ (∀ g, clipDef r.body g ≠ none) ∨ u32 r.body 24 = 0 ∧ (s.clip k).defined = true) →
          exec c s = .next (s.answered tagCLIP r .inUse 0))))

/-- LAYC (R33): a RETIRING entry whose in-flight count is 0 becomes ACTIVE with its pending definition, or EMPTY, and LAYC
is raised with the reference of the order that made it pending; with reads in flight, or in another state, nothing
happens. That it is a step of its own after the count falls to 0 is the model's choice (log 10). The hold is replanned (R34):
a held frame that is planned HELD again keeps its place, but one that this entry held, now held by another, rejoins at the
tail, and every other frame leaves. That a frame on several RETIRING entries is held by that of its first block in such an
entry's range is log 38 (DEDUCED). -/
def Obligations.RetiringEntryCompletes : Prop :=
  (∀ (dec : Decoder) (key : FrameKey) (e : Fin 16),
      let c := dec.clips[key.clip]
      let on (e : Fin 16) (i : Nat) : Prop :=
        let a := c.first + c.head + key.frame * c.blocks + i
        ∃ d p, dec.layout[e].state = .retiring d p ∧
          (d.first ≤ a ∧ a ≤ d.last ∨ ∃ d', p.op = .define d' ∧ d'.first ≤ a ∧ a ≤ d'.last)
      dec.holder key = some e → ∃ i, i < c.blocks ∧ on e i ∧ ∀ j k, j < i → ¬ on k j) ∧
  (∀ (e : Fin 16) (d : LayoutDef) (p : Pending) (s : State), s.region.engine ≠ .halted →
      s.decoder.layout[e].state = .retiring d p → s.decoder.layout[e].inFlight = 0 → s.decoder.hold.Nodup →
      (∀ i ∈ s.decoder.hold, ∃ y, s.HasEntry y ∧ y.id = i) →
      let w : State := s.setLayout e ⟨match p.op with | .define d' => .active d' | .delete => .empty, 0⟩
      let held (i : Nat) : Bool := match s.dirEntry i with | some y => w.decoder.plan y.key == .held | none => false
      let gone (i : Nat) : Bool := match s.dirEntry i with | some y => s.decoder.holder y.key == some e | none => false
      ∃ u : State, exec (.layc e) s = .next u.wakeAll ∧
        u.decoder.hold =
          (s.decoder.hold.filter fun i => held i && !gone i) ++ s.decoder.hold.filter fun i => held i && gone i) ∧
  ∀ (e : Fin 16) (s : State), s.region.engine ≠ .halted →
    (∀ d p, s.decoder.layout[e].state = .retiring d p → s.decoder.layout[e].inFlight = 0 →
      ∃ t, exec (.layc e) s = .next t ∧
        Calm (fun n => (s.stream n).Waits)
          ((s.setLayout e ⟨match p.op with | .define d' => .active d' | .delete => .empty, 0⟩).raise
            (.layc p.ref e .ok p.op.isDelete)) t) ∧
    ((s.decoder.layout[e].inFlight ≠ 0 ∨ ∀ d p, s.decoder.layout[e].state ≠ .retiring d p) →
      exec (.layc e) s = .next s)

/-- An accepted CLIP (R36, R37, R122): the clip is defined as the body says, or EMPTY again, its generation has risen by
one, which the answer gives, and every directory entry that holds it is stale. No stream changes. That an EMPTY clip's other
fields are 0 again is the model's choice (log 6, DESIGN CHOICE). -/
def Obligations.ClipChangesItsRecord : Prop :=
  ∀ (c : Instr) (r : Record) (s : State) (k : Fin 256) (x : Clip), s.Takes c tagCLIP r → 48 ≤ r.body.length →
    u16 r.body 4 = k.val →
    (∀ n : StreamId, (s.stream n).state ≠ .closed →
      ∀ q ∈ (s.stream n).cues, q.gap = true ∨ q.clip ≠ k.val) →
    let generation := (s.clip k).generation + 1
    (u32 r.body 24 ≠ 0 ∧ clipDef r.body generation = some x ∨
      u32 r.body 24 = 0 ∧ (s.clip k).defined = true ∧ x = { Clip.reset with generation := generation }) →
    ∃ t, exec c s = .next t ∧ Calm (fun _ => False) ((s.answered tagCLIP r .ok generation.toNat).setClip k x) t ∧
      t.streams = s.streams ∧ ∀ d ∈ t.buffer.dir, d.key.clip = k → d.stale = true

/-! ### Member orders (R126, R127) -/

/-- MEMB (R126): a member above 7 or a setting out of its range is refused BAD_FIELD; any other is answered with the
member's outstanding count, and replaces the four settings of that member and of no other. MRST (R127, R125): a member
above 7 is refused BAD_FIELD; a DOWN link enters TRAINING, a TRAINING link stays so, and an UP or STALLED link is
dropped, with MDWN of cause RESET and the outstanding count before, every tag FREE, and then enters TRAINING, its
capacity kept. -/
def Obligations.MembAndMrst : Prop :=
  (∀ (c : Instr) (r : Record) (s : State), s.Takes c tagMEMB r → 16 ≤ r.body.length →
      let b := r.body
      let inRange :=
        u8 b 4 ≤ 7 ∧ 1 ≤ u8 b 5 ∧ u8 b 5 ≤ 32 ∧ u8 b 6 < u8 b 5 ∧ u8 b 7 ≤ 10 ∧ u8 b 8 ≤ 7
      (¬ inRange → exec c s = .next (s.answered tagMEMB r .badField 0)) ∧
      (∀ m : MemberId, u8 b 4 = m.val → inRange →
        ∃ t, exec c s = .next t ∧
          Mild (fun n => (s.stream n).Waits)
            ((s.answered tagMEMB r .ok (s.member m).outstanding).setMember m
              { s.member m with limit := u8 b 5, reserve := u8 b 6, timeoutCode := u8 b 7, windowCode := u8 b 8 }) t)) ∧
  (∀ (c : Instr) (r : Record) (s : State), s.Takes c tagMRST r → 8 ≤ r.body.length →
      (8 ≤ u8 r.body 4 → exec c s = .next (s.answered tagMRST r .badField 0)) ∧
      (∀ m : MemberId, u8 r.body 4 = m.val →
        ((s.member m).link = .training → exec c s = .next (s.answered tagMRST r .ok 0)) ∧
        ((s.member m).link = .down →
          exec c s = .next ((s.answered tagMRST r .ok 0).setMember m { s.member m with link := .training })) ∧
        ((s.member m).link = .up ∨ (s.member m).link = .stalled →
          ∃ t, exec c s = .next t ∧ Mild (fun n => (s.stream n).Waits) (s.answered tagMRST r .ok 0) t ∧
            (t.member m).link = .training ∧ (t.member m).capacity = (s.member m).capacity ∧
            (∀ g : Fin 32, (t.member m).tags[g] = .free) ∧ t.Notified (.mdwn m .reset (s.member m).outstanding) s.et)))

/-! ### Opening and closing streams (R42 to R44, R60, R79) -/

/-- The checks of R79 on one cue after the cues before it in the resulting list: it is accepted exactly when they all
pass, and otherwise refused with the code of the first that fails. A list of cues is checked cue by cue from the first
(R42, R80): the first that fails refuses it with its code and its index among the order's own cues, and otherwise the
resulting list is the cues before and the new ones, every counter loaded with its count (R78). An accepted list
of cues after a list without crossing loops has none either: any two loops are nested or apart. -/
def Obligations.CueListsAreChecked : Prop :=
  (∀ (dec : Decoder) (before : List Cue) (c : RawCue),
      let i := before.length
      let one := c.kind ≤ 1 ∧ c.direction ≤ 1 ∧ 1 ≤ c.length
      let two := c.loopFlag ≤ 1 ∧ (c.loopFlag = 1 → c.back ≤ i ∧ 1 ≤ c.count)
      let three := c.kind = 0 → c.clip ≤ 255
      let four :=
        c.kind = 0 → ∀ k : Fin 256, k.val = c.clip → dec.clips[k].defined = true ∧ c.first + c.length - 1 < dec.clips[k].frames
      let five :=
        c.loopFlag = 1 → ∀ (j : Nat) (x : Cue) (l : Loop), before[j]? = some x → x.loop = some l → ¬ (l.back < c.back ∧ c.back ≤ j)
      (cueRefusal dec before c = none ↔ one ∧ two ∧ three ∧ four ∧ five) ∧
      (cueRefusal dec before c = some .badField ↔ ¬ (one ∧ two ∧ three)) ∧
      (cueRefusal dec before c = some .noSuch ↔ one ∧ two ∧ three ∧ ¬ four) ∧
      (cueRefusal dec before c = some .loopCross ↔ one ∧ two ∧ three ∧ four ∧ ¬ five)) ∧
  (∀ (dec : Decoder) (before : List Cue) (raw : List RawCue),
      let made (k : Nat) := before ++ (raw.take k).map RawCue.toCue
      ((∀ (k : Nat) (c : RawCue), raw[k]? = some c → cueRefusal dec (made k) c = none) →
        checkCues dec before 0 raw = .accepted (made raw.length)) ∧
      (∀ (k : Nat) (c : RawCue) (code : Result), raw[k]? = some c → cueRefusal dec (made k) c = some code →
        (∀ (j : Nat) (d : RawCue), j < k → raw[j]? = some d → cueRefusal dec (made j) d = none) →
        checkCues dec before 0 raw = .refused code k)) ∧
  (∀ (dec : Decoder) (before made : List Cue) (raw : List RawCue),
      let apart (l : List Cue) :=
        ∀ (i k : Nat) (a b : Cue) (m n : Loop), i < k → l[i]? = some a → l[k]? = some b → a.loop = some m → b.loop = some n →
          n.back ≤ m.back ∨ i < n.back
      apart before → checkCues dec before 0 raw = .accepted made → apart made)

/-- An OPEN that passes every check opens its stream (R42 to R44, R64, R98, R146): it enters PARKED at the clamped start
position with the order's parameters, the rate of the order or of its first CLIP cue's clip, an empty window, clear marks
and viewer 0; its run state stays as it was (R65); its E is allocated on its port, and its mark is set. Nothing else changes.
-/
def Obligations.OpenOpensTheStream : Prop :=
  ∀ (c : Instr) (r : Record) (s : State) (n : StreamId) (cues : List Cue) (rate : Nat × Nat), s.Takes c tagOPEN r →
    let b := r.body
    let x := s.stream n
    let p : Port := if u8 b 5 = 0 then .e0 else .e1
    let q := 1000000000 * rate.2 / rate.1
    let position := clampPosition cues (u8 b 44) (u32 b 48)
    56 + 16 * u8 b 45 ≤ b.length → u8 b 4 = n.val → x.state = .closed →
    (u32 b 8 = 0 ∧ u32 b 12 = 0 ∨
      1 ≤ u32 b 8 ∧ u32 b 8 ≤ 480000 ∧ 1 ≤ u32 b 12 ∧ u32 b 12 ≤ 2002 ∧ u32 b 12 ≤ u32 b 8 ∧ u32 b 8 ≤ 240 * u32 b 12) →
    u8 b 5 ≤ 1 → 1 ≤ u32 b 16 → u32 b 16 ≤ 12000 → u32 b 20 ≤ 20000000 → u32 b 24 ≤ 1000000000 → 1 ≤ u8 b 6 →
    u8 b 6 ≤ 16 → u8 b 7 ≤ 2 → u32 b 28 ≤ 1000000000 → 1 ≤ u16 b 38 → 1 ≤ u8 b 45 → u8 b 45 ≤ 64 →
    checkCues s.decoder [] 0 (rawCues b 56 (u8 b 45)) = .accepted cues →
    (u32 b 8 ≠ 0 ∧ rate = (u32 b 8, u32 b 12) ∨
      u32 b 8 = 0 ∧ ∃ k y rest, cues = k ++ y :: rest ∧ (∀ g ∈ k, g.gap = true) ∧ y.gap = false ∧
        rate = ((s.clipAt y.clip).rateN, (s.clipAt y.clip).rateD)) →
    (∀ y ∈ cues, y.gap = true ∨ ((s.clipAt y.clip).bytes * 1000 + u32 b 16 - 1) / u32 b 16 ≤ q) →
    (s.port p).allocated + u32 b 16 ≤ 12000 →
    ∃ y : Stream,
      exec c s =
        .next
          ((((s.answered tagOPEN r (if position.2.2 then .clamped else .ok) 0).setStream n y).setPort p
              { s.port p with allocated := (s.port p).allocated + u32 b 16 }).markMirror n) ∧
        y.state = .parked ∧ y.rateN = rate.1 ∧ y.rateD = rate.2 ∧ y.q = q ∧ y.r = 1000000000 * rate.2 % rate.1 ∧
        y.port = p ∧ y.egress = u32 b 16 ∧ y.margin = u32 b 20 ∧ y.latency = u32 b 24 ∧ y.depth = u8 b 6 ∧
        y.policy.code = u8 b 7 ∧ y.slipLimit = u32 b 28 ∧ y.cues = cues ∧ y.cue = position.1 ∧
        y.offset = position.2.1 ∧ y.window = [] ∧ y.speed = 0 ∧ y.lateCount = 0 ∧ y.shown = false ∧
        y.lastPresented = none ∧ y.releaseTime = none ∧ y.locate = none ∧ y.slipEnd = none ∧ y.nextTick = 0 ∧
        y.shownTick = 0 ∧ y.serial = 0 ∧ (∀ i : Fin 8, y.marks[i] = none) ∧
        y.viewers[(0 : Fin 8)] = some ⟨bytesAt b 32 6, bytesAt b 40 4, u16 b 38, false⟩ ∧
        (∀ i : Fin 8, i ≠ 0 → y.viewers[i] = none) ∧ y.proj.anchor = x.proj.anchor ∧ y.proj.index = x.proj.index ∧
        y.proj.deliver = x.proj.deliver ∧ y.proj.acc = x.proj.acc

/-- The refusals of OPEN (R42 to R44) by their first failing check, for a stream number, an open stream, a field or a
rate out of its range, a cue count, a cue, a native rate asked of a list of GAP cues, a cue that is too slow at the order's
rate or the native one, and a port without bandwidth; nothing changes but the answer. The refusals of CUES (R80): BAD_FIELD for the stream number, the mode or the count, WRONG_STATE for a
CLOSED stream and for a REPLACE in SEEKING, EMPTY for no cue, FULL with the length of the list for an APPEND past 64,
the code and index of the first failing cue, and TOO_SLOW with the index of
the first cue that fails the transmit test of R43; nothing changes but the answer. -/
def Obligations.OpenAndCuesRefusals : Prop :=
  (∀ (c : Instr) (r : Record) (s : State), s.Takes c tagOPEN r →
      let b := r.body
      56 + 16 * u8 b 45 ≤ b.length →
      (64 ≤ u8 b 4 → exec c s = .next (s.answered tagOPEN r .badField 0)) ∧
      (∀ n : StreamId, u8 b 4 = n.val →
        ((s.stream n).state ≠ .closed → exec c s = .next (s.answered tagOPEN r .inUse 0)) ∧
        ((s.stream n).state = .closed →
          ((¬ (u32 b 8 = 0 ∧ u32 b 12 = 0 ∨
                1 ≤ u32 b 8 ∧ u32 b 8 ≤ 480000 ∧ 1 ≤ u32 b 12 ∧ u32 b 12 ≤ 2002 ∧ u32 b 12 ≤ u32 b 8 ∧
                  u32 b 8 ≤ 240 * u32 b 12) ∨
              1 < u8 b 5 ∨ u32 b 16 = 0 ∨ 12000 < u32 b 16 ∨ 20000000 < u32 b 20 ∨ 1000000000 < u32 b 24 ∨ u8 b 6 = 0 ∨
              16 < u8 b 6 ∨ 2 < u8 b 7 ∨ 1000000000 < u32 b 28 ∨ u16 b 38 = 0 ∨ 64 < u8 b 45) →
            exec c s = .next (s.answered tagOPEN r .badField 0)) ∧
          (openFieldsOk b = true → u8 b 45 = 0 → exec c s = .next (s.answered tagOPEN r .empty 0)) ∧
          (∀ code i, openFieldsOk b = true → u8 b 45 ≠ 0 →
            checkCues s.decoder [] 0 (rawCues b 56 (u8 b 45)) = .refused code i →
            exec c s = .next (s.answered tagOPEN r code i)) ∧
          (∀ cues, openFieldsOk b = true → u8 b 45 ≠ 0 →
            checkCues s.decoder [] 0 (rawCues b 56 (u8 b 45)) = .accepted cues →
            (u32 b 8 = 0 → (∀ y ∈ cues, y.gap = true) → exec c s = .next (s.answered tagOPEN r .badField 0)) ∧
            (∀ rate : Nat × Nat,
              (u32 b 8 ≠ 0 ∧ rate = (u32 b 8, u32 b 12) ∨
                u32 b 8 = 0 ∧ ∃ k y rest, cues = k ++ y :: rest ∧ (∀ g ∈ k, g.gap = true) ∧ y.gap = false ∧
                  rate = ((s.clipAt y.clip).rateN, (s.clipAt y.clip).rateD)) →
              let q := 1000000000 * rate.2 / rate.1
              (∀ k y rest, cues = k ++ y :: rest → (∀ z ∈ k, z.gap = true ∨
                  ((s.clipAt z.clip).bytes * 1000 + u32 b 16 - 1) / u32 b 16 ≤ q) →
                y.gap = false → q < ((s.clipAt y.clip).bytes * 1000 + u32 b 16 - 1) / u32 b 16 →
                exec c s = .next (s.answered tagOPEN r .tooSlow k.length)) ∧
              ((∀ z ∈ cues, z.gap = true ∨ ((s.clipAt z.clip).bytes * 1000 + u32 b 16 - 1) / u32 b 16 ≤ q) →
                12000 < (s.port (if u8 b 5 = 0 then .e0 else .e1)).allocated + u32 b 16 →
                exec c s = .next (s.answered tagOPEN r .noBandwidth 0))))))) ∧
  (∀ (c : Instr) (r : Record) (s : State), s.Takes c tagCUES r →
      let b := r.body
      16 + 16 * u8 b 7 ≤ b.length →
      (64 ≤ u8 b 4 → exec c s = .next (s.answered tagCUES r .badField 0)) ∧
      (∀ n : StreamId, u8 b 4 = n.val →
        let x := s.stream n
        (2 ≤ u8 b 5 → exec c s = .next (s.answered tagCUES r .badField 0)) ∧
        (u8 b 5 ≤ 1 → (x.state = .closed ∨ u8 b 5 = 0 ∧ x.state = .seeking) →
          exec c s = .next (s.answered tagCUES r .wrongState 0)) ∧
        (u8 b 5 ≤ 1 → x.state ≠ .closed → (u8 b 5 = 0 → x.state ≠ .seeking) →
          (64 < u8 b 7 → exec c s = .next (s.answered tagCUES r .badField 0)) ∧
          (u8 b 7 = 0 → exec c s = .next (s.answered tagCUES r .empty 0)) ∧
          (1 ≤ u8 b 7 → u8 b 7 ≤ 64 → u8 b 5 = 1 → 64 < x.cues.length + u8 b 7 →
            exec c s = .next (s.answered tagCUES r .full x.cues.length)) ∧
          (∀ code i, 1 ≤ u8 b 7 → u8 b 7 ≤ 64 → (u8 b 5 = 1 → x.cues.length + u8 b 7 ≤ 64) →
            checkCues s.decoder (if u8 b 5 = 1 then x.cues else []) 0 (rawCues b 16 (u8 b 7)) = .refused code i →
            exec c s = .next (s.answered tagCUES r code i)) ∧
          (∀ cues k y rest, 1 ≤ u8 b 7 → u8 b 7 ≤ 64 → (u8 b 5 = 1 → x.cues.length + u8 b 7 ≤ 64) →
            checkCues s.decoder (if u8 b 5 = 1 then x.cues else []) 0 (rawCues b 16 (u8 b 7)) = .accepted cues →
            cues.drop (if u8 b 5 = 1 then x.cues.length else 0) = k ++ y :: rest → (∀ z ∈ k, s.Transmittable x z) →
            ¬ s.Transmittable x y → exec c s = .next (s.answered tagCUES r .tooSlow k.length)))))

/-- SHUT of an open stream (R60): its presentation is cut off, its window, cues, marks and viewers are given up, its E times
the number of its unmuted viewers comes off its port's rate, its mark is set, and it is CLOSED; a SHUT in SEEKING raises
LOCD ABANDONED. A number above 63 is refused BAD_FIELD and a CLOSED stream WRONG_STATE. -/
def Obligations.ShutClosesTheStream : Prop :=
  ∀ (c : Instr) (r : Record) (s : State), s.Takes c tagSHUT r → 8 ≤ r.body.length →
    (64 ≤ u8 r.body 4 → exec c s = .next (s.answered tagSHUT r .badField 0)) ∧
    (∀ n : StreamId, u8 r.body 4 = n.val →
      let x := s.stream n
      (x.state = .closed → exec c s = .next (s.answered tagSHUT r .wrongState 0)) ∧
      (x.state ≠ .closed →
        ∃ t, exec c s = .next t ∧ Mild (fun k => k = n) (s.answered tagSHUT r .ok 0) t ∧
          (t.stream n).state = .closed ∧ (t.stream n).speed = 0 ∧ (t.stream n).window = [] ∧ (t.stream n).cues = [] ∧
          (t.stream n).locate = none ∧ (t.stream n).releaseTime = none ∧
          (∀ i : Fin 8, (t.stream n).marks[i] = none ∧ (t.stream n).viewers[i] = none) ∧ t.presentation n = none ∧
          (t.port x.port).allocated =
            (s.port x.port).allocated -
              x.egress * ((List.finRange 8).countP fun i => x.viewers[i].any fun v => !v.muted) ∧
          (∀ p, p ≠ x.port → (t.port p).allocated = (s.port p).allocated) ∧ t.region.marks[n] = true ∧
          (∀ l, x.state = .seeking → x.locate = some l →
            t.Notified (.locd l.ref n .abandoned l.cue l.offset) s.et)))

/-! ### Cue lists (R80 to R82) -/

/-- A CUES in REPLACE mode that passes its checks (R81): the list and the position are the order's, the shown flag is
cleared, what is SENDING is kept without its list-end mark, and in RUNNING the window is projected afresh, from the run
tick index of the earliest entry discarded where one was, its first new entry presenting the new position. -/
def Obligations.CuesReplaceTheList : Prop :=
  ∀ (c : Instr) (r : Record) (s : State) (n : StreamId) (cues : List Cue), s.Takes c tagCUES r →
    let b := r.body
    let x := s.stream n
    let position := clampPosition cues (u8 b 6) (u32 b 8)
    16 + 16 * u8 b 7 ≤ b.length → u8 b 4 = n.val → u8 b 5 = 0 → 1 ≤ u8 b 7 → u8 b 7 ≤ 64 →
    (x.state = .parked ∨ x.state = .running ∨ x.state = .held) →
    checkCues s.decoder [] 0 (rawCues b 16 (u8 b 7)) = .accepted cues → (∀ y ∈ cues, s.Transmittable x y) →
    ∃ (t : State) (added : List Entry), exec c s = .next t ∧
      Calm (fun k => k = n ∨ (s.stream k).Waits) (s.answered tagCUES r (if position.2.2 then .clamped else .ok) 0) t ∧
      (t.stream n).state = x.state ∧ (t.stream n).speed = x.speed ∧ (t.stream n).cues = cues ∧
      (t.stream n).cue = position.1 ∧ (t.stream n).offset = position.2.1 ∧ (t.stream n).shown = false ∧
      (t.stream n).slipEnd = none ∧ (t.stream n).lastPresented = x.lastPresented ∧
      (t.stream n).window.map Entry.core = (x.kept ++ added).map Entry.core ∧
      (x.state ≠ .running → added = []) ∧
      (x.state = .running → x.depth ≤ 16 →
        (t.stream n).Filled ∧ x.Projected x.speed added ∧
        (∀ e, added[0]? = some e → e.cue = position.1 ∧ e.offset = position.2.1) ∧
        (∀ e, x.Paced → x.unsent[0]? = some e → x.RunTimes x.proj.anchor e.index.toNat added))

/-- A CUES in APPEND mode that passes its checks (R82): the new cues follow the old ones, with their counters added, the
position stays, and an end mark that has not begun sending is taken off; in RUNNING the projection goes on. -/
def Obligations.CuesAppendToTheList : Prop :=
  ∀ (c : Instr) (r : Record) (s : State) (n : StreamId) (cues : List Cue), s.Takes c tagCUES r →
    let b := r.body
    let x := s.stream n
    16 + 16 * u8 b 7 ≤ b.length → u8 b 4 = n.val → u8 b 5 = 1 → 1 ≤ u8 b 7 → x.cues.length + u8 b 7 ≤ 64 →
    x.state ≠ .closed → checkCues s.decoder x.cues 0 (rawCues b 16 (u8 b 7)) = .accepted cues →
    (∀ y ∈ cues.drop x.cues.length, s.Transmittable x y) →
    ∃ (u : State) (added : List Entry), exec c s = .next u.wakeAll ∧
      Calm (fun k => k = n) (s.answered tagCUES r .ok x.cues.length) u ∧
      (u.stream n).state = x.state ∧ (u.stream n).cues = cues ∧ (u.stream n).cue = x.cue ∧
      (u.stream n).offset = x.offset ∧ (u.stream n).locate = x.locate ∧
      (u.stream n).window.map Entry.core =
        (x.window.map fun e =>
          if e.stage ≠ .sending ∧ e.listEnd = some .atEnd then { e with listEnd := none } else e).map Entry.core
          ++ added.map Entry.core ∧
      (x.state ≠ .running → added = []) ∧
      (x.state = .running → x.depth ≤ 16 → (u.stream n).Filled ∧ x.Projected x.speed added)

/-! ### Transport orders (R45 to R58) -/

/-- PLAY in PARKED, RUNNING or HELD starts a run (R46 to R48, R67, R68): the speed is clamped to 256 eighths either way, the
anchor is the start time or the floor, what is SENDING is kept, and the window is projected to its depth with the run ticks
of R66 from index 0, tick 0 presenting the position of R39. -/
def Obligations.PlayStartsARun : Prop :=
  ∀ (c : Instr) (r : Record) (s : State) (n : StreamId), s.Takes c tagXPRT r →
    let b := r.body
    let x := s.stream n
    let speed : Int := max (-256) (min 256 (s16 b 8))
    let timed := u8 b 7 % 2 = 1
    let low := x.floorAt s.et
    let anchor : Time := if timed ∧ low.toNat ≤ u64 b 24 then BitVec.ofNat 64 (u64 b 24) else low
    let clamped := speed ≠ s16 b 8 ∨ timed ∧ u64 b 24 < low.toNat
    40 ≤ b.length → u8 b 4 = n.val → u8 b 5 = 1 → (x.state = .parked ∨ x.state = .running ∨ x.state = .held) →
    s16 b 8 ≠ 0 → (timed → u64 b 24 < 2 ^ 63) →
    ∃ (t : State) (added : List Entry), exec c s = .next t ∧
      Calm (fun k => k = n ∨ (s.stream k).Waits) (s.answered tagXPRT r (if clamped then .clamped else .ok) 0) t ∧
      (t.stream n).state = .running ∧ (t.stream n).speed = speed ∧ (t.stream n).proj.anchor = anchor ∧
      (t.stream n).releaseTime = none ∧ (t.stream n).slipEnd = none ∧ t.region.marks[n] = true ∧
      (t.stream n).window.map Entry.core = (x.kept ++ added).map Entry.core ∧
      (x.depth ≤ 16 → (t.stream n).Filled) ∧ x.Projected speed added ∧ (x.Paced → x.RunTimes anchor 0 added) ∧
      ∀ e, added[0]? = some e →
        if x.shown then
          e.cue = (advance x.cues speed x.cue x.offset (liveCounters x.cues)).cue ∧
            e.offset = (advance x.cues speed x.cue x.offset (liveCounters x.cues)).offset
        else e.cue = x.cue ∧ e.offset = x.offset

/-- HOLD of a RUNNING stream (R49, R50): a release time that is not later than the present is answered NOT_HELD; otherwise
the stream is HELD with the order's release set, its speed kept, and every entry that has not begun sending keeps its place
with the deadline "none". -/
def Obligations.HoldHoldsTheStream : Prop :=
  ∀ (c : Instr) (r : Record) (s : State) (n : StreamId), s.Takes c tagXPRT r →
    let b := r.body
    let x := s.stream n
    let timed := u8 b 7 / 2 % 2 = 1
    40 ≤ b.length → u8 b 4 = n.val → u8 b 5 = 2 → x.state = .running →
    (timed → 2 ^ 63 ≤ u64 b 32 → exec c s = .next (s.answered tagXPRT r .badField 0)) ∧
    (timed → u64 b 32 < 2 ^ 63 → u64 b 32 ≤ s.et.toNat → exec c s = .next (s.answered tagXPRT r .notHeld 0)) ∧
    ((timed → u64 b 32 < 2 ^ 63 ∧ s.et.toNat < u64 b 32) →
      ∃ t, exec c s = .next t ∧ Calm (fun k => k = n) (s.answered tagXPRT r .ok 0) t ∧
        Stream.Like
          { x with
            state := .held, releaseTime := if timed then some (BitVec.ofNat 64 (u64 b 32)) else none
            releaseResume := decide (u8 b 7 / 4 % 2 = 1), slipEnd := none
            window := x.window.map fun e => if e.stage = .sending then e else { e with deadline := none } }
          (t.stream n) ∧
        t.region.marks[n] = true)

/-- RESUME of a HELD stream (R52, R73): without RESUME in the release set it is answered NOT_PERMITTED; with it the stream
runs at its held speed from the floor of R67, the kept entries being the first run ticks of the new run, in their order and
with all but their times unchanged, and the projection goes on after them. -/
def Obligations.ResumeReleasesTheHold : Prop :=
  ∀ (c : Instr) (r : Record) (s : State) (n : StreamId), s.Takes c tagXPRT r →
    let b := r.body
    let x := s.stream n
    40 ≤ b.length → u8 b 4 = n.val → u8 b 5 = 3 → x.state = .held →
    (x.releaseResume = false → exec c s = .next (s.answered tagXPRT r .notPermitted 0)) ∧
    (x.releaseResume = true →
      ∃ (t : State) (old added : List Entry), exec c s = .next t ∧
        Calm (fun k => k = n ∨ (s.stream k).Waits) (s.answered tagXPRT r .ok 0) t ∧
        (t.stream n).state = .running ∧ (t.stream n).speed = x.speed ∧ (t.stream n).releaseTime = none ∧
        (t.stream n).releaseResume = false ∧ (t.stream n).proj.anchor = x.floorAt s.et ∧ t.region.marks[n] = true ∧
        (t.stream n).window.map Entry.core = (old ++ added).map Entry.core ∧
        old.map Entry.untimed = x.window.map Entry.untimed ∧
        old.map (fun e => e.stage) = x.window.map (fun e => e.stage) ∧
        (x.Paced → x.RunTimes (x.floorAt s.et) 0 ((old.filter fun e => e.stage != .sending) ++ added)) ∧
        x.Projected x.speed added ∧ (x.depth ≤ 16 → (t.stream n).Filled))

/-- PARK (R53): of a PARKED stream it changes nothing; otherwise the entries that have not begun sending are discarded, what
is SENDING completes without parking the stream again, and the stream is PARKED at its current position with speed 0, its
hold and locate cleared; a locate in progress ends with LOCD ABANDONED. -/
def Obligations.ParkStopsTheStream : Prop :=
  ∀ (c : Instr) (r : Record) (s : State) (n : StreamId), s.Takes c tagXPRT r →
    let b := r.body
    let x := s.stream n
    40 ≤ b.length → u8 b 4 = n.val → u8 b 5 = 4 →
    (x.state = .parked → exec c s = .next (s.answered tagXPRT r .ok 0)) ∧
    (x.state = .running ∨ x.state = .held ∨ x.state = .seeking →
      ∃ t, exec c s = .next t ∧ Calm (fun k => k = n) (s.answered tagXPRT r .ok 0) t ∧
        (t.stream n).state = .parked ∧ (t.stream n).speed = 0 ∧ (t.stream n).shown = false ∧
        (t.stream n).cue = x.cue ∧ (t.stream n).offset = x.offset ∧ (t.stream n).cues = x.cues ∧
        (t.stream n).releaseTime = none ∧ (t.stream n).releaseResume = false ∧ (t.stream n).locate = none ∧
        (t.stream n).slipEnd = none ∧ (t.stream n).window.map Entry.core = x.kept.map Entry.core ∧
        t.region.marks[n] = true ∧
        ∀ l, x.locate = some l → t.Notified (.locd l.ref n .abandoned l.cue l.offset) s.et)

/-- A locate begins (R55 to R58): a LOCATE in any open state, to the clamped target, or a STEP of a PARKED stream, by its
walk. The stream is SEEKING with speed 0 and the locate recorded, its hold cleared and its unsent entries discarded; with
nothing SENDING the window holds the one locate entry, of class SCRUB, whose deadline is the present ET; the locate that it
replaces ends with LOCD SUPERSEDED. What then has a settled frame begins sending. So does, when a report settles it, the
locate entry of a SEEKING stream (R74): as its own kind, or as FILL FAILED, without any late policy, with the present ET as
its deliver time. -/
def Obligations.LocateAndStepSeek : Prop :=
  (∀ (c : Instr) (r : Record) (s : State) (n : StreamId) (target : Nat × Nat × Bool) (speed : Int), s.Takes c tagXPRT r →
    let b := r.body
    let x := s.stream n
    let play := u8 b 5 = 5 ∧ u8 b 6 = 1
    40 ≤ b.length → u8 b 4 = n.val →
    (u8 b 5 = 5 ∧ x.state ≠ .closed ∧ u8 b 6 ≤ 1 ∧ (u8 b 6 = 1 → s16 b 10 ≠ 0) ∧
        target = clampPosition x.cues (u8 b 13) (u32 b 16) ∧
        speed = (if u8 b 6 = 1 then max (-256) (min 256 (s16 b 10)) else 0) ∨
      u8 b 5 = 6 ∧ x.state = .parked ∧ s8 b 12 ≠ 0 ∧ -32 ≤ s8 b 12 ∧ s8 b 12 ≤ 32 ∧
        target = stepTarget x.cues x.cue x.offset (s8 b 12) ∧ speed = 0) →
    let clamped := target.2.2 = true ∨ play ∧ speed ≠ s16 b 10
    ∃ (u : State) (projected : Bool), exec c s = .next u.wakeAll ∧
      Calm (fun k => k = n) (s.answered tagXPRT r (if clamped then .clamped else .ok) 0) u ∧
      (u.stream n).state = .seeking ∧ (u.stream n).speed = 0 ∧ (u.stream n).releaseTime = none ∧
      (u.stream n).slipEnd = none ∧
      (u.stream n).locate = some ⟨target.1, target.2.1, decide play, speed, reference b, s.et, projected⟩ ∧
      (x.sendingEntry.isSome = true →
        projected = false ∧ (u.stream n).window.map Entry.core = x.kept.map Entry.core) ∧
      (x.sendingEntry = none →
        projected = true ∧
          ∃ e : Entry, (u.stream n).window.map Entry.core = [e.core] ∧ e.tick = x.nextTick ∧ e.cue = target.1 ∧
            e.offset = target.2.1 ∧ e.cls = .scrub ∧ e.locate = true ∧ e.deliver = s.et ∧
            e.deadline = (if e.kind = .frame then some s.et else none)) ∧
      (x.state ≠ .seeking → u.region.marks[n] = true) ∧
      (∀ l, x.locate = some l → u.Notified (.locd l.ref n .superseded l.cue l.offset) s.et)) ∧
  (∀ (n : StreamId) (e : Entry) (as_ : SentAs) (s : State), (∀ k, k ≠ n → s.wakeable k = none) →
      (s.stream n).state = .seeking → (∃ rest, (s.stream n).unsent = e :: rest) → (s.stream n).sendingEntry = none →
      e.locate = true → (s.port (s.stream n).port).up = true → s.TurnSends n e as_ none →
      Calm (fun k => k = n) s s.wakeAll ∧ s.Began s.wakeAll n { e with deliver := s.et } as_ none ∧
        (s.wakeAll.stream n).state = .seeking)

/-- The refusals of XPRT (R45 to R58): BAD_FIELD for the stream number and the action, WRONG_STATE by the table of R45, and
then BAD_FIELD for the action's own fields; nothing changes but the answer. -/
def Obligations.TransportRefusals : Prop :=
  ∀ (c : Instr) (r : Record) (s : State), s.Takes c tagXPRT r →
    let b := r.body
    let bad := exec c s = .next (s.answered tagXPRT r .badField 0)
    let wrong := exec c s = .next (s.answered tagXPRT r .wrongState 0)
    40 ≤ b.length →
    (64 ≤ u8 b 4 → bad) ∧
    (∀ n : StreamId, u8 b 4 = n.val →
      let x := (s.stream n).state
      ((u8 b 5 = 0 ∨ 6 < u8 b 5) → bad) ∧
      (1 ≤ u8 b 5 → u8 b 5 ≤ 6 → x = .closed → wrong) ∧
      (u8 b 5 = 1 → x = .seeking → wrong) ∧ (u8 b 5 = 2 → x ≠ .running → wrong) ∧ (u8 b 5 = 3 → x ≠ .held → wrong) ∧
      (u8 b 5 = 6 → x ≠ .parked → wrong) ∧
      (u8 b 5 = 1 → x ≠ .closed → x ≠ .seeking →
        (s16 b 8 = 0 → bad) ∧ (s16 b 8 ≠ 0 → u8 b 7 % 2 = 1 → 2 ^ 63 ≤ u64 b 24 → bad)) ∧
      (u8 b 5 = 5 → x ≠ .closed → (1 < u8 b 6 ∨ u8 b 6 = 1 ∧ s16 b 10 = 0) → bad) ∧
      (u8 b 5 = 6 → x = .parked → (s8 b 12 = 0 ∨ 32 < s8 b 12 ∨ s8 b 12 < -32) → bad))

/-! ### Marks and viewers (R99, R146 to R149) -/

/-- MARK SET (R99): the slot takes the clip, the frame, the kind, the action, the condition and the count of the order
with the next serial, which skips 0 and which the answer gives. MARK CLEAR: the slot is clear. Nothing else changes.
The refusals of MARK (R99): BAD_FIELD for the stream number, the slot, the operation or a field of a SET, and
WRONG_STATE for a CLOSED stream; nothing changes but the answer. -/
def Obligations.MarkOrders : Prop :=
  (∀ (c : Instr) (r : Record) (s : State) (n : StreamId) (i : Fin 8), s.Takes c tagMARK r →
      let b := r.body
      let x := s.stream n
      24 ≤ b.length → u8 b 4 = n.val → u8 b 5 = i.val → x.state ≠ .closed →
      (∀ k : Fin 256, u8 b 6 = 0 → u16 b 12 = k.val → u32 b 16 ≤ 16777215 → u8 b 7 ≤ 1 → u8 b 8 ≤ 1 → u8 b 9 ≤ 2 →
        (u8 b 7 = 1 → u8 b 8 = 0) → u8 b 10 ≤ 1 → (u8 b 10 = 1 → 1 ≤ u16 b 14) →
        let v : Word := if x.serial = 4294967295 then 1 else x.serial + 1
        let mark : Mark :=
          { serial := v, clip := k, frame := u32 b 16, kind := if u8 b 7 = 0 then .shown else .fetched
            action := if u8 b 8 = 0 then .notify else .hold
            cond := if u8 b 9 = 0 then .any else if u8 b 9 = 1 then .forward else .reverse
            limit := if u8 b 10 = 1 then some (u16 b 14) else none, count := 0 }
        exec c s =
          .next
            ((s.answered tagMARK r .ok v.toNat).setStream n { x with marks := x.marks.set i (some mark), serial := v })) ∧
      (u8 b 6 = 1 →
        (x.marks[i] ≠ none →
          exec c s = .next ((s.answered tagMARK r .ok 0).setStream n { x with marks := x.marks.set i none })) ∧
        (x.marks[i] = none → exec c s = .next (s.answered tagMARK r .noSuch 0)))) ∧
  (∀ (c : Instr) (r : Record) (s : State), s.Takes c tagMARK r →
      let b := r.body
      24 ≤ b.length →
      ((64 ≤ u8 b 4 ∨ 8 ≤ u8 b 5 ∨ 2 ≤ u8 b 6) → exec c s = .next (s.answered tagMARK r .badField 0)) ∧
      (∀ n : StreamId, u8 b 4 = n.val → u8 b 5 < 8 → u8 b 6 ≤ 1 →
        ((s.stream n).state = .closed → exec c s = .next (s.answered tagMARK r .wrongState 0)) ∧
        ((s.stream n).state ≠ .closed → u8 b 6 = 0 →
          (256 ≤ u16 b 12 ∨ 16777215 < u32 b 16 ∨ 1 < u8 b 7 ∨ 1 < u8 b 8 ∨ 2 < u8 b 9 ∨ u8 b 7 = 1 ∧ u8 b 8 = 1 ∨
            1 < u8 b 10 ∨ u8 b 10 = 1 ∧ u16 b 14 = 0) →
          exec c s = .next (s.answered tagMARK r .badField 0))))

/-- The refusals of SHAR that its operations share (R147): BAD_FIELD for the stream number, the operation or the
viewer index, and WRONG_STATE for a CLOSED stream; nothing changes but the answer. SHAR ADD and UNMUTE (R147, R149,
R145): with E admitted on the stream's port, the slot takes the new viewer unmuted, or its viewer's muted flag is
cleared, E is added to the rate and the answer gives the new number of unmuted viewers; without admission both are
refused NO_BANDWIDTH. An UNMUTE of an unmuted viewer changes nothing. -/
def Obligations.SharAddAndUnmute : Prop :=
  (∀ (c : Instr) (r : Record) (s : State), s.Takes c tagSHAR r →
      let b := r.body
      24 ≤ b.length →
      ((64 ≤ u8 b 4 ∨ 8 ≤ u8 b 6 ∨ 4 ≤ u8 b 5) → exec c s = .next (s.answered tagSHAR r .badField 0)) ∧
      (∀ n : StreamId, u8 b 4 = n.val → u8 b 6 < 8 → u8 b 5 ≤ 3 → (s.stream n).state = .closed →
        exec c s = .next (s.answered tagSHAR r .wrongState 0))) ∧
  (∀ (c : Instr) (r : Record) (s : State) (n : StreamId) (v : Fin 8), s.Takes c tagSHAR r →
      let b := r.body
      let x := s.stream n
      let unmuted := (List.finRange 8).countP fun i => x.viewers[i].any fun y => !y.muted
      let joined (y : Viewer) : State :=
        ((s.answered tagSHAR r .ok (unmuted + 1)).setStream n { x with viewers := x.viewers.set v (some y) }).setPort x.port
          { s.port x.port with allocated := (s.port x.port).allocated + x.egress }
      24 ≤ b.length → u8 b 4 = n.val → u8 b 6 = v.val → x.state ≠ .closed →
      (u8 b 5 = 0 →
        (u16 b 14 = 0 → exec c s = .next (s.answered tagSHAR r .badField 0)) ∧
        (u16 b 14 ≠ 0 → x.viewers[v] ≠ none → exec c s = .next (s.answered tagSHAR r .inUse 0)) ∧
        (u16 b 14 ≠ 0 → x.viewers[v] = none →
          ((s.port x.port).allocated + x.egress ≤ 12000 →
            exec c s = .next (joined ⟨bytesAt b 8 6, bytesAt b 16 4, u16 b 14, false⟩)) ∧
          (12000 < (s.port x.port).allocated + x.egress → exec c s = .next (s.answered tagSHAR r .noBandwidth 0)))) ∧
      (u8 b 5 = 3 →
        (x.viewers[v] = none → exec c s = .next (s.answered tagSHAR r .noSuch 0)) ∧
        (∀ y, x.viewers[v] = some y →
          (y.muted = false → exec c s = .next (s.answered tagSHAR r .ok unmuted)) ∧
          (y.muted = true → (s.port x.port).allocated + x.egress ≤ 12000 →
            exec c s = .next (joined { y with muted := false })) ∧
          (y.muted = true → 12000 < (s.port x.port).allocated + x.egress →
            exec c s = .next (s.answered tagSHAR r .noBandwidth 0)))))

/-- SHAR REMOVE and MUTE (R148, R149, R145): the slot becomes empty, or its viewer's muted flag is set, E comes off the
port's rate if the viewer was unmuted, and of a presentation that is SENDING nothing more is owed to the viewer. What
it owes to the others stays owed, the next fragment being theirs once no copy of the present one is left (R151); with nothing
owed to them and none of its messages to them under way it completes at once (R154), and the next turn may come. That a
message to this viewer that is being transmitted does not hold the completion up is the model's choice (log 18, DEDUCED), and so
are the next turn in the same step (log 17, DEDUCED) and the streams that wake after it (log 19, DESIGN CHOICE). Without a
presentation nothing else changes. -/
def Obligations.SharRemoveAndMute : Prop :=
  ∀ (c : Instr) (r : Record) (s : State) (n : StreamId) (v : Fin 8), s.Takes c tagSHAR r →
    let b := r.body
    let x := s.stream n
    let unmuted := (List.finRange 8).countP fun i => x.viewers[i].any fun y => !y.muted
    24 ≤ b.length → u8 b 4 = n.val → u8 b 6 = v.val → x.state ≠ .closed → (u8 b 5 = 1 ∨ u8 b 5 = 2) →
    (u8 b 5 = 1 → v = 0 → exec c s = .next (s.answered tagSHAR r .notPermitted 0)) ∧
    ((u8 b 5 = 1 → v ≠ 0) → x.viewers[v] = none → exec c s = .next (s.answered tagSHAR r .noSuch 0)) ∧
    (∀ y, x.viewers[v] = some y → u8 b 5 = 2 → y.muted = true → exec c s = .next (s.answered tagSHAR r .ok unmuted)) ∧
    (∀ y, x.viewers[v] = some y → (u8 b 5 = 1 → v ≠ 0) → (u8 b 5 = 2 → y.muted = false) →
      let left : Option Viewer := if u8 b 5 = 1 then none else some { y with muted := true }
      let loss := if y.muted then 0 else 1
      let w : State :=
        ((s.answered tagSHAR r .ok (unmuted - loss)).setStream n { x with viewers := x.viewers.set v left }).setPort x.port
          { s.port x.port with allocated := (s.port x.port).allocated - loss * x.egress }
      (s.presentation n = none → exec c s = .next w) ∧
      (∀ p, s.presentation n = some p →
        let listed := p.recipients.filter fun g => g.viewer != v
        let copies := listed.filter fun g => !g.muted
        let todo := p.todo.filter fun g => g.viewer != v
        let rounds := match p.sentAs with | .frame _ b _ => (b + 8191) / 8192 | _ => 1
        let q : Presentation :=
          if todo = [] ∧ p.fragment + 1 < rounds ∧ copies ≠ [] then
            { p with recipients := listed, fragment := p.fragment + 1, todo := copies }
          else { p with recipients := listed, todo := todo }
        let underWay :=
          ∃ k, (s.port p.port).transmitting = some k ∧ k.stream = n ∧ k.tick = p.tick ∧ ∃ g ∈ listed, g.viewer = k.viewer
        let u := w.setPresentation n (some q)
        ((q.todo ≠ [] ∨ underWay) → exec c s = .next u) ∧
        (q.todo = [] → ¬ underWay → exec c s = .next ((u.endPresentation n false).turnIfDue n).wakeAll)))

/-! ### Turns, releases and waits (R51, R72, R75, R155) -/

/-- TICK_TURN of an entry whose deliver time has come, on an UP port (R72, R95, R155): the entry begins sending as its
own kind, as FILL FAILED, or, its frame being late, as the substitute of the late policy, with the late count and
LATE; the rest of its window and no other stream is concerned. When no turn has come there is none (R72): in HALTED,
with an entry SENDING, in a SLIP wait, in a state other than RUNNING, with no unsent entry, or before the deliver time
of the earliest. That an entry still PROJECTED at its turn counts as WAITING is log 9, and that LATE carries the time 0 where
there was no wait is log 16 (both DEDUCED). On a DOWN port the entry is sent as nothing: its presentation ends INTERRUPTED at once, and no late
policy is applied (R156). -/
def Obligations.TurnSendsTheEntry : Prop :=
  (∀ (n : StreamId) (e : Entry) (as_ : SentAs) (o : Option LateOutcome) (s : State), s.Settled → s.Due n e →
      (s.port (s.stream n).port).up = true → s.TurnSends n e as_ o →
      ∃ t, exec (.tickTurn n) s = .next t ∧ Calm (fun k => k = n) s t ∧ s.Began t n e as_ (o.map fun x => (x, 0)) ∧
        (t.stream n).state = .running ∧
        (∃ x : Entry, (t.stream n).sendingEntry = some x ∧ x.tick = e.tick ∧ x.deliver = e.deliver ∧ x.sentAs = some as_ ∧
          ((∀ k b d, as_ ≠ .frame k b d) → e.kind = .frame → x.ref = none ∧ x.tags = []) ∧
          ((∃ k b d, as_ = .frame k b d) → x.ref = e.ref ∧ x.tags = e.tags)) ∧
        ∀ y ∈ (s.stream n).window, y.tick ≠ e.tick → y ∈ (t.stream n).window) ∧
  ((∀ (n : StreamId) (s : State), s.Settled → (∀ e, ¬ s.Due n e) → exec (.tickTurn n) s = .next s) ∧
    (∀ (n : StreamId) (e : Entry) (s : State), s.Settled → s.Due n e → (s.port (s.stream n).port).up = false →
        ∃ t, exec (.tickTurn n) s = .next t ∧ Calm (fun k => k = n ∨ (s.stream k).Waits) s t ∧ t.presentation n = none ∧
          (t.stream n).sendingEntry = none ∧ (t.stream n).shownTick = e.tick ∧
          (t.stream n).lateCount = (s.stream n).lateCount ∧ t.region.marks[n] = true))

/-- A late entry under SLIP whose limit is not reached begins a SLIP wait that ends at its deliver time plus the limit (R75,
R155). A SLIP wait that has reached its end while the frame is neither READY nor FAILED, or that has passed it, ends with FILL
MISSING, and LATE says how long the wait was (R75, R155; that it is ET minus the deliver time is log 16, DEDUCED); one that has
not reached it, one whose frame is settled and whose end is not passed, and a stream without a wait are not concerned. A
report that settles the frame while the wait has not passed its end ends it: with FILL FAILED, or with the frame and the
shift of R76. -/
def Obligations.SlipWaits : Prop :=
  (∀ (n : StreamId) (e : Entry) (s : State), s.Settled → s.Due n e → (s.port (s.stream n).port).up = true →
      e.stage ≠ .ready → e.stage ≠ .failed → (s.stream n).policy = .slip →
      let limit : Time := e.deliver + BitVec.ofNat 64 (s.stream n).slipLimit
      s.et.toNat < limit.toNat →
      exec (.tickTurn n) s = .next (s.setStream n { s.stream n with slipEnd := some limit })) ∧
  (∀ (n : StreamId) (e : Entry) (limit : Time) (s : State), s.Settled → s.region.engine ≠ .halted →
      (s.stream n).state = .running → (s.stream n).slipEnd = some limit →
      (∃ rest, (s.stream n).unsent = e :: rest) → (s.stream n).sendingEntry = none →
      (e.stage ≠ .ready ∧ e.stage ≠ .failed ∨ limit.toNat < s.et.toNat) →
      (s.et.toNat < limit.toNat → exec (.slipWaitEnd n) s = .next s) ∧
      (limit.toNat ≤ s.et.toNat → (s.port (s.stream n).port).up = true →
        ∃ t, exec (.slipWaitEnd n) s = .next t ∧ Calm (fun k => k = n) s t ∧
          s.Began t n e (.fill .missing) (some (.fillMissing, s.et - e.deliver)))) ∧
  (∀ (n : StreamId) (s : State),
      (s.region.engine = .halted ∨ (s.stream n).state ≠ .running ∨ (s.stream n).slipEnd = none) →
      exec (.slipWaitEnd n) s = .next s) ∧
  (∀ (n : StreamId) (e : Entry) (limit : Time) (s : State), (s.stream n).state = .running →
      (s.stream n).slipEnd = some limit → (∃ rest, (s.stream n).unsent = e :: rest) → s.et.toNat ≤ limit.toNat →
      (e.stage = .ready ∨ e.stage = .failed) →
      exec (.slipWaitEnd n) s = .next s ∧
      ((∀ k, k ≠ n → s.wakeable k = none) → (s.stream n).sendingEntry = none → (s.port (s.stream n).port).up = true →
        (e.stage = .failed →
          Calm (fun k => k = n) s s.wakeAll ∧
            s.Began s.wakeAll n e (.fill .failed) (some (.fillFailed, s.et - e.deliver))) ∧
        (∀ k d y, e.stage = .ready → e.kind = .frame → e.frame = some k → e.ref = some d → s.dirEntry d = some y →
          Calm (fun i => i = n ∨ (s.stream i).Waits) s s.wakeAll ∧ s.BeganAfterWait s.wakeAll n e k y.bytes d)))

/-- RLSD (R51, R73): a HELD stream whose release time has been reached runs again at its held speed, anchored at the release
time itself; the kept entries are the first run ticks of the new run, in their order and with all but their times
unchanged, the projection goes on after them, and RLSD is raised with the release time as its ET. Otherwise nothing
happens. -/
def Obligations.ReleaseTimeReleasesTheHold : Prop :=
  (∀ (n : StreamId) (a : Time) (s : State), s.region.engine ≠ .halted → (s.stream n).state = .held →
      (s.stream n).releaseTime = some a → a.toNat ≤ s.et.toNat →
      let x := s.stream n
      ∃ (t : State) (old added : List Entry), exec (.rlsd n) s = .next t ∧
        Calm (fun k => k = n ∨ (s.stream k).Waits) s t ∧
        (t.stream n).state = .running ∧ (t.stream n).speed = x.speed ∧ (t.stream n).releaseTime = none ∧
        (t.stream n).releaseResume = false ∧ (t.stream n).proj.anchor = a ∧ t.region.marks[n] = true ∧
        t.Notified (.rlsd n) a ∧ (t.stream n).window.map Entry.core = (old ++ added).map Entry.core ∧
        old.map Entry.untimed = x.window.map Entry.untimed ∧
        old.map (fun e => e.stage) = x.window.map (fun e => e.stage) ∧
        (x.Paced → x.RunTimes a 0 ((old.filter fun e => e.stage != .sending) ++ added)) ∧
        x.Projected x.speed added ∧ (x.depth ≤ 16 → (t.stream n).Filled)) ∧
  (∀ (n : StreamId) (s : State),
      (s.region.engine = .halted ∨ (s.stream n).state ≠ .held ∨ (s.stream n).releaseTime = none ∨
        ∃ a, (s.stream n).releaseTime = some a ∧ s.et.toNat < a.toNat) →
      exec (.rlsd n) s = .next s)

/-! ### The frame buffer (R106, R110 to R117, R121) -/

/-- SERVICE_PASS (R114): none begins in HALTED (R123) or when none is called for, and with no waiter a pass does nothing. A
request whose frame has no current clip or no mapping takes a FREE directory entry, which is FAILED with cause UNMAPPED, and
FAIL is raised (R115, R119). A request whose frame lies in a RETIRING range takes an entry and pages and joins the hold
(R115, R25). A request for which too few pages are free, the play page reserve counted for SCRUB, with nothing to reclaim, or
too few chunk records, is answered "waiting" and stays (R110, R111, R94); a SCRUB request that the reserve alone keeps out
lets a PLAY request behind it be served (R111, R114). A request whose key is now found is a hit (R114, R106): the entry's users
rise by one, it leaves the reclaim list, it and its chunks take an earlier deadline and a PLAY class (R108, R109), and the
window entry is READY or FETCHING. For a request that needs them, entries are reclaimed from the head of the list, no more
than are needed (R111, R121). The FETCHED marks of the stream count an allocation, and those that fire raise FTCH (R103); a hit
counts nothing. -/
def Obligations.ServicePassServesARequest : Prop :=
  (∀ s : State, s.region.engine = .halted ∨ s.buffer.passWanted = false → exec .servicePass s = .next s) ∧
  (∀ s : State, s.Settled → s.region.engine ≠ .halted → s.buffer.passWanted = true → s.buffer.waiters = [] →
      exec .servicePass s = .next { s with buffer := { s.buffer with passWanted := false } }) ∧
  (∀ (n : StreamId) (tick : Word) (key : FrameKey) (deadline : Deadline) (cls : Cls) (s : State),
      s.region.engine ≠ .halted → s.buffer.passWanted = true →
      s.buffer.waiters = [.request n tick key deadline cls] → (∀ y ∈ s.buffer.dir, y.key = key → y.state = .failed) →
      s.buffer.dir.length < 4096 →
      let x := s.stream n
      let bytes := (s.clip key.clip).bytes
      let pages := (bytes + 1048575) / 1048576
      let target := if pages = 0 then 0 else match cls with | .play => pages | .scrub => pages + s.buffer.reserve
      let held := (s.buffer.dir.map fun y => y.pages.length).sum
      let answered (stage : Stage) (id : Nat) : Stream :=
        { x with window := x.window.map fun y => if y.tick = tick then { y with stage := stage, ref := some id } else y }
      ((s.decoder.plan key = .unmapped ∨ s.decoder.plan key = .notCurrent) →
        ∃ id, id < 4096 ∧ (∀ y ∈ s.buffer.dir, y.id ≠ id) ∧
          let d : DirEntry := ⟨id, .failed, key, false, bytes, [], .undecoded, 0, 0, 1, deadline, cls, some .unmapped⟩
          exec .servicePass s =
            .next
              ((({ s with
                    buffer := { s.buffer with dir := s.buffer.dir ++ [d], waiters := [], passWanted := false } } : State).raise
                  (.fail key .unmapped none 0 0 1)).setStream n (answered .failed id)).wakeAll) ∧
      (s.decoder.plan key = .held → (∀ (i : Fin 8) (m : Mark), x.marks[i] = some m → m.kind = .shown) →
        held + target ≤ 32768 →
        ∃ (id : Nat) (taken : List Nat), id < 4096 ∧ (∀ y ∈ s.buffer.dir, y.id ≠ id) ∧ taken.length = pages ∧
          taken.Nodup ∧ (∀ p ∈ taken, p < 32768 ∧ ∀ y ∈ s.buffer.dir, p ∉ y.pages) ∧
          let d : DirEntry := ⟨id, .filling, key, false, bytes, taken, .held, 0, 0, 1, deadline, cls, none⟩
          exec .servicePass s =
            .next
              (({ s with
                    decoder := { s.decoder with hold := s.decoder.hold ++ [id] }
                    buffer := { s.buffer with dir := s.buffer.dir ++ [d], waiters := [], passWanted := false } } :
                  State).setStream n (answered .fetching id)).wakeAll) ∧
      ((s.decoder.plan key = .held ∨ ∃ ps, s.decoder.plan key = .mapped ps) → s.buffer.reclaim = [] →
        (pages ≠ 0 ∧ 32768 < held + target ∨
          ∃ ps, s.decoder.plan key = .mapped ps ∧ ps ≠ [] ∧ 8192 < s.dispatcher.chunks.length + ps.length) →
        exec .servicePass s =
          .next
            (({ s with buffer := { s.buffer with passWanted := false } } : State).setStream n
                { x with
                  window :=
                    x.window.map fun y =>
                      if y.tick = tick then if y.stage = .projected then { y with stage := .waiting } else y
                      else y }).wakeAll)) ∧
  (∀ (n k : StreamId) (tick next : Word) (key other : FrameKey) (d e : Deadline) (s : State),
      s.region.engine ≠ .halted → s.buffer.passWanted = true →
      s.buffer.waiters = [.request n tick key d .scrub, .request k next other e .play] → n ≠ k →
      (∀ y ∈ s.buffer.dir, y.key = key ∨ y.key = other → y.state = .failed) → s.buffer.dir.length < 4096 →
      s.buffer.reclaim = [] → s.decoder.plan key = .held → (s.decoder.plan other = .unmapped ∨ s.decoder.plan other = .notCurrent) →
      let pages := ((s.clip key.clip).bytes + 1048575) / 1048576
      let held := (s.buffer.dir.map fun y => y.pages.length).sum
      pages ≠ 0 → held + pages ≤ 32768 → 32768 < held + pages + s.buffer.reserve →
      ∃ id, id < 4096 ∧ (∀ y ∈ s.buffer.dir, y.id ≠ id) ∧
        let new : DirEntry :=
          ⟨id, .failed, other, false, (s.clip other.clip).bytes, [], .undecoded, 0, 0, 1, e, .play, some .unmapped⟩
        exec .servicePass s =
          .next
            (((({ s with
                  buffer :=
                    { s.buffer with
                      dir := s.buffer.dir ++ [new], waiters := [.request n tick key d .scrub], passWanted := false } } :
                State).raise (.fail other .unmapped none 0 0 1)).changeEntry k next fun y =>
                  { y with stage := .failed, ref := some id }).changeEntry n tick fun y =>
                    if y.stage = .projected then { y with stage := .waiting } else y).wakeAll) ∧
  (∀ (n : StreamId) (tick : Word) (deadline : Deadline) (cls : Cls) (y : DirEntry) (s : State),
      s.region.engine ≠ .halted → s.buffer.passWanted = true →
      s.buffer.waiters = [.request n tick y.key deadline cls] → s.HasEntry y → s.NoneQueued y.id → y.stale = false →
      y.state ≠ .failed → (∀ z ∈ s.buffer.dir, z.key = y.key → z.stale = false → z.state ≠ .failed → z = y) →
      let sooner := earlier deadline y.deadline
      let raised := cls = .play ∧ y.cls = .scrub
      let hit : DirEntry :=
        { y with
          users := y.users + 1, deadline := if sooner = true then deadline else y.deadline
          cls := if raised then .play else y.cls }
      let found : State :=
        (s.withEntry hit).withChunks y.id fun c =>
          { c with deadline := if sooner = true then deadline else c.deadline, cls := if raised then .play else c.cls }
      let x := s.stream n
      exec .servicePass s =
        .next
          (({ found with
              buffer :=
                { found.buffer with
                  reclaim := s.buffer.reclaim.filter fun d => d != y.id, waiters := [], passWanted := false } } :
              State).setStream n
            { x with
              window :=
                x.window.map fun z =>
                  if z.tick = tick then
                    { z with stage := if y.state = .ready then .ready else .fetching, ref := some y.id }
                  else z }).wakeAll) ∧
  (∀ (n : StreamId) (tick : Word) (key : FrameKey) (deadline : Deadline) (cls : Cls) (k : Nat) (s : State),
      s.region.engine ≠ .halted → s.buffer.passWanted = true →
      s.buffer.waiters = [.request n tick key deadline cls] → (∀ y ∈ s.buffer.dir, y.key = key → y.state = .failed) →
      s.decoder.plan key = .held → (s.buffer.dir.map fun y => y.id).Nodup → s.buffer.reclaim.Nodup →
      (∀ d ∈ s.buffer.reclaim, ∃ y ∈ s.buffer.dir, y.id = d) → (s.buffer.dir.map fun y => y.pages.length).sum ≤ 32768 →
      (∀ (i : Fin 8) (m : Mark), (s.stream n).marks[i] = some m → m.kind = .shown) →
      let x := s.stream n
      let bytes := (s.clip key.clip).bytes
      let pages := (bytes + 1048575) / 1048576
      let target := if pages = 0 then 0 else match cls with | .play => pages | .scrub => pages + s.buffer.reserve
      let kept (j : Nat) := s.buffer.dir.filter fun y => !(s.buffer.reclaim.take j).contains y.id
      let room (j : Nat) := ((kept j).map fun y => y.pages.length).sum + target ≤ 32768 ∧ (kept j).length < 4096
      k ≤ s.buffer.reclaim.length → room k → (∀ j, j < k → ¬ room j) →
      ∃ (id : Nat) (taken : List Nat), id < 4096 ∧ (∀ y ∈ kept k, y.id ≠ id) ∧ taken.length = pages ∧ taken.Nodup ∧
        (∀ p ∈ taken, p < 32768 ∧ ∀ y ∈ kept k, p ∉ y.pages) ∧
        let d : DirEntry := ⟨id, .filling, key, false, bytes, taken, .held, 0, 0, 1, deadline, cls, none⟩
        exec .servicePass s =
          .next
            (({ s with
                decoder :=
                  { s.decoder with
                    hold := (s.decoder.hold.filter fun i => !(s.buffer.reclaim.take k).contains i) ++ [id] }
                buffer :=
                  { s.buffer with
                    dir := kept k ++ [d], reclaim := s.buffer.reclaim.drop k, waiters := []
                    passWanted := decide (0 < k) } } : State).setStream n
              { x with
                window :=
                  x.window.map fun y => if y.tick = tick then { y with stage := .fetching, ref := some id } else y }).wakeAll) ∧
  (∀ (n : StreamId) (tick : Word) (key : FrameKey) (deadline : Deadline) (cls : Cls) (e : Entry) (s : State),
      s.region.engine ≠ .halted → s.buffer.passWanted = true →
      s.buffer.waiters = [.request n tick key deadline cls] → (∀ y ∈ s.buffer.dir, y.key = key → y.state = .failed) →
      s.buffer.dir.length < 4096 → s.decoder.plan key = .held → e ∈ (s.stream n).window → e.tick = tick →
      (∀ z ∈ (s.stream n).window, z.tick = tick → z = e) →
      let pages := ((s.clip key.clip).bytes + 1048575) / 1048576
      let target := if pages = 0 then 0 else match cls with | .play => pages | .scrub => pages + s.buffer.reserve
      (s.buffer.dir.map fun y => y.pages.length).sum + target ≤ 32768 →
      ∃ u : State, exec .servicePass s = .next u.wakeAll ∧
        ∀ i : Fin 8,
          ((s.stream n).marks[i] = none → (u.stream n).marks[i] = none) ∧
          ∀ m : Mark, (s.stream n).marks[i] = some m →
            let due :=
              m.kind = .fetched ∧ m.clip = key.clip ∧ m.frame = key.frame ∧
                (m.cond = .any ∨ m.cond = .forward ∧ e.direction = .forward ∨ m.cond = .reverse ∧ e.direction = .reverse)
            let fires := m.limit = none ∨ m.limit = some (m.count + 1)
            (due → fires →
              u.Notified (.ftch n i m.clip m.serial m.frame tick) s.et ∧
                (u.stream n).marks[i] = some (if m.limit = none then m else { m with count := 0 })) ∧
            (due → ¬ fires → (u.stream n).marks[i] = some { m with count := m.count + 1 }) ∧
            (¬ due → (u.stream n).marks[i] = some m) ∧
            (¬ (due ∧ fires) →
              ∀ (c : Fin 256) (g : Word) (f : Nat) (z : Word) (at_ : Time),
                (⟨.ftch n i c g f z, at_⟩ : Notice) ∈ u.region.notices → (⟨.ftch n i c g f z, at_⟩ : Notice) ∈ s.region.notices))

/-- A request whose frame decodes to chunks on TRAINING links, with resources enough, is served (R115, R117, R26): a FILLING
directory entry with its pages takes the request's deadline and class, each chunk of the plan takes a record that joins its
member's queue in frame order (R24, R129), the layout entries' in-flight counts rise by their chunks (R32), and the window
entry is FETCHING with a reference to the entry. -/
def Obligations.ServicePassDecodesAFrame : Prop :=
  ∀ (n : StreamId) (tick : Word) (key : FrameKey) (deadline : Deadline) (cls : Cls) (ps : List Piece) (s : State),
    s.region.engine ≠ .halted → s.buffer.passWanted = true →
    s.buffer.waiters = [.request n tick key deadline cls] → (∀ y ∈ s.buffer.dir, y.key = key → y.state = .failed) →
    s.buffer.dir.length < 4096 → s.decoder.plan key = .mapped ps → (ps.map Piece.offset).Nodup →
    (∀ p ∈ ps, (s.member p.member).link = .training) →
    (∀ (i : Fin 8) (m : Mark), (s.stream n).marks[i] = some m → m.kind = .shown) →
    (∀ c ∈ s.dispatcher.chunks, ∃ y ∈ s.buffer.dir, y.id = c.frame) → s.dispatcher.chunks.length + ps.length ≤ 8192 →
    let x := s.stream n
    let bytes := (s.clip key.clip).bytes
    let pages := (bytes + 1048575) / 1048576
    let target := if pages = 0 then 0 else match cls with | .play => pages | .scrub => pages + s.buffer.reserve
    (s.buffer.dir.map fun y => y.pages.length).sum + target ≤ 32768 →
    ∃ (id : Nat) (taken : List Nat) (u : State), exec .servicePass s = .next u.wakeAll ∧ id < 4096 ∧
      (∀ y ∈ s.buffer.dir, y.id ≠ id) ∧ taken.length = pages ∧ taken.Nodup ∧
      (∀ p ∈ taken, p < 32768 ∧ ∀ y ∈ s.buffer.dir, p ∉ y.pages) ∧ Calm (fun k => k = n) s u ∧
      u.buffer =
        { s.buffer with
          dir :=
            s.buffer.dir ++
              [⟨id, .filling, key, false, bytes, taken, .produced, ps.length, ps.length, 1, deadline, cls, none⟩]
          waiters := [], passWanted := false } ∧
      u.dispatcher.chunks =
        s.dispatcher.chunks ++
          ps.mapIdx (fun i p =>
            ({ frame := id, offset := p.offset, layout := p.layout, member := p.member, alternate := p.alternate
               altTried := false, block := p.block, count := p.count, deadline := deadline, cls := cls
               arrival := s.dispatcher.arrival + BitVec.ofNat 64 i, firstIssue := none, holdoff := none
               state := .queued } : Chunk)) ∧
      (∀ e : Fin 16, u.decoder.layout[e].inFlight = s.decoder.layout[e].inFlight + ps.countP fun p => p.layout = e) ∧
      u.stream n =
        { x with window := x.window.map fun y => if y.tick = tick then { y with stage := .fetching, ref := some id } else y }

/-! ### Member links (R124, R125, R129 to R142, R160) -/

/-- A partner on a DOWN link brings TRAINING (R124), and ATTACH brings a TRAINING link UP with the capacity that it
gives, at most 2^48, and MBUP (R124, R160), which precedes the notices of the issue opportunity that follows: the model's
choice (log 19, DESIGN CHOICE). Either changes nothing on a link in another state, nor in HALTED (R143).
The loss of a member link (R124, R125): an UP or STALLED link becomes DOWN, every tag of it FREE, its capacity kept,
with MDWN of cause LOST and the outstanding count before; a TRAINING link becomes DOWN; a DOWN link stays so, and
HALTED keeps every link (R143). -/
def Obligations.MemberLinksComeAndGo : Prop :=
  ((∀ (m : MemberId) (s : State), s.region.engine ≠ .halted → (s.member m).link = .down →
        exec (.linkPartnerDetected m) s = .next (s.setMember m { s.member m with link := .training })) ∧
    (∀ (m : MemberId) (s : State), (s.region.engine = .halted ∨ (s.member m).link ≠ .down) →
        exec (.linkPartnerDetected m) s = .next s) ∧
    (∀ (m : MemberId) (b : List Byte) (s : State), u8 b 0 = 4 → b.length = 16 →
        (s.region.engine ≠ .halted → (s.member m).link = .training →
          let capacity := min (u64 b 8) (2 ^ 48)
          ∃ t, exec (.attach m b) s = .next t ∧
            Calm (fun n => (s.stream n).Waits)
              ((s.setMember m { s.member m with link := .up, capacity := capacity }).raise (.mbup m .training capacity)) t) ∧
        (s.region.engine = .halted ∨ (s.member m).link ≠ .training → exec (.attach m b) s = .next s))) ∧
  (∀ (m : MemberId) (s : State),
      (s.region.engine = .halted ∨ (s.member m).link = .down → exec (.memberLinkLost m) s = .next s) ∧
      (s.region.engine ≠ .halted → (s.member m).link = .training →
        ∃ t, exec (.memberLinkLost m) s = .next t ∧
          Calm (fun n => (s.stream n).Waits) (s.setMember m { s.member m with link := .down }) t) ∧
      (s.region.engine ≠ .halted → ((s.member m).link = .up ∨ (s.member m).link = .stalled) →
        ∃ t, exec (.memberLinkLost m) s = .next t ∧ Mild (fun n => (s.stream n).Waits) s t ∧
          (t.member m).link = .down ∧ (t.member m).capacity = (s.member m).capacity ∧
          (∀ g : Fin 32, (t.member m).tags[g] = .free) ∧
          (∀ k : MemberId, k ≠ m → (s.member k).Keeps (t.member k)) ∧
          t.Notified (.mdwn m .lost ((List.finRange 32).countP fun g => (s.member m).tags[g] != .free)) s.et))

/-- DATA for an ISSUED tag and an offset below the chunk's count (R134, R104): its 4,096 bytes go to their place in the
frame's pages, every other byte of the frame store is unchanged, and the offset has arrived; nothing else changes. DATA for
another tag or offset is discarded. -/
def Obligations.DataFillsTheFrame : Prop :=
  (∀ (m : MemberId) (b : List Byte) (s : State) (g : Fin 32), s.region.engine ≠ .halted → u8 b 0 = 2 → b.length = 4104 →
      u8 b 1 = g.val →
      (∀ (d o a : Nat) (x : Option Time) (l : List Nat) (c : Chunk) (y : DirEntry), (s.member m).tags[g] = .issued d o x l →
        s.chunk d o = some c → u16 b 2 < c.count → s.dirEntry d = some y →
        y.pages[(o + 4096 * u16 b 2) / 1048576]? = some a →
        let place := a * 1048576 + (o + 4096 * u16 b 2) % 1048576
        let tag : TagState := .issued d o x (if u16 b 2 ∈ l then l else l ++ [u16 b 2])
        ∃ store, exec (.data m b) s =
            .next
              { s.setMember m { s.member m with tags := (s.member m).tags.set g tag } with
                buffer := { s.buffer with store := store } } ∧
          ∀ z, readByte store z =
            if place ≤ z ∧ z < place + 4096 then b.getD (8 + (z - place)) 0 else readByte s.buffer.store z) ∧
      ((∀ d o x l, (s.member m).tags[g] ≠ .issued d o x l) → exec (.data m b) s = .next s) ∧
      (∀ (d o : Nat) (x : Option Time) (l : List Nat) (c : Chunk), (s.member m).tags[g] = .issued d o x l →
        s.chunk d o = some c → c.count ≤ u16 b 2 → exec (.data m b) s = .next s)) ∧
  (∀ (m : MemberId) (b : List Byte) (s : State), s.region.engine = .halted → exec (.data m b) s = .next s)

/-- DONE for an ISSUED tag frees the tag and settles its chunk (R135, R118, R142): OK with every offset arrived makes the
chunk DONE, and the frame READY with its last chunk; OK with an offset missing is SHORT_DATA, MEDIUM_ERROR or a status above 3
is MEDIUM_ERROR, and RANGE_ERROR is final: without an untried alternate the frame is FAILED with that cause, and FAIL is
raised (R119, R141, R160). An issue opportunity follows (R132, R135): that it comes after the settling is the model's choice
(log 19). -/
def Obligations.DoneSettlesTheChunk : Prop :=
  ∀ (m : MemberId) (b : List Byte) (g : Fin 32) (d o : Nat) (ex : Option Time) (l : List Nat) (c : Chunk) (y : DirEntry)
    (s : State), s.region.engine ≠ .halted → u8 b 0 = 3 → b.length = 8 → u8 b 1 = g.val →
    (s.member m).tags[g] = .issued d o ex l → s.chunk d o = some c → s.dirEntry d = some y → y.state = .filling →
    y.decoding = .produced → y.users ≠ 0 → 1 ≤ y.unsettled →
    let w : State := s.setMember m { s.member m with tags := (s.member m).tags.set g .free }
    let whole := ∀ i, i < c.count → i ∈ l
    (u8 b 2 = 0 → whole →
      (y.unsettled = 1 →
        exec (.memberDone m b) s =
          .next
            ((({ w.settledAs c { y with unsettled := 0, state := .ready } with streams := s.reportedTo d .ready } :
                State).opportunity m).wakeAll)) ∧
      (2 ≤ y.unsettled →
        exec (.memberDone m b) s =
          .next (((w.settledAs c { y with unsettled := y.unsettled - 1 }).opportunity m).wakeAll))) ∧
    ((∀ z ∈ s.dispatcher.chunks, z.frame = d → z.state = .issued) →
      ((c.alternate = none ∨ c.altTried = true) →
        (u8 b 2 = 0 → ¬ whole →
          exec (.memberDone m b) s = .next (((w.chunkFailed c y .shortData).opportunity m).wakeAll)) ∧
        ((u8 b 2 = 2 ∨ 3 < u8 b 2) →
          exec (.memberDone m b) s = .next (((w.chunkFailed c y .mediumError).opportunity m).wakeAll))) ∧
      (u8 b 2 = 3 → exec (.memberDone m b) s = .next (((w.chunkFailed c y .rangeError).opportunity m).wakeAll)))

/-- NOT_READY (R137): while 2^code ms since its first issue have not passed the chunk goes back to its queue with a holdoff of
65,536 ns; past them it fails with cause NOT_READY. A chunk that fails with an untried alternate, on a TRAINING link, goes to
the queue of the alternate as a new arrival (R141, R129). That the issue opportunity of the freed tag comes after this is the
model's choice (log 19). -/
def Obligations.RetriesAndFailovers : Prop :=
  ∀ (m : MemberId) (b : List Byte) (g : Fin 32) (d o : Nat) (ex : Option Time) (l : List Nat) (c : Chunk) (y : DirEntry)
    (f : Time) (s : State), s.region.engine ≠ .halted → u8 b 0 = 3 → b.length = 8 → u8 b 1 = g.val →
    (s.member m).tags[g] = .issued d o ex l → s.chunk d o = some c → s.dirEntry d = some y → y.state = .filling →
    y.users ≠ 0 → c.current = m → c.firstIssue = some f →
    let w : State := s.setMember m { s.member m with tags := (s.member m).tags.set g .free }
    let others := s.dispatcher.chunks.filter fun z => !(z.frame == d && z.offset == o)
    let queued (c : Chunk) : State :=
      { w with
        dispatcher :=
          { w.dispatcher with
            chunks := others ++ [{ c with arrival := s.dispatcher.arrival, state := .queued }]
            arrival := s.dispatcher.arrival + 1 } }
    (u8 b 2 = 1 → (s.member m).link = .up → (s.et - f).toNat < 2 ^ (s.member m).windowCode * 1000000 →
      exec (.memberDone m b) s =
        .next ((((queued { c with holdoff := some (s.et + 65536) }).opportunity m).opportunity m).wakeAll)) ∧
    (u8 b 2 = 1 → 2 ^ (s.member m).windowCode * 1000000 ≤ (s.et - f).toNat → (c.alternate = none ∨ c.altTried = true) →
      (∀ z ∈ s.dispatcher.chunks, z.frame = d → z.state = .issued) →
      exec (.memberDone m b) s = .next (((w.chunkFailed c y .notReady).opportunity m).wakeAll)) ∧
    (∀ k : MemberId, u8 b 2 = 2 → c.alternate = some k → c.altTried = false → (s.member k).link = .training →
      exec (.memberDone m b) s =
        .next
          (((queued { c with altTried := true, firstIssue := none, holdoff := none }).opportunity m).wakeAll))

/-- DONE for an ABANDONED tag frees the tag, and a STALLED link whose ABANDONED tags have become fewer than its credit limit
is UP again, with MBUP (R136, R139); DONE for a FREE tag, a message that R160 discards, and any message in HALTED change
nothing. -/
def Obligations.LateAndDiscardedAnswers : Prop :=
  (∀ (m : MemberId) (b : List Byte) (g : Fin 32) (s : State), u8 b 0 = 3 → b.length = 8 → u8 b 1 = g.val →
      ((s.member m).tags[g] = .free → exec (.memberDone m b) s = .next s) ∧
      (s.region.engine = .halted → exec (.memberDone m b) s = .next s) ∧
      (s.region.engine ≠ .halted → (s.member m).tags[g] = .abandoned →
        let left := (List.finRange 32).countP fun h => h != g && (s.member m).tags[h] == .abandoned
        let x : Member := { s.member m with tags := (s.member m).tags.set g .free }
        ((s.member m).link = .stalled → left < (s.member m).limit →
          exec (.memberDone m b) s =
            .next
              (((((s.setMember m { x with link := .up }).raise (.mbup m .stalled x.capacity)).opportunity m).opportunity
                  m).wakeAll)) ∧
        ((s.member m).link = .stalled → (s.member m).limit ≤ left →
          exec (.memberDone m b) s = .next (((s.setMember m x).opportunity m).wakeAll)) ∧
        ((s.member m).link = .up → left < (s.member m).limit →
          exec (.memberDone m b) s = .next (((s.setMember m x).opportunity m).wakeAll)))) ∧
  (∀ (m : MemberId) (b : List Byte) (s : State),
      (¬ (u8 b 0 = 2 ∧ b.length = 4104 ∧ u8 b 1 < 32) ∧ ¬ (u8 b 0 = 3 ∧ b.length = 8 ∧ u8 b 1 < 32) ∧
          ¬ (u8 b 0 = 4 ∧ b.length = 16) ∨ s.region.engine = .halted) →
      exec (.memberMessageDiscard m b) s = .next s)

/-- An ISSUED tag whose expiry has been reached becomes ABANDONED and its chunk fails on the member with cause TIMEOUT
(R138, R139): without an untried alternate the frame is FAILED and FAIL is raised; when the ABANDONED tags come to the
credit limit the link is STALLED, with MSTL. Before its expiry, without one, and in HALTED nothing happens. The expiry
of a READ issued at ET `e` under timeout code 1 to 10 is a whole multiple of U = 2^(13 + code) ns, later than `e` by
more than three U and by no more than four; under code 0 there is none (R138, 8.7). -/
def Obligations.TagsExpire : Prop :=
  (∀ (m : MemberId) (g : Fin 32) (s : State),
      ((s.region.engine = .halted ∨ (∀ d o x l, (s.member m).tags[g] ≠ .issued d o (some x) l) ∨
          ∃ d o x l, (s.member m).tags[g] = .issued d o (some x) l ∧ s.et.toNat < x.toNat) →
        exec (.tagExpiry m g) s = .next s) ∧
      (∀ (d o : Nat) (x : Time) (l : List Nat) (c : Chunk) (y : DirEntry), s.region.engine ≠ .halted →
        (s.member m).tags[g] = .issued d o (some x) l → x.toNat ≤ s.et.toNat → s.chunk d o = some c →
        s.dirEntry d = some y → y.state = .filling → y.users ≠ 0 → (c.alternate = none ∨ c.altTried = true) →
        (∀ z ∈ s.dispatcher.chunks, z.frame = d → z.state = .issued) →
        let count := 1 + (List.finRange 32).countP fun h => (s.member m).tags[h] == .abandoned
        let w : State :=
          (s.setMember m { s.member m with tags := (s.member m).tags.set g .abandoned }).chunkFailed c y .timeout
        ((s.member m).link = .up → count < (s.member m).limit → exec (.tagExpiry m g) s = .next w.wakeAll) ∧
        ((s.member m).link = .up → (s.member m).limit ≤ count →
          ∃ t, exec (.tagExpiry m g) s = .next t ∧ Mild (fun n => (s.stream n).Waits) s t ∧
            (t.member m).link = .stalled ∧ (t.member m).tags[g] = .abandoned ∧
            t.Notified (.mstl m count (s.member m).limit) s.et ∧
            t.Notified (.fail y.key .timeout (some (c.current, c.block)) y.total (y.unsettled - 1) y.users) s.et))) ∧
  (∀ (e : Time) (code : Nat),
      expiryAt e 0 = none ∧
      (1 ≤ code → code ≤ 10 → e.toNat + 4 * 2 ^ (13 + code) < 2 ^ 64 →
        ∃ x : Time, expiryAt e code = some x ∧ 2 ^ (13 + code) ∣ x.toNat ∧ e.toNat + 3 * 2 ^ (13 + code) < x.toNat ∧
          x.toNat ≤ e.toNat + 4 * 2 ^ (13 + code)))

/-- A reached holdoff end gives its member an issue opportunity (R137, R132), and no other does. On it the only QUEUED chunk
of the member, if it is eligible and within the capacity, is issued under the lowest FREE tag with READ, its expiry being
that of R138 (R133); a chunk that passes the capacity fails finally with RANGE_ERROR without a READ (R132, R141), and its
frame with FAIL (R118, R119). -/
def Obligations.HoldoffEndIssuesAChunk : Prop :=
  (∀ (m : MemberId) (s : State),
      (s.region.engine = .halted ∨
        ∀ c ∈ s.dispatcher.chunks, c.state = .queued → c.current = m → ∀ x, c.holdoff = some x → s.et.toNat < x.toNat) →
      exec (.holdoffEnd m) s = .next s) ∧
  (∀ (m : MemberId) (s : State) (c : Chunk) (x : Time), s.Settled → s.region.engine = .running →
      (s.member m).link = .up → c ∈ s.dispatcher.chunks → c.state = .queued → c.current = m → c.holdoff = some x →
      x.toNat ≤ s.et.toNat → (∀ z ∈ s.dispatcher.chunks, z.state = .queued → z.current = m → z = c) →
      let outstanding := (List.finRange 32).countP fun h => (s.member m).tags[h] != .free
      outstanding < (s.member m).limit →
      (c.cls = .scrub → (s.member m).limit - (s.member m).reserve ≤ outstanding → exec (.holdoffEnd m) s = .next s) ∧
      ((c.cls = .scrub → outstanding < (s.member m).limit - (s.member m).reserve) →
        (∀ g : Fin 32, c.block + c.count ≤ (s.member m).capacity → (s.member m).tags[g] = .free →
          (∀ h : Fin 32, h < g → (s.member m).tags[h] ≠ .free) →
          let issued : Chunk :=
            { c with state := .issued, holdoff := none, firstIssue := some (c.firstIssue.getD s.et) }
          let tag : TagState := .issued c.frame c.offset (expiryAt s.et (s.member m).timeoutCode) []
          let member : Member := { s.member m with tags := (s.member m).tags.set g tag }
          exec (.holdoffEnd m) s =
            .next
              { s with
                dispatcher :=
                  { s.dispatcher with
                    members := s.dispatcher.members.set m member
                    chunks :=
                      (s.dispatcher.chunks.filter fun z => !(z.frame == c.frame && z.offset == c.offset)) ++ [issued] }
                sent :=
                  s.sent ++ [.memberMessage m (le 1 1 ++ le 1 g.val ++ le 2 c.count ++ le 4 0 ++ le 8 c.block)] }) ∧
        (∀ y, (s.member m).capacity < c.block + c.count → s.dirEntry c.frame = some y → y.state = .filling → y.users ≠ 0 →
          (∀ z ∈ s.dispatcher.chunks, z.frame = c.frame → z = c) →
          exec (.holdoffEnd m) s = .next (s.chunkFailed c y .rangeError).wakeAll)))

/-! ### Egress ports (R144, R150 to R157) -/

/-- FRAGMENT_ELIGIBLE (R151, R152): on an UP port that is not transmitting, the next message of the presentation with the
earliest deliver time, the lowest stream among equals, begins: the transmitter sends it, it is owed no more, and with the
last message of a fragment the messages of the next fragment are owed to the unmuted recipients. Without an eligible message,
on a DOWN or transmitting port, and in HALTED, nothing begins. -/
def Obligations.ArbiterSendsTheEarliestMessage : Prop :=
  (∀ (p : Port) (s : State),
      (s.region.engine = .halted ∨ (s.port p).up = false ∨ (s.port p).transmitting ≠ none ∨ ∀ n x, ¬ s.Sendable p n x) →
      exec (.fragmentEligible p) s = .next s) ∧
  (∀ (p : Port) (n : StreamId) (x : Presentation) (r : Recipient) (rest : List Recipient) (v : Viewer) (s : State),
      s.region.engine ≠ .halted → (s.port p).up = true → (s.port p).transmitting = none → s.Chosen p n x →
      x.todo = r :: rest → (s.stream n).viewers[r.viewer] = some v →
      let unmuted := x.recipients.filter fun g => !g.muted
      let rounds := match x.sentAs with | .frame _ b _ => (b + 8191) / 8192 | _ => 1
      let left : Presentation :=
        if rest = [] ∧ x.fragment + 1 < rounds ∧ unmuted ≠ [] then { x with fragment := x.fragment + 1, todo := unmuted }
        else { x with todo := rest }
      let message : Message :=
        match x.sentAs with
        | .frame _ b d =>
          if r.muted then ⟨r.viewer, none, true⟩
          else
            ⟨r.viewer,
              some
                (x.fragment * 8192,
                  s.frameBytes d (x.fragment * 8192) (min ((x.fragment + 1) * 8192) b - x.fragment * 8192)),
              x.fragment + 1 == rounds⟩
        | _ => ⟨r.viewer, none, true⟩
      exec (.fragmentEligible p) s =
        .next
          (((s.setPort p { s.port p with transmitting := some ⟨n, x.tick, r.viewer⟩ }).setPresentation n (some left)).emit
            (.delivery p (deliveryBytes n x v message))))

/-- The bytes of a delivery message (R153, 10.7): the viewer's Ethernet address first and the port's station address next,
type 0800H, an IPv4 header with identification 0, don't-fragment set and the source 169.254.a.b, whose length counts all that
follows it and whose words sum to FFFFH, UDP from port 49,152 plus the stream number to the viewer's port with checksum 0, a
48-byte delivery header with every field of R153, reserved bytes 0, and the payload. -/
def Obligations.DeliveryMessageLayout : Prop :=
  ∀ (n : StreamId) (p : Presentation) (v : Viewer) (m : Message), v.ethernet.length = 6 → v.ipv4.length = 4 →
    m.payload.length ≤ 8192 →
    let b := deliveryBytes n p v m
    let big (i : Nat) := 256 * u8 b i + u8 b (i + 1)
    b.length = 90 + m.payload.length ∧ b.take 6 = v.ethernet ∧ bytesAt b 30 4 = v.ipv4 ∧
      (∀ i, i < 6 → u8 b (6 + i) = (Config.stationByte (portCode p.port) i).toNat) ∧ big 12 = 0x0800 ∧ u8 b 14 = 69 ∧
      big 16 = 76 + m.payload.length ∧ big 18 = 0 ∧ big 20 = 0x4000 ∧ u8 b 22 = 64 ∧ u8 b 23 = 17 ∧ u8 b 26 = 169 ∧
      u8 b 27 = 254 ∧ (∀ i, i < 2 → u8 b (28 + i) = (Config.stationByte (portCode p.port) (4 + i)).toNat) ∧
      (∃ k, 1 ≤ k ∧ ((List.range 10).map fun i => big (14 + 2 * i)).sum = k * 65535) ∧ big 34 = 49152 + n.val ∧
      (v.udpPort < 65536 → big 36 = v.udpPort) ∧ big 38 = 56 + m.payload.length ∧ big 40 = 0 ∧ u8 b 42 = 1 ∧
      (u8 b 43 = 0 ↔ ∃ k s d, p.sentAs = .frame k s d) ∧ (u8 b 43 = 1 ↔ ∃ k, p.sentAs = .repeated k) ∧
      (∀ r, p.sentAs = .fill r →
        u8 b 43 = 2 ∧ u8 b 44 = (match r with | .gap => 1 | .missing => 2 | .failed => 3) ∧ u8 b 48 = 0 ∧ u32 b 54 = 0) ∧
      ((∀ r, p.sentAs ≠ .fill r) → u8 b 44 = 0) ∧
      u8 b 45 = (if m.last then 1 else 0) + (if p.marked then 2 else 0) + (if p.listEnd then 4 else 0) ∧
      u8 b 46 = n.val ∧ u8 b 47 = m.viewer.val ∧ u8 b 49 = 0 ∧ u32 b 50 = p.tick.toNat ∧
      (∀ k, ((∃ s d, p.sentAs = .frame k s d) ∨ p.sentAs = .repeated k) →
        u8 b 48 = k.clip.val ∧ (k.frame < 2 ^ 32 → u32 b 54 = k.frame)) ∧
      (∀ k s d, p.sentAs = .frame k s d → s < 2 ^ 32 → u32 b 58 = s) ∧
      ((∀ k s d, p.sentAs ≠ .frame k s d) → u32 b 58 = 0) ∧
      (m.fragment = none → u32 b 62 = 0 ∧ u32 b 66 = 0) ∧
      (∀ o bytes, m.fragment = some (o, bytes) → (o < 2 ^ 32 → u32 b 62 = o) ∧ u32 b 66 = bytes.length) ∧
      u32 b 70 = p.deliver.toNat % 2 ^ 32 ∧ bytesAt b 74 16 = List.replicate 16 0 ∧ b.drop 90 = m.payload

/-- The fragments of a frame of `b` bytes (R151): ceil(b / 8,192) of them, each of 1 to 8,192 bytes, one after another over
the whole frame; and the last is eligible no later than the transmit allowance of R69 after the start. -/
def Obligations.FragmentsTileTheFrame : Prop :=
  ∀ b e : Nat, 1 ≤ b → 1 ≤ e →
    8192 * (fragmentCount b - 1) < b ∧ b ≤ 8192 * fragmentCount b ∧
      (∀ j, j < fragmentCount b → 1 ≤ fragmentLength b j ∧ fragmentLength b j ≤ 8192) ∧
      (∀ j, j ≤ fragmentCount b → ((List.range j).map (fragmentLength b)).sum = min (j * 8192) b) ∧
      pacing e 0 = 0 ∧ (∀ j k, j ≤ k → pacing e j ≤ pacing e k) ∧ pacing e (fragmentCount b - 1) ≤ allowance b e

/-- MESSAGE_SENT (R152, R154): a port that is not transmitting, and HALTED, know none. While messages of the presentation are
still owed the arbiter chooses again. With the last of them the presentation of a HELD stream is complete (R96): its record
is dropped, its entry leaves the window, the last shown fields are the entry's, and of each frame mark that tagged a frame
sent as FRAME the count rule says whether SHWN is raised (R101). In any other state the completion is followed by the next
turn, by what it wakes and by the arbiter's next choice, and (R96): a RUNNING stream projects on (R92); an entry with a
list-end mark parks its stream, with ENDL (R54, R89); a locate entry completes its locate, with LOCD and the then-action, a
run from PLAY being anchored at the ET at which the entry began (R56, R74); and a HOLD mark that fires holds a RUNNING stream
with the release set RESUME, with HLDN (R102). The order of completion, next turn, waking and arbiter in one step is the
model's choice: log 17 (DEDUCED) and log 19 (DESIGN CHOICE). -/
def Obligations.MessagesEndPresentations : Prop :=
  (∀ (p : Port) (s : State), (s.region.engine = .halted ∨ (s.port p).transmitting = none) →
      exec (.messageSent p) s = .next s) ∧
  (∀ (p : Port) (t : Transmission) (x : Presentation) (s : State), s.Settled → s.region.engine ≠ .halted →
      (s.port p).transmitting = some t → s.presentation t.stream = some x → x.todo ≠ [] →
      exec (.messageSent p) s = exec (.fragmentEligible p) (s.setPort p { s.port p with transmitting := none })) ∧
  (∀ (p : Port) (t : Transmission) (x : Presentation) (e : Entry) (k : FrameKey) (s : State), s.Settled →
      s.region.engine ≠ .halted → (s.port p).transmitting = some t → s.presentation t.stream = some x → x.port = p →
      x.todo = [] → (s.stream t.stream).state = .held → (s.stream t.stream).sendingEntry = some e → e.listEnd = none →
      (s.stream t.stream).locate = none → e.frame = some k →
      let n := t.stream
      ∃ u : State, exec (.messageSent p) s = .next u ∧
        Calm (fun i => i = n) (s.setPort p { s.port p with transmitting := none }) u ∧ u.presentation n = none ∧
        (u.stream n).state = .held ∧ (u.stream n).window.map Entry.core = (s.stream n).unsent.map Entry.core ∧
        (u.stream n).shownTick = e.tick ∧ (u.stream n).shownClip.toNat = k.clip.val ∧
        (u.stream n).shownFrame = BitVec.ofNat 32 k.frame ∧ u.region.marks[n] = true ∧
        (∀ (g : Tag) (m : Mark), e.tags = [g] → (s.stream n).marks[g.slot] = some m → m.serial = g.serial →
          (∃ key b d, e.sentAs = some (.frame key b d)) →
          let fires := m.limit = none ∨ m.limit = some (m.count + 1)
          (fires → u.Notified (.shwn n g.slot e.direction m.clip m.serial m.frame e.tick) s.et) ∧
          (u.stream n).marks[g.slot] =
            some { m with count := if m.limit = none then m.count else if m.limit = some (m.count + 1) then 0 else m.count + 1 })) ∧
  (∀ (p : Port) (n : StreamId) (e : Entry) (s : State), s.Ends p n e →
      ∃ w : State, exec (.messageSent p) s = .next (((w.turnIfDue n).wakeAll).transmit p) ∧ s.Completed w p n e ∧
        let x := s.stream n
        let y := w.stream n
        (x.state = .running → e.listEnd = none → x.locate = none → x.Unheld e →
          ∃ added, y.state = .running ∧ y.speed = x.speed ∧ y.window.map Entry.core = (x.unsent ++ added).map Entry.core ∧
            x.Projected x.speed added ∧ (x.depth ≤ 16 → y.Filled)) ∧
        (∀ which, (x.state = .running ∨ x.state = .held) → e.listEnd = some which →
          y.state = .parked ∧ y.speed = 0 ∧ y.shown = false ∧ y.releaseTime = none ∧ y.releaseResume = false ∧
            y.window = [] ∧
            (∀ k, e.frame = some k →
              w.Notified
                (.endl n which e.cue e.offset e.tick true (BitVec.ofNat 8 k.clip) (BitVec.ofNat 32 k.frame)) s.et) ∧
            (e.frame = none → ∃ a b, w.Notified (.endl n which e.cue e.offset e.tick false a b) s.et)) ∧
        (∀ l, x.state = .seeking → e.listEnd = none → e.locate = true → x.locate = some l → l.projected = true →
          y.locate = none ∧
            w.Notified (.locd l.ref n (if e.sentAs = some (.fill .failed) then .failed else .ok) l.cue l.offset) s.et ∧
            (l.thenPlay = false →
              y.state = .parked ∧ y.speed = 0 ∧ y.shown = false ∧ y.window.map Entry.core = x.unsent.map Entry.core) ∧
            (l.thenPlay = true → x.Unheld e →
              ∃ added, y.state = .running ∧ y.speed = l.thenSpeed ∧ y.proj.anchor = e.deliver ∧
                y.window.map Entry.core = (x.unsent ++ added).map Entry.core ∧ x.Projected l.thenSpeed added ∧
                (x.depth ≤ 16 → y.Filled) ∧ (x.Paced → x.RunTimes e.deliver 1 added) ∧
                ∀ z, added[0]? = some z →
                  z.cue = (advance x.cues l.thenSpeed l.cue l.offset (liveCounters x.cues)).cue ∧
                    z.offset = (advance x.cues l.thenSpeed l.cue l.offset (liveCounters x.cues)).offset)) ∧
        (∀ (g : Tag) (m : Mark), x.state = .running → e.listEnd = none → x.locate = none → e.tags = [g] →
          x.marks[g.slot] = some m → m.serial = g.serial → (∃ key b d, e.sentAs = some (.frame key b d)) →
          m.action = .hold → (m.limit = none ∨ m.limit = some (m.count + 1)) →
          y.state = .held ∧ y.speed = x.speed ∧ y.releaseTime = none ∧ y.releaseResume = true ∧ y.slipEnd = none ∧
            y.window.map Entry.core = (x.unsent.map fun z => { z with deadline := none }).map Entry.core ∧
            w.Notified (.shwn n g.slot e.direction m.clip m.serial m.frame e.tick) s.et ∧
            w.Notified (.hldn n g.slot e.tick) s.et))

/-- The port links (R144, R156, R157): a DOWN port that gains its link is UP, with PTUP; a port that is UP already, a port that
is DOWN already, and a received frame change nothing. A port that loses its link is DOWN, with PDWN: it stops sending at once,
allocated rates stay, and a presentation that was being sent on it ends INTERRUPTED (R96): the last shown fields are set, no mark
tag is evaluated and no late policy applied. A HELD stream stays HELD, a RUNNING one projects on (R92), a list-end entry parks
its stream, with ENDL (R54, R89), and a locate entry completes its locate, with LOCD and the then-action (R56). A SLIP wait
on the port ends with FILL MISSING, INTERRUPTED at once, without shift, late count or LATE (R77). That PDWN comes before
these notices, and the lowest stream first, is the model's choice (log 19). In HALTED the link state alone follows, PDWN being
lost (R158, R21). -/
def Obligations.PortLinksChange : Prop :=
  ∀ (p : Port) (f : List Byte) (s : State),
    exec (.portFrameReceived p f) s = .next s ∧
    ((s.port p).up = true → exec (.portLinkUp p) s = .next s) ∧
    ((s.port p).up = false →
      exec (.portLinkDown p) s = .next s ∧
        exec (.portLinkUp p) s = .next ((s.setPort p { s.port p with up := true }).raise (.ptup p))) ∧
    ((s.port p).up = true → s.region.engine = .halted →
      exec (.portLinkDown p) s =
        .next
          { s.setPort p { s.port p with up := false } with region := { s.region with noticesLost := true } }) ∧
    ((s.port p).up = true → s.region.engine ≠ .halted → s.Silent →
      ∃ t, exec (.portLinkDown p) s = .next t ∧
        Calm (fun n => (s.stream n).state ≠ .closed ∧ (s.stream n).port = p ∨ (s.stream n).Waits)
          ((s.setPort p { s.port p with up := false }).raise (.pdwn p)) t ∧
        (t.port p).up = false ∧ (t.port p).transmitting = none ∧ t.Notified (.pdwn p) s.et ∧
        (∀ (n : StreamId) (e : Entry), (s.stream n).port = p → (s.stream n).sendingEntry = some e →
          let x := s.stream n
          let y := t.stream n
          let ended :=
            t.presentation n = none ∧ y.lateCount = x.lateCount ∧ y.marks = x.marks ∧ t.region.marks[n] = true ∧
              y.shownTick = e.tick ∧
              ∀ k, e.frame = some k → y.shownClip.toNat = k.clip.val ∧ y.shownFrame = BitVec.ofNat 32 k.frame
          (x.state = .held → e.listEnd = none → x.locate = none → ended ∧ y.state = .held ∧ y.sendingEntry = none) ∧
          (x.state = .running → e.listEnd = none → x.locate = none → x.slipEnd = none →
            ended ∧ y.state = .running ∧ y.speed = x.speed ∧
              ∃ added, y.window.map Entry.core = (x.unsent ++ added).map Entry.core ∧ x.Projected x.speed added ∧
                (x.depth ≤ 16 → y.Filled)) ∧
          (∀ which, (x.state = .running ∨ x.state = .held) → e.listEnd = some which →
            ended ∧ y.state = .parked ∧ y.speed = 0 ∧ y.shown = false ∧ y.window = [] ∧
              (∀ k, e.frame = some k →
                t.Notified
                  (.endl n which e.cue e.offset e.tick true (BitVec.ofNat 8 k.clip) (BitVec.ofNat 32 k.frame)) s.et) ∧
              (e.frame = none → ∃ a b, t.Notified (.endl n which e.cue e.offset e.tick false a b) s.et)) ∧
          (∀ l, x.state = .seeking → e.listEnd = none → e.locate = true → x.locate = some l → l.projected = true →
            x.slipEnd = none →
            ended ∧ y.locate = none ∧
              t.Notified (.locd l.ref n (if e.sentAs = some (.fill .failed) then .failed else .ok) l.cue l.offset) s.et ∧
              (l.thenPlay = false →
                y.state = .parked ∧ y.speed = 0 ∧ y.shown = false ∧ y.window.map Entry.core = x.unsent.map Entry.core) ∧
              (l.thenPlay = true →
                y.state = .running ∧ y.speed = l.thenSpeed ∧ y.proj.anchor = e.deliver ∧
                  ∃ added, y.window.map Entry.core = (x.unsent ++ added).map Entry.core ∧ x.Projected l.thenSpeed added ∧
                    (x.depth ≤ 16 → y.Filled)))) ∧
        (∀ (n : StreamId) (e : Entry) (rest : List Entry) (limit : Time), (s.stream n).port = p →
          (s.stream n).state = .running → (s.stream n).slipEnd = some limit → (s.stream n).sendingEntry = none →
          (s.stream n).window = e :: rest → (∀ z ∈ rest, z.tick ≠ e.tick) → e.listEnd = none → (s.stream n).locate = none →
          let x := s.stream n
          let y := t.stream n
          t.presentation n = none ∧ y.state = .running ∧ y.slipEnd = none ∧ y.sendingEntry = none ∧ y.cue = e.cue ∧
            y.offset = e.offset ∧ y.shown = true ∧ y.shownTick = e.tick ∧ y.cues = applyChanges e.changes x.cues ∧
            y.lateCount = x.lateCount ∧ y.proj.anchor = x.proj.anchor ∧ y.marks = x.marks ∧ t.region.marks[n] = true ∧
            (∃ added, y.window.map Entry.core = (rest ++ added).map Entry.core ∧ (x.depth ≤ 16 → y.Filled)) ∧
            ∀ o c k g w d at_, (⟨.late n o c k g w d at_, s.et⟩ : Notice) ∈ t.region.notices →
              (⟨.late n o c k g w d at_, s.et⟩ : Notice) ∈ s.region.notices))

/-! ### Mapping, queues and advances (R23, R24, R83, R85, R86, R113, R129) -/

/-- The mapping of a volume block (R23): its stripe, row and column give its member, its alternate and its member
block; the member blocks stay below 2^48, and two blocks of the definition's range never share a member block of one
member. The chunks that a frame splits into (R24, R25): a MAPPED plan is of a defined clip of the key's generation and
a frame of it; the chunks lie one after another over the frame's bytes and cover exactly its blocks; and every block
of a chunk is the one that the ACTIVE definition covering its volume block maps it to. -/
def Obligations.MappingAndPlan : Prop :=
  (∀ d : LayoutDef, d.fieldsOk = true → 1 ≤ d.members.length →
      (∀ a, d.first ≤ a → a ≤ d.last →
        let stripe := (a - d.first) / d.chunk
        let row := stripe / d.members.length
        let column := if d.interleave = .rotate then stripe % d.members.length else (stripe + row) % d.members.length
        d.members[column]? = some (d.memberOf a) ∧ (∀ l, d.alternates = some l → d.alternateOf a = l[column]?) ∧
          d.blockOf a = d.base + row * d.chunk + (a - d.first) % d.chunk ∧ d.blockOf a < 2 ^ 48) ∧
      (∀ a b, d.first ≤ a → a ≤ d.last → d.first ≤ b → b ≤ d.last → d.memberOf a = d.memberOf b →
        d.blockOf a = d.blockOf b → a = b)) ∧
  (∀ (s : Decoder) (key : FrameKey) (ps : List Piece), s.plan key = .mapped ps →
      let c := s.clips[key.clip]
      c.defined = true ∧ c.generation = key.generation ∧ key.frame < c.frames ∧ (ps.map Piece.count).sum = c.blocks ∧
      ∀ (i : Nat) (p : Piece), ps[i]? = some p →
        1 ≤ p.count ∧ p.offset = 4096 * ((ps.take i).map Piece.count).sum ∧
        ∀ j, j < p.count →
          let a := c.first + c.head + key.frame * c.blocks + p.offset / 4096 + j
          ∃ d, s.layout[p.layout].state = .active d ∧ d.first ≤ a ∧ a ≤ d.last ∧ p.member = d.memberOf a ∧
            p.alternate = d.alternateOf a ∧ p.block + j = d.blockOf a)

/-- Queue order (R129, R113): the chunk that an arbiter takes from a list comes before no other of it, by deadline with "none"
last and then by arrival, and an empty list alone gives none; and the wait list takes a waiter before the first whose deadline
is later, after those of its own deadline. The reclaim list (R112): when a user's reference is released (R107) and no user is
left (R120), a READY entry joins its tail, a FAILED one without unsettled chunks is freed (R121), a FILLING one goes on at the
deadline "none" and class SCRUB, and a stale one is freed once no chunk of it is unsettled (R122); a frame that becomes READY
without users joins the tail too (R118). An entry that is marked stale leaves the list (R122). A user's deadline lowers the
entry's and its chunks', and never raises them (R108). -/
def Obligations.QueuesAreOrdered : Prop :=
  (∀ l : List Chunk, (firstInQueue l = none ↔ l = []) ∧
      ∀ c, firstInQueue l = some c → c ∈ l ∧ ∀ z ∈ l, ¬ (earlier z.deadline c.deadline = true ∨
        z.deadline = c.deadline ∧ z.arrival.toNat < c.arrival.toNat)) ∧
  (∀ (w : Waiter) (l : List Waiter), List.Pairwise (fun a b => earlier b.deadline a.deadline = false) l →
      List.Pairwise (fun a b => earlier b.deadline a.deadline = false) (insertWaiter w l) ∧
        ∃ before after, l = before ++ after ∧ insertWaiter w l = before ++ w :: after ∧
          (∀ x ∈ before, earlier w.deadline x.deadline = false) ∧ (∀ x ∈ after, earlier w.deadline x.deadline = true)) ∧
  (∀ (y : DirEntry) (s : State), s.HasEntry y →
      let left : DirEntry := { y with users := y.users - 1 }
      let w := s.withEntry left
      (2 ≤ y.users → s.release y.id = w) ∧
      (y.users = 1 → y.stale = false →
        (y.state = .ready →
          s.release y.id =
            { w with buffer := { w.buffer with reclaim := s.buffer.reclaim ++ [y.id], passWanted := true } }) ∧
        (y.state = .failed → s.release y.id = if y.unsettled = 0 then s.withoutEntry y.id else w) ∧
        (y.state = .filling → y.decoding ≠ .awaiting → (∀ z ∈ s.buffer.waiters, z.isFrame y.id = false) →
          s.release y.id =
            (s.withEntry { left with deadline := none, cls := .scrub }).withChunks y.id fun c =>
              { c with deadline := none, cls := .scrub })) ∧
      (s.NoneQueued y.id →
        (y.users = 1 → y.stale = true → s.release y.id = if y.unsettled = 0 then s.withoutEntry y.id else w) ∧
        (let marked := s.withEntry { y with stale := true }
         s.markStale y.id =
          if y.users = 0 ∧ y.unsettled = 0 then s.withoutEntry y.id
          else
            { marked with buffer := { marked.buffer with reclaim := s.buffer.reclaim.filter fun d => d != y.id } }) ∧
        (∀ d : Deadline,
          (earlier d y.deadline = false → s.reportDeadline y.id d = s) ∧
          (earlier d y.deadline = true → y.decoding ≠ .awaiting →
            s.reportDeadline y.id d =
              (s.withEntry { y with deadline := d }).withChunks y.id fun c => { c with deadline := d }))) ∧
      (y.users = 0 →
        (y.stale = true → s.frameReady y = s.withoutEntry y.id) ∧
        (y.stale = false →
          let whole := s.withEntry { y with state := .ready }
          s.frameReady y =
            { whole with
              buffer := { whole.buffer with reclaim := s.buffer.reclaim ++ [y.id], passWanted := true }
              streams := s.reportedTo y.id .ready })))

/-- The advance by S eighths, S from −256 to 256 (R83, R85, R86): from a position of a list that R79 accepts it ends at a
position of the list. Forward within a cue it adds S; at the end of a cue with loops left it goes back and counts one off; at
the end of a cue without a loop it goes on, and at the end of the list it stays on the last frame with AT_END. Backward from
the start of the list it stays at 0 with AT_START. The positions that orders name (R44, R55, R81) are clamped to the list: an
offset past its cue to the cue's last frame, a cue past the list to the last frame of the last cue. A step (R58) counts the
frames of every cue in list order, and stops at the first or the last. -/
def Obligations.AdvanceStaysInTheList : Prop :=
  (∀ (cues : List Cue) (speed : Int) (i o : Nat) (counters : List Nat) (c : Cue), CuesOk cues → -256 ≤ speed →
    speed ≤ 256 → cues[i]? = some c → o < c.length * 8 → counters.length = cues.length →
    let p := advance cues speed i o counters
    (∃ d, cues[p.cue]? = some d ∧ p.offset < d.length * 8) ∧ p.counters.length = cues.length ∧
    (0 < speed → o + speed.toNat < c.length * 8 → p = ⟨i, o + speed.toNat, counters, [], none⟩) ∧
    (∀ (l : Loop) (d : Cue) (v : Nat), 0 < speed → c.length * 8 ≤ o + speed.toNat → c.loop = some l →
      counters[i]? = some (v + 1) → cues[l.back]? = some d → o + speed.toNat - c.length * 8 < d.length * 8 →
      p = ⟨l.back, o + speed.toNat - c.length * 8, counters.set i v, [(i, v)], none⟩) ∧
    (∀ d : Cue, 0 < speed → c.length * 8 ≤ o + speed.toNat → c.loop = none → cues[i + 1]? = some d →
      o + speed.toNat - c.length * 8 < d.length * 8 →
      p = ⟨i + 1, o + speed.toNat - c.length * 8, counters, [], none⟩) ∧
    (0 < speed → c.length * 8 ≤ o + speed.toNat → c.loop = none → i + 1 = cues.length →
      p = ⟨i, (c.length - 1) * 8, counters, [], some .atEnd⟩) ∧
    (speed < 0 → 0 ≤ (o : Int) + speed → p = ⟨i, ((o : Int) + speed).toNat, counters, [], none⟩) ∧
    (speed < 0 → (o : Int) + speed < 0 → i = 0 → p = ⟨0, 0, counters, [], some .atStart⟩)) ∧
  (∀ (cues : List Cue) (i o : Nat),
      (∀ c, cues[i]? = some c →
        (o < c.length * 8 → clampPosition cues i o = (i, o, false)) ∧
        (c.length * 8 ≤ o → clampPosition cues i o = (i, (c.length - 1) * 8, true))) ∧
      (∀ c, cues.length ≤ i → cues.getLast? = some c →
        clampPosition cues i o = (cues.length - 1, (c.length - 1) * 8, true))) ∧
  (∀ (cues : List Cue) (i o k : Nat) (count : Int) (a : Nat × Nat), (frameList cues)[k]? = some (i, o / 8) →
      let want : Int := k + count
      let last := (frameList cues).length - 1
      (frameList cues)[if want < 0 then 0 else min want.toNat last]? = some a →
      stepTarget cues i o count = (a.1, a.2 * 8, decide (want < 0 ∨ (last : Int) < want)))
end

