-- ==== Sys2Proof/Laws/State.lean ====
section
/-! SUPPORT. What each update of the state leaves and writes, field by field. -/

namespace Sys2Proof.Machine

@[simp] theorem State.setRegion_region (s : State) (r : Region) : (s.setRegion r).region = r := rfl
@[simp] theorem State.setRegion_et (s : State) (r : Region) : (s.setRegion r).et = s.et := rfl
@[simp] theorem State.setRegion_decoder (s : State) (r : Region) : (s.setRegion r).decoder = s.decoder := rfl
@[simp] theorem State.setRegion_streams (s : State) (r : Region) : (s.setRegion r).streams = s.streams := rfl
@[simp] theorem State.setRegion_buffer (s : State) (r : Region) : (s.setRegion r).buffer = s.buffer := rfl
@[simp] theorem State.setRegion_dispatcher (s : State) (r : Region) : (s.setRegion r).dispatcher = s.dispatcher := rfl
@[simp] theorem State.setRegion_egress (s : State) (r : Region) : (s.setRegion r).egress = s.egress := rfl
@[simp] theorem State.setRegion_sent (s : State) (r : Region) : (s.setRegion r).sent = s.sent := rfl
@[simp] theorem State.setRegion_drawn (s : State) (r : Region) : (s.setRegion r).drawn = s.drawn := rfl
@[simp] theorem State.setRegion_pending (s : State) (r : Region) : (s.setRegion r).pending = s.pending := rfl

@[simp] theorem State.setDecoder_region (s : State) (d : Decoder) : (s.setDecoder d).region = s.region := rfl
@[simp] theorem State.setDecoder_et (s : State) (d : Decoder) : (s.setDecoder d).et = s.et := rfl
@[simp] theorem State.setDecoder_decoder (s : State) (d : Decoder) : (s.setDecoder d).decoder = d := rfl
@[simp] theorem State.setDecoder_streams (s : State) (d : Decoder) : (s.setDecoder d).streams = s.streams := rfl
@[simp] theorem State.setDecoder_buffer (s : State) (d : Decoder) : (s.setDecoder d).buffer = s.buffer := rfl
@[simp] theorem State.setDecoder_dispatcher (s : State) (d : Decoder) : (s.setDecoder d).dispatcher = s.dispatcher := rfl
@[simp] theorem State.setDecoder_egress (s : State) (d : Decoder) : (s.setDecoder d).egress = s.egress := rfl
@[simp] theorem State.setDecoder_sent (s : State) (d : Decoder) : (s.setDecoder d).sent = s.sent := rfl
@[simp] theorem State.setDecoder_drawn (s : State) (d : Decoder) : (s.setDecoder d).drawn = s.drawn := rfl
@[simp] theorem State.setDecoder_pending (s : State) (d : Decoder) : (s.setDecoder d).pending = s.pending := rfl

@[simp] theorem State.setBuffer_region (s : State) (b : FrameBuffer) : (s.setBuffer b).region = s.region := rfl
@[simp] theorem State.setBuffer_et (s : State) (b : FrameBuffer) : (s.setBuffer b).et = s.et := rfl
@[simp] theorem State.setBuffer_decoder (s : State) (b : FrameBuffer) : (s.setBuffer b).decoder = s.decoder := rfl
@[simp] theorem State.setBuffer_streams (s : State) (b : FrameBuffer) : (s.setBuffer b).streams = s.streams := rfl
@[simp] theorem State.setBuffer_buffer (s : State) (b : FrameBuffer) : (s.setBuffer b).buffer = b := rfl
@[simp] theorem State.setBuffer_dispatcher (s : State) (b : FrameBuffer) : (s.setBuffer b).dispatcher = s.dispatcher := rfl
@[simp] theorem State.setBuffer_egress (s : State) (b : FrameBuffer) : (s.setBuffer b).egress = s.egress := rfl
@[simp] theorem State.setBuffer_sent (s : State) (b : FrameBuffer) : (s.setBuffer b).sent = s.sent := rfl
@[simp] theorem State.setBuffer_drawn (s : State) (b : FrameBuffer) : (s.setBuffer b).drawn = s.drawn := rfl
@[simp] theorem State.setBuffer_pending (s : State) (b : FrameBuffer) : (s.setBuffer b).pending = s.pending := rfl

@[simp] theorem State.setDispatcher_region (s : State) (d : Dispatcher) : (s.setDispatcher d).region = s.region := rfl
@[simp] theorem State.setDispatcher_et (s : State) (d : Dispatcher) : (s.setDispatcher d).et = s.et := rfl
@[simp] theorem State.setDispatcher_decoder (s : State) (d : Dispatcher) : (s.setDispatcher d).decoder = s.decoder := rfl
@[simp] theorem State.setDispatcher_streams (s : State) (d : Dispatcher) : (s.setDispatcher d).streams = s.streams := rfl
@[simp] theorem State.setDispatcher_buffer (s : State) (d : Dispatcher) : (s.setDispatcher d).buffer = s.buffer := rfl
@[simp] theorem State.setDispatcher_dispatcher (s : State) (d : Dispatcher) : (s.setDispatcher d).dispatcher = d := rfl
@[simp] theorem State.setDispatcher_egress (s : State) (d : Dispatcher) : (s.setDispatcher d).egress = s.egress := rfl
@[simp] theorem State.setDispatcher_sent (s : State) (d : Dispatcher) : (s.setDispatcher d).sent = s.sent := rfl
@[simp] theorem State.setDispatcher_drawn (s : State) (d : Dispatcher) : (s.setDispatcher d).drawn = s.drawn := rfl
@[simp] theorem State.setDispatcher_pending (s : State) (d : Dispatcher) : (s.setDispatcher d).pending = s.pending := rfl

@[simp] theorem State.setEgress_region (s : State) (e : Egress) : (s.setEgress e).region = s.region := rfl
@[simp] theorem State.setEgress_et (s : State) (e : Egress) : (s.setEgress e).et = s.et := rfl
@[simp] theorem State.setEgress_decoder (s : State) (e : Egress) : (s.setEgress e).decoder = s.decoder := rfl
@[simp] theorem State.setEgress_streams (s : State) (e : Egress) : (s.setEgress e).streams = s.streams := rfl
@[simp] theorem State.setEgress_buffer (s : State) (e : Egress) : (s.setEgress e).buffer = s.buffer := rfl
@[simp] theorem State.setEgress_dispatcher (s : State) (e : Egress) : (s.setEgress e).dispatcher = s.dispatcher := rfl
@[simp] theorem State.setEgress_egress (s : State) (e : Egress) : (s.setEgress e).egress = e := rfl
@[simp] theorem State.setEgress_sent (s : State) (e : Egress) : (s.setEgress e).sent = s.sent := rfl
@[simp] theorem State.setEgress_drawn (s : State) (e : Egress) : (s.setEgress e).drawn = s.drawn := rfl
@[simp] theorem State.setEgress_pending (s : State) (e : Egress) : (s.setEgress e).pending = s.pending := rfl

@[simp] theorem State.setStream_region (s : State) (n : StreamId) (x : Stream) : (s.setStream n x).region = s.region := rfl
@[simp] theorem State.setStream_et (s : State) (n : StreamId) (x : Stream) : (s.setStream n x).et = s.et := rfl
@[simp] theorem State.setStream_decoder (s : State) (n : StreamId) (x : Stream) : (s.setStream n x).decoder = s.decoder := rfl
@[simp] theorem State.setStream_buffer (s : State) (n : StreamId) (x : Stream) : (s.setStream n x).buffer = s.buffer := rfl
@[simp] theorem State.setStream_dispatcher (s : State) (n : StreamId) (x : Stream) : (s.setStream n x).dispatcher = s.dispatcher := rfl
@[simp] theorem State.setStream_egress (s : State) (n : StreamId) (x : Stream) : (s.setStream n x).egress = s.egress := rfl
@[simp] theorem State.setStream_sent (s : State) (n : StreamId) (x : Stream) : (s.setStream n x).sent = s.sent := rfl
@[simp] theorem State.setStream_drawn (s : State) (n : StreamId) (x : Stream) : (s.setStream n x).drawn = s.drawn := rfl
@[simp] theorem State.setStream_pending (s : State) (n : StreamId) (x : Stream) : (s.setStream n x).pending = s.pending := rfl

@[simp] theorem State.setMember_region (s : State) (m : MemberId) (x : Member) : (s.setMember m x).region = s.region := rfl
@[simp] theorem State.setMember_et (s : State) (m : MemberId) (x : Member) : (s.setMember m x).et = s.et := rfl
@[simp] theorem State.setMember_decoder (s : State) (m : MemberId) (x : Member) : (s.setMember m x).decoder = s.decoder := rfl
@[simp] theorem State.setMember_streams (s : State) (m : MemberId) (x : Member) : (s.setMember m x).streams = s.streams := rfl
@[simp] theorem State.setMember_buffer (s : State) (m : MemberId) (x : Member) : (s.setMember m x).buffer = s.buffer := rfl
@[simp] theorem State.setMember_egress (s : State) (m : MemberId) (x : Member) : (s.setMember m x).egress = s.egress := rfl
@[simp] theorem State.setMember_sent (s : State) (m : MemberId) (x : Member) : (s.setMember m x).sent = s.sent := rfl
@[simp] theorem State.setMember_drawn (s : State) (m : MemberId) (x : Member) : (s.setMember m x).drawn = s.drawn := rfl
@[simp] theorem State.setMember_pending (s : State) (m : MemberId) (x : Member) : (s.setMember m x).pending = s.pending := rfl

@[simp] theorem State.setChunks_region (s : State) (cs : List Chunk) : (s.setChunks cs).region = s.region := rfl
@[simp] theorem State.setChunks_et (s : State) (cs : List Chunk) : (s.setChunks cs).et = s.et := rfl
@[simp] theorem State.setChunks_decoder (s : State) (cs : List Chunk) : (s.setChunks cs).decoder = s.decoder := rfl
@[simp] theorem State.setChunks_streams (s : State) (cs : List Chunk) : (s.setChunks cs).streams = s.streams := rfl
@[simp] theorem State.setChunks_buffer (s : State) (cs : List Chunk) : (s.setChunks cs).buffer = s.buffer := rfl
@[simp] theorem State.setChunks_egress (s : State) (cs : List Chunk) : (s.setChunks cs).egress = s.egress := rfl
@[simp] theorem State.setChunks_sent (s : State) (cs : List Chunk) : (s.setChunks cs).sent = s.sent := rfl
@[simp] theorem State.setChunks_drawn (s : State) (cs : List Chunk) : (s.setChunks cs).drawn = s.drawn := rfl
@[simp] theorem State.setChunks_pending (s : State) (cs : List Chunk) : (s.setChunks cs).pending = s.pending := rfl

@[simp] theorem State.setPresentation_region (s : State) (n : StreamId) (x : Option Presentation) : (s.setPresentation n x).region = s.region := rfl
@[simp] theorem State.setPresentation_et (s : State) (n : StreamId) (x : Option Presentation) : (s.setPresentation n x).et = s.et := rfl
@[simp] theorem State.setPresentation_decoder (s : State) (n : StreamId) (x : Option Presentation) : (s.setPresentation n x).decoder = s.decoder := rfl
@[simp] theorem State.setPresentation_streams (s : State) (n : StreamId) (x : Option Presentation) : (s.setPresentation n x).streams = s.streams := rfl
@[simp] theorem State.setPresentation_buffer (s : State) (n : StreamId) (x : Option Presentation) : (s.setPresentation n x).buffer = s.buffer := rfl
@[simp] theorem State.setPresentation_dispatcher (s : State) (n : StreamId) (x : Option Presentation) : (s.setPresentation n x).dispatcher = s.dispatcher := rfl
@[simp] theorem State.setPresentation_sent (s : State) (n : StreamId) (x : Option Presentation) : (s.setPresentation n x).sent = s.sent := rfl
@[simp] theorem State.setPresentation_drawn (s : State) (n : StreamId) (x : Option Presentation) : (s.setPresentation n x).drawn = s.drawn := rfl
@[simp] theorem State.setPresentation_pending (s : State) (n : StreamId) (x : Option Presentation) : (s.setPresentation n x).pending = s.pending := rfl

@[simp] theorem State.setLayout_region (s : State) (e : Fin 16) (x : LayoutEntry) : (s.setLayout e x).region = s.region := rfl
@[simp] theorem State.setLayout_et (s : State) (e : Fin 16) (x : LayoutEntry) : (s.setLayout e x).et = s.et := rfl
@[simp] theorem State.setLayout_streams (s : State) (e : Fin 16) (x : LayoutEntry) : (s.setLayout e x).streams = s.streams := rfl
@[simp] theorem State.setLayout_buffer (s : State) (e : Fin 16) (x : LayoutEntry) : (s.setLayout e x).buffer = s.buffer := rfl
@[simp] theorem State.setLayout_dispatcher (s : State) (e : Fin 16) (x : LayoutEntry) : (s.setLayout e x).dispatcher = s.dispatcher := rfl
@[simp] theorem State.setLayout_egress (s : State) (e : Fin 16) (x : LayoutEntry) : (s.setLayout e x).egress = s.egress := rfl
@[simp] theorem State.setLayout_sent (s : State) (e : Fin 16) (x : LayoutEntry) : (s.setLayout e x).sent = s.sent := rfl
@[simp] theorem State.setLayout_drawn (s : State) (e : Fin 16) (x : LayoutEntry) : (s.setLayout e x).drawn = s.drawn := rfl
@[simp] theorem State.setLayout_pending (s : State) (e : Fin 16) (x : LayoutEntry) : (s.setLayout e x).pending = s.pending := rfl

@[simp] theorem State.setClip_region (s : State) (c : Fin 256) (x : Clip) : (s.setClip c x).region = s.region := rfl
@[simp] theorem State.setClip_et (s : State) (c : Fin 256) (x : Clip) : (s.setClip c x).et = s.et := rfl
@[simp] theorem State.setClip_streams (s : State) (c : Fin 256) (x : Clip) : (s.setClip c x).streams = s.streams := rfl
@[simp] theorem State.setClip_buffer (s : State) (c : Fin 256) (x : Clip) : (s.setClip c x).buffer = s.buffer := rfl
@[simp] theorem State.setClip_dispatcher (s : State) (c : Fin 256) (x : Clip) : (s.setClip c x).dispatcher = s.dispatcher := rfl
@[simp] theorem State.setClip_egress (s : State) (c : Fin 256) (x : Clip) : (s.setClip c x).egress = s.egress := rfl
@[simp] theorem State.setClip_sent (s : State) (c : Fin 256) (x : Clip) : (s.setClip c x).sent = s.sent := rfl
@[simp] theorem State.setClip_drawn (s : State) (c : Fin 256) (x : Clip) : (s.setClip c x).drawn = s.drawn := rfl
@[simp] theorem State.setClip_pending (s : State) (c : Fin 256) (x : Clip) : (s.setClip c x).pending = s.pending := rfl

@[simp] theorem State.setDir_region (s : State) (x : DirEntry) : (s.setDir x).region = s.region := rfl
@[simp] theorem State.setDir_et (s : State) (x : DirEntry) : (s.setDir x).et = s.et := rfl
@[simp] theorem State.setDir_decoder (s : State) (x : DirEntry) : (s.setDir x).decoder = s.decoder := rfl
@[simp] theorem State.setDir_streams (s : State) (x : DirEntry) : (s.setDir x).streams = s.streams := rfl
@[simp] theorem State.setDir_dispatcher (s : State) (x : DirEntry) : (s.setDir x).dispatcher = s.dispatcher := rfl
@[simp] theorem State.setDir_egress (s : State) (x : DirEntry) : (s.setDir x).egress = s.egress := rfl
@[simp] theorem State.setDir_sent (s : State) (x : DirEntry) : (s.setDir x).sent = s.sent := rfl
@[simp] theorem State.setDir_drawn (s : State) (x : DirEntry) : (s.setDir x).drawn = s.drawn := rfl
@[simp] theorem State.setDir_pending (s : State) (x : DirEntry) : (s.setDir x).pending = s.pending := rfl

@[simp] theorem State.emit_region (s : State) (o : Output) : (s.emit o).region = s.region := rfl
@[simp] theorem State.emit_et (s : State) (o : Output) : (s.emit o).et = s.et := rfl
@[simp] theorem State.emit_decoder (s : State) (o : Output) : (s.emit o).decoder = s.decoder := rfl
@[simp] theorem State.emit_streams (s : State) (o : Output) : (s.emit o).streams = s.streams := rfl
@[simp] theorem State.emit_buffer (s : State) (o : Output) : (s.emit o).buffer = s.buffer := rfl
@[simp] theorem State.emit_dispatcher (s : State) (o : Output) : (s.emit o).dispatcher = s.dispatcher := rfl
@[simp] theorem State.emit_egress (s : State) (o : Output) : (s.emit o).egress = s.egress := rfl
@[simp] theorem State.emit_drawn (s : State) (o : Output) : (s.emit o).drawn = s.drawn := rfl
@[simp] theorem State.emit_pending (s : State) (o : Output) : (s.emit o).pending = s.pending := rfl

@[simp] theorem State.draw_region (s : State)  : (s.draw ).region = s.region := rfl
@[simp] theorem State.draw_et (s : State)  : (s.draw ).et = s.et := rfl
@[simp] theorem State.draw_decoder (s : State)  : (s.draw ).decoder = s.decoder := rfl
@[simp] theorem State.draw_streams (s : State)  : (s.draw ).streams = s.streams := rfl
@[simp] theorem State.draw_buffer (s : State)  : (s.draw ).buffer = s.buffer := rfl
@[simp] theorem State.draw_dispatcher (s : State)  : (s.draw ).dispatcher = s.dispatcher := rfl
@[simp] theorem State.draw_egress (s : State)  : (s.draw ).egress = s.egress := rfl
@[simp] theorem State.draw_sent (s : State)  : (s.draw ).sent = s.sent := rfl
@[simp] theorem State.draw_pending (s : State)  : (s.draw ).pending = s.pending := rfl

@[simp] theorem State.hostWrite_region (s : State) (a : Nat) (b : List Byte) : (s.hostWrite a b).region = s.region := rfl
@[simp] theorem State.hostWrite_et (s : State) (a : Nat) (b : List Byte) : (s.hostWrite a b).et = s.et := rfl
@[simp] theorem State.hostWrite_decoder (s : State) (a : Nat) (b : List Byte) : (s.hostWrite a b).decoder = s.decoder := rfl
@[simp] theorem State.hostWrite_streams (s : State) (a : Nat) (b : List Byte) : (s.hostWrite a b).streams = s.streams := rfl
@[simp] theorem State.hostWrite_buffer (s : State) (a : Nat) (b : List Byte) : (s.hostWrite a b).buffer = s.buffer := rfl
@[simp] theorem State.hostWrite_dispatcher (s : State) (a : Nat) (b : List Byte) : (s.hostWrite a b).dispatcher = s.dispatcher := rfl
@[simp] theorem State.hostWrite_egress (s : State) (a : Nat) (b : List Byte) : (s.hostWrite a b).egress = s.egress := rfl
@[simp] theorem State.hostWrite_drawn (s : State) (a : Nat) (b : List Byte) : (s.hostWrite a b).drawn = s.drawn := rfl
@[simp] theorem State.hostWrite_pending (s : State) (a : Nat) (b : List Byte) : (s.hostWrite a b).pending = s.pending := rfl

@[simp] theorem State.markMirror_et (s : State) (n : StreamId) : (s.markMirror n).et = s.et := rfl
@[simp] theorem State.markMirror_decoder (s : State) (n : StreamId) : (s.markMirror n).decoder = s.decoder := rfl
@[simp] theorem State.markMirror_streams (s : State) (n : StreamId) : (s.markMirror n).streams = s.streams := rfl
@[simp] theorem State.markMirror_buffer (s : State) (n : StreamId) : (s.markMirror n).buffer = s.buffer := rfl
@[simp] theorem State.markMirror_dispatcher (s : State) (n : StreamId) : (s.markMirror n).dispatcher = s.dispatcher := rfl
@[simp] theorem State.markMirror_egress (s : State) (n : StreamId) : (s.markMirror n).egress = s.egress := rfl
@[simp] theorem State.markMirror_sent (s : State) (n : StreamId) : (s.markMirror n).sent = s.sent := rfl
@[simp] theorem State.markMirror_drawn (s : State) (n : StreamId) : (s.markMirror n).drawn = s.drawn := rfl
@[simp] theorem State.markMirror_pending (s : State) (n : StreamId) : (s.markMirror n).pending = s.pending := rfl

@[simp] theorem State.callPass_region (s : State)  : (s.callPass ).region = s.region := rfl
@[simp] theorem State.callPass_et (s : State)  : (s.callPass ).et = s.et := rfl
@[simp] theorem State.callPass_decoder (s : State)  : (s.callPass ).decoder = s.decoder := rfl
@[simp] theorem State.callPass_streams (s : State)  : (s.callPass ).streams = s.streams := rfl
@[simp] theorem State.callPass_dispatcher (s : State)  : (s.callPass ).dispatcher = s.dispatcher := rfl
@[simp] theorem State.callPass_egress (s : State)  : (s.callPass ).egress = s.egress := rfl
@[simp] theorem State.callPass_sent (s : State)  : (s.callPass ).sent = s.sent := rfl
@[simp] theorem State.callPass_drawn (s : State)  : (s.callPass ).drawn = s.drawn := rfl
@[simp] theorem State.callPass_pending (s : State)  : (s.callPass ).pending = s.pending := rfl

@[simp] theorem State.setPort_region (s : State) (p : Port) (x : PortState) : (s.setPort p x).region = s.region := by cases p <;> rfl
@[simp] theorem State.setPort_et (s : State) (p : Port) (x : PortState) : (s.setPort p x).et = s.et := by cases p <;> rfl
@[simp] theorem State.setPort_decoder (s : State) (p : Port) (x : PortState) : (s.setPort p x).decoder = s.decoder := by cases p <;> rfl
@[simp] theorem State.setPort_streams (s : State) (p : Port) (x : PortState) : (s.setPort p x).streams = s.streams := by cases p <;> rfl
@[simp] theorem State.setPort_buffer (s : State) (p : Port) (x : PortState) : (s.setPort p x).buffer = s.buffer := by cases p <;> rfl
@[simp] theorem State.setPort_dispatcher (s : State) (p : Port) (x : PortState) : (s.setPort p x).dispatcher = s.dispatcher := by cases p <;> rfl
@[simp] theorem State.setPort_sent (s : State) (p : Port) (x : PortState) : (s.setPort p x).sent = s.sent := by cases p <;> rfl
@[simp] theorem State.setPort_drawn (s : State) (p : Port) (x : PortState) : (s.setPort p x).drawn = s.drawn := by cases p <;> rfl
@[simp] theorem State.setPort_pending (s : State) (p : Port) (x : PortState) : (s.setPort p x).pending = s.pending := by cases p <;> rfl
@[simp] theorem State.raiseAt_et (s : State) (t : Time) (b : NoticeBody) : (s.raiseAt t b).et = s.et := by unfold State.raiseAt; split <;> rfl
@[simp] theorem State.raise_et (s : State) (b : NoticeBody) : (s.raise b).et = s.et := State.raiseAt_et s s.et b
@[simp] theorem State.raiseAt_decoder (s : State) (t : Time) (b : NoticeBody) : (s.raiseAt t b).decoder = s.decoder := by unfold State.raiseAt; split <;> rfl
@[simp] theorem State.raise_decoder (s : State) (b : NoticeBody) : (s.raise b).decoder = s.decoder := State.raiseAt_decoder s s.et b
@[simp] theorem State.raiseAt_streams (s : State) (t : Time) (b : NoticeBody) : (s.raiseAt t b).streams = s.streams := by unfold State.raiseAt; split <;> rfl
@[simp] theorem State.raise_streams (s : State) (b : NoticeBody) : (s.raise b).streams = s.streams := State.raiseAt_streams s s.et b
@[simp] theorem State.raiseAt_buffer (s : State) (t : Time) (b : NoticeBody) : (s.raiseAt t b).buffer = s.buffer := by unfold State.raiseAt; split <;> rfl
@[simp] theorem State.raise_buffer (s : State) (b : NoticeBody) : (s.raise b).buffer = s.buffer := State.raiseAt_buffer s s.et b
@[simp] theorem State.raiseAt_dispatcher (s : State) (t : Time) (b : NoticeBody) : (s.raiseAt t b).dispatcher = s.dispatcher := by unfold State.raiseAt; split <;> rfl
@[simp] theorem State.raise_dispatcher (s : State) (b : NoticeBody) : (s.raise b).dispatcher = s.dispatcher := State.raiseAt_dispatcher s s.et b
@[simp] theorem State.raiseAt_egress (s : State) (t : Time) (b : NoticeBody) : (s.raiseAt t b).egress = s.egress := by unfold State.raiseAt; split <;> rfl
@[simp] theorem State.raise_egress (s : State) (b : NoticeBody) : (s.raise b).egress = s.egress := State.raiseAt_egress s s.et b
@[simp] theorem State.raiseAt_sent (s : State) (t : Time) (b : NoticeBody) : (s.raiseAt t b).sent = s.sent := by unfold State.raiseAt; split <;> rfl
@[simp] theorem State.raise_sent (s : State) (b : NoticeBody) : (s.raise b).sent = s.sent := State.raiseAt_sent s s.et b
@[simp] theorem State.raiseAt_drawn (s : State) (t : Time) (b : NoticeBody) : (s.raiseAt t b).drawn = s.drawn := by unfold State.raiseAt; split <;> rfl
@[simp] theorem State.raise_drawn (s : State) (b : NoticeBody) : (s.raise b).drawn = s.drawn := State.raiseAt_drawn s s.et b
@[simp] theorem State.raiseAt_pending (s : State) (t : Time) (b : NoticeBody) : (s.raiseAt t b).pending = s.pending := by unfold State.raiseAt; split <;> rfl
@[simp] theorem State.raise_pending (s : State) (b : NoticeBody) : (s.raise b).pending = s.pending := State.raiseAt_pending s s.et b

/-! ### What an update writes, read back -/

@[simp] theorem State.setStream_stream (s : State) (n : StreamId) (x : Stream) : (s.setStream n x).stream n = x := by
  simp [State.setStream, State.stream]

theorem State.setStream_stream_ne (s : State) {n k : StreamId} (x : Stream) (h : n ≠ k) :
    (s.setStream n x).stream k = s.stream k := by
  have : n.val ≠ k.val := fun e => h (Fin.ext e)
  simp [State.setStream, State.stream, this]

@[simp] theorem State.setMember_member (s : State) (m : MemberId) (x : Member) : (s.setMember m x).member m = x := by
  simp [State.setMember, State.member]

theorem State.setMember_member_ne (s : State) {m k : MemberId} (x : Member) (h : m ≠ k) :
    (s.setMember m x).member k = s.member k := by
  have : m.val ≠ k.val := fun e => h (Fin.ext e)
  simp [State.setMember, State.member, this]

@[simp] theorem State.setPort_port (s : State) (p : Port) (x : PortState) : (s.setPort p x).port p = x := by
  cases p <;> rfl

theorem State.setPort_port_ne (s : State) {p k : Port} (x : PortState) (h : p ≠ k) :
    (s.setPort p x).port k = s.port k := by
  cases p <;> cases k <;> first | rfl | exact absurd rfl h

theorem State.setPresentation_presentation_ne (s : State) {n k : StreamId} (x : Option Presentation) (h : n ≠ k) :
    (s.setPresentation n x).presentation k = s.presentation k := by
  have : n.val ≠ k.val := fun e => h (Fin.ext e)
  simp [State.setPresentation, State.presentation, this]

@[simp] theorem State.setPresentation_presentation (s : State) (n : StreamId) (x : Option Presentation) :
    (s.setPresentation n x).presentation n = x := by
  simp [State.setPresentation, State.presentation]

@[simp] theorem State.setLayout_layout (s : State) (e : Fin 16) (x : LayoutEntry) :
    (s.setLayout e x).decoder.layout[e] = x := by
  simp [State.setLayout]

@[simp] theorem State.setClip_clip (s : State) (c : Fin 256) (x : Clip) : (s.setClip c x).clip c = x := by
  simp [State.setClip, State.clip]

@[simp] theorem State.setRegion_halted (s : State) (r : Region) : (s.setRegion r).halted = (r.engine == .halted) := rfl

@[simp] theorem State.markMirror_halted (s : State) (n : StreamId) : (s.markMirror n).halted = s.halted := rfl

/-! ### Writes to host memory -/

/-- Everything that writes to host memory do. -/
theorem State.hostWrites_eq (s : State) (l : List (Nat × List Byte)) :
    s.hostWrites l = { s with sent := s.sent ++ l.map fun w => s.region.writeAt w.1 w.2 } := by
  induction l generalizing s with
  | nil => simp [State.hostWrites]
  | cons w rest ih =>
    rw [State.hostWrites, ih]
    simp [State.hostWrite, State.emit, Region.writeAt]

/-! ### The wait list (R113) -/

/-- A waiter that is reported the deadline it has keeps its place, and no service pass is called for. -/
theorem State.moveWaiter_same (s : State) (p : Waiter → Bool) (w : Waiter) (h : s.buffer.waiters.find? p = some w) :
    s.moveWaiter p w.deadline = s := by
  simp [State.moveWaiter, h]

/-! ### SLIP waits (R75) -/

/-- Once Engine Time has passed the end of a SLIP wait, no report of a frame ends it. -/
theorem State.inWait_past (s : State) (x : Stream) (t : Time) (h : x.slipEnd = some t) (k : t.toNat < s.et.toNat) :
    s.inWait x = false := by
  simp only [State.inWait, h, BitVec.ule, Bool.and_eq_false_iff, decide_eq_false_iff_not]
  exact Or.inr (by omega)

/-! ### Raising a notice (R15) -/

/-- Everything that raising a notice does to the Region Interface. -/
theorem State.raiseAt_region_cases (s : State) (t : Time) (b : NoticeBody) :
    (s.raiseAt t b).region = { s.region with noticesLost := true } ∨
      (s.halted = false ∧ s.region.notices.length < Config.heldNotices ∧
        (s.raiseAt t b).region = { s.region with notices := s.region.notices ++ [⟨b, t⟩] }) := by
  unfold State.raiseAt
  split
  · exact Or.inl rfl
  · next h =>
    simp at h
    exact Or.inr ⟨h.1, h.2, rfl⟩

@[simp] theorem State.raiseAt_engine (s : State) (t : Time) (b : NoticeBody) :
    (s.raiseAt t b).region.engine = s.region.engine := by
  rcases s.raiseAt_region_cases t b with h | ⟨_, _, h⟩ <;> rw [h]

@[simp] theorem State.raise_engine (s : State) (b : NoticeBody) : (s.raise b).region.engine = s.region.engine :=
  s.raiseAt_engine s.et b

end Sys2Proof.Machine
end

