-- ==== Sys2Proof/Laws/Calm.lean ====
section
/-! SUPPORT. What the inner operations of the blocks change. Every operation by which one block acts on another (settling
chunks, issuing reads, serving waiters, projecting, sending, ending presentations) is Calm for a set of streams: it leaves
Engine Time, the queue of commands, the contents of the frame store, the member settings, the clip table and the states of
the layout entries as they are, changes the Region Interface by notices and newly set mirror marks only, raises no port's
allocated rate, sends no MSI and writes nothing to host memory, and changes no stream outside the set but for the stages
of its unsent window entries. -/

-- Elaborated one after another: side by side, its many small proofs open more threads than the memory limit allows.
set_option Elab.async false

namespace Sys2Proof.Machine

theorem Region.Near.refl (r : Region) : r.Near r := ⟨r.notices, r.noticesLost, r.marks, rfl, id, fun _ => id, List.prefix_rfl, id⟩

theorem Region.Near.trans {a b c : Region} (h : a.Near b) (k : b.Near c) : a.Near c := by
  obtain ⟨n1, l1, m1, rfl, h1, g1, p1, q1⟩ := h
  obtain ⟨n2, l2, m2, rfl, h2, g2, p2, q2⟩ := k
  exact ⟨n2, l2, m2, rfl, fun h => h2 (h1 h), fun n h => g2 n (g1 n h), p1.trans p2, fun h => q2 (q1 h)⟩

theorem Stream.Like.refl (x : Stream) : x.Like x := ⟨rfl, rfl⟩

theorem Stream.Like.trans {a b c : Stream} (h : a.Like b) (k : b.Like c) : a.Like c := by
  obtain ⟨h1, h2⟩ := h
  obtain ⟨k1, k2⟩ := k
  refine ⟨?_, k2.trans h2⟩
  rw [k1, h1]

theorem Stream.Like.map (x : Stream) (f : Entry → Entry) (h : ∀ e, (f e).seen = e.seen) :
    x.Like { x with window := x.window.map f } := by
  refine ⟨rfl, ?_⟩
  simp only [List.map_map]
  exact List.map_congr_left fun e _ => h e

theorem Member.Keeps.refl (x : Member) : x.Keeps x := ⟨rfl, rfl, fun _ h => h, fun _ _ h => h⟩

theorem Member.Keeps.trans {a b c : Member} (h : a.Keeps b) (k : b.Keeps c) : a.Keeps c :=
  ⟨k.link.trans h.link, k.capacity.trans h.capacity, fun t ht => k.abandoned t (h.abandoned t ht),
    fun hu t ht => k.free (by rw [h.link]; exact hu) t (h.free hu t ht)⟩

theorem Region.Near.engine {r q : Region} (h : r.Near q) : q.engine = r.engine := by
  obtain ⟨_, _, _, rfl, _⟩ := h
  rfl

theorem Mild.trans {A : StreamId → Prop} {a b c : State} (h : Mild A a b) (k : Mild A b c) : Mild A a c where
  et := k.et.trans h.et
  pending := k.pending.trans h.pending
  region := h.region.trans k.region
  store := k.store.trans h.store
  reserve := k.reserve.trans h.reserve
  settings m :=
    ⟨(k.settings m).1.trans (h.settings m).1, (k.settings m).2.1.trans (h.settings m).2.1,
      (k.settings m).2.2.1.trans (h.settings m).2.2.1, (k.settings m).2.2.2.trans (h.settings m).2.2.2⟩
  clips := k.clips.trans h.clips
  layouts e := (k.layouts e).trans (h.layouts e)
  rates p := (k.rates p).trans (h.rates p)
  links p := (k.links p).trans (h.links p)
  silent q := k.silent (h.silent q)
  outputs := by
    obtain ⟨l, hl, hi⟩ := h.outputs
    obtain ⟨l', hl', hi'⟩ := k.outputs
    refine ⟨l ++ l', by rw [hl', hl, List.append_assoc], fun o ho => ?_⟩
    rcases List.mem_append.mp ho with ho | ho
    · exact hi o ho
    · exact ⟨(hi' o ho).1, fun r => h.region.engine ▸ (hi' o ho).2 r⟩
  quiet n hn q := k.quiet n hn (h.quiet n hn q)
  sending p x hx := by
    rcases k.sending p x hx with q | q | q
    · exact h.sending p x q
    · by_cases ha : A x.stream
      · exact Or.inr (Or.inr ha)
      · exact Or.inr (Or.inl fun e => q (h.quiet _ ha e))
    · exact Or.inr (Or.inr q)
  others n hn := (h.others n hn).trans (k.others n hn)

theorem Mild.refl {A : StreamId → Prop} (s : State) : Mild A s s :=
  ⟨rfl, rfl, .refl _, rfl, rfl, fun _ => ⟨rfl, rfl, rfl, rfl⟩, rfl, fun _ => rfl, fun _ => le_rfl, fun _ => rfl,
    id, ⟨[], by simp, by simp⟩, fun _ _ h => h, fun _ _ h => Or.inl h, fun _ _ => .refl _⟩

theorem Mild.ite {A : StreamId → Prop} {c : Prop} [Decidable c] {s a b : State} (ha : Mild A s a) (hb : Mild A s b) :
    Mild A s (if c then a else b) := by
  split <;> assumption

/-- A member's settings kept, whatever else of it changes. -/
theorem Mild.setMember {A : StreamId → Prop} (s : State) (m : MemberId) (x : Member)
    (h : (s.member m).SameSettings x := by exact ⟨rfl, rfl, rfl, rfl⟩) : Mild A s (s.setMember m x) := by
  refine ⟨rfl, rfl, .refl _, rfl, rfl, fun k => ?_, rfl, fun _ => rfl, fun p => by cases p <;> exact le_rfl,
    fun p => by cases p <;> rfl, id, ⟨[], by simp, by simp⟩, fun _ _ h => h, fun p _ h => Or.inl (by cases p <;> exact h), fun _ _ => .refl _⟩
  by_cases hk : m = k
  · subst hk
    rwa [State.setMember_member]
  · rw [State.setMember_member_ne s x hk]
    exact ⟨rfl, rfl, rfl, rfl⟩

namespace Calm

variable {A : StreamId → Prop}

theorem refl (s : State) : Calm A s s := ⟨Mild.refl s, fun _ => .refl _, fun _ => rfl⟩

theorem trans {a b c : State} (h : Calm A a b) (k : Calm A b c) : Calm A a c :=
  ⟨h.toMild.trans k.toMild, fun m => (h.keeps m).trans (k.keeps m), fun p => (k.same p).trans (h.same p)⟩

/-- An operation that leaves the members as they are. -/
theorem ofMild {s t : State} (h : Mild A s t) (k : t.dispatcher.members = s.dispatcher.members := by rfl)
    (q : ∀ p : Port, (t.port p).allocated = (s.port p).allocated := by intro p; cases p <;> rfl) : Calm A s t :=
  ⟨h, fun m => by
    unfold State.member
    rw [k]
    exact .refl _, q⟩

/-- An inner operation for some streams is one for more streams. -/
theorem mono {B : StreamId → Prop} {s t : State} (h : Calm A s t) (k : ∀ n, A n → B n) : Calm B s t :=
  { h with
    quiet := fun n hn => h.quiet n fun ha => hn (k n ha)
    sending := fun p x hx => (h.sending p x hx).imp id fun q => q.imp id (k _)
    others := fun n hn => h.others n fun ha => hn (k n ha) }

/-- A fold of inner operations is one. -/
theorem foldl {α : Type} {f : State → α → State} (h : ∀ s x, Calm A s (f s x)) (l : List α) (s : State) :
    Calm A s (l.foldl f s) := by
  induction l generalizing s with
  | nil => exact refl s
  | cons x rest ih => exact (h s x).trans (ih _)

theorem ite {c : Prop} [Decidable c] {s a b : State} (ha : Calm A s a) (hb : Calm A s b) :
    Calm A s (if c then a else b) := by
  split <;> assumption

/-! ### The elementary updates -/

/-- A stream of the set replaced. -/
theorem setStream (s : State) (n : StreamId) (x : Stream) (h : A n := by first | assumption | exact trivial) : Calm A s (s.setStream n x) := by
  refine ofMild ⟨rfl, rfl, .refl _, rfl, rfl, fun _ => ⟨rfl, rfl, rfl, rfl⟩, rfl, fun _ => rfl, fun p => by cases p <;> exact le_rfl,
    fun p => by cases p <;> rfl, id, ⟨[], by simp, by simp⟩, fun _ _ h => h, fun p _ h => Or.inl (by cases p <;> exact h), fun k hk => ?_⟩
  have : n ≠ k := fun e => hk (e ▸ h)
  rw [State.setStream_stream_ne s x this]
  exact .refl _

/-- Window entries of any stream changed in stage or reference. -/
theorem setWindow (s : State) (n : StreamId) (f : Entry → Entry) (h : ∀ e, (f e).seen = e.seen) :
    Calm A s (s.setStream n { s.stream n with window := (s.stream n).window.map f }) := by
  refine ofMild ⟨rfl, rfl, .refl _, rfl, rfl, fun _ => ⟨rfl, rfl, rfl, rfl⟩, rfl, fun _ => rfl, fun p => by cases p <;> exact le_rfl,
    fun p => by cases p <;> rfl, id, ⟨[], by simp, by simp⟩, fun _ _ h => h, fun p _ h => Or.inl (by cases p <;> exact h), fun k hk => ?_⟩
  by_cases hn : n = k
  · subst hn
    rw [State.setStream_stream]
    exact Stream.Like.map _ f h
  · rw [State.setStream_stream_ne s _ hn]
    exact .refl _

theorem emit (s : State) (o : Output) (h : o.inner = true := by rfl)
    (k : o.isRead = true → s.region.engine = .running := by exact fun h => nomatch h) : Calm A s (s.emit o) :=
  ofMild ⟨rfl, rfl, .refl _, rfl, rfl, fun _ => ⟨rfl, rfl, rfl, rfl⟩, rfl, fun _ => rfl, fun _ => le_rfl, fun _ => rfl,
    id, ⟨[o], rfl, by simpa using ⟨h, k⟩⟩, fun _ _ h => h, fun _ _ h => Or.inl h, fun _ _ => .refl _⟩

theorem draw (s : State) : Calm A s s.draw :=
  ofMild ⟨rfl, rfl, .refl _, rfl, rfl, fun _ => ⟨rfl, rfl, rfl, rfl⟩, rfl, fun _ => rfl, fun _ => le_rfl, fun _ => rfl,
    id, ⟨[], by simp, by simp⟩, fun _ _ h => h, fun p _ h => Or.inl (by cases p <;> exact h), fun _ _ => .refl _⟩

theorem setBuffer (s : State) (b : FrameBuffer) (h : b.store = s.buffer.store := by rfl)
    (k : b.reserve = s.buffer.reserve := by rfl) : Calm A s (s.setBuffer b) :=
  ofMild ⟨rfl, rfl, .refl _, h, k, fun _ => ⟨rfl, rfl, rfl, rfl⟩, rfl, fun _ => rfl, fun p => by cases p <;> exact le_rfl,
    fun p => by cases p <;> rfl, id, ⟨[], by simp, by simp⟩, fun _ _ h => h, fun p _ h => Or.inl (by cases p <;> exact h), fun _ _ => .refl _⟩

theorem setDecoder (s : State) (d : Decoder) (h : d.clips = s.decoder.clips)
    (k : ∀ e : Fin 16, d.layout[e].state = s.decoder.layout[e].state) : Calm A s (s.setDecoder d) :=
  ofMild ⟨rfl, rfl, .refl _, rfl, rfl, fun _ => ⟨rfl, rfl, rfl, rfl⟩, h, k, fun p => by cases p <;> exact le_rfl,
    fun p => by cases p <;> rfl, id, ⟨[], by simp, by simp⟩, fun _ _ h => h, fun p _ h => Or.inl (by cases p <;> exact h), fun _ _ => .refl _⟩

theorem setHold (s : State) (l : List Nat) : Calm A s (s.setDecoder { s.decoder with hold := l }) :=
  setDecoder s _ rfl fun _ => rfl

theorem setLayout (s : State) (e : Fin 16) (x : LayoutEntry) (h : x.state = s.decoder.layout[e].state := by rfl) :
    Calm A s (s.setLayout e x) := by
  refine setDecoder s _ rfl fun k => ?_
  simp only [Fin.getElem_fin, Vector.getElem_set]
  split
  · next hk =>
    have : e = k := Fin.ext hk
    subst this
    exact h
  · rfl

theorem setChunks (s : State) (cs : List Chunk) : Calm A s (s.setChunks cs) :=
  ofMild ⟨rfl, rfl, .refl _, rfl, rfl, fun _ => ⟨rfl, rfl, rfl, rfl⟩, rfl, fun _ => rfl, fun p => by cases p <;> exact le_rfl,
    fun p => by cases p <;> rfl, id, ⟨[], by simp, by simp⟩, fun _ _ h => h, fun p _ h => Or.inl (by cases p <;> exact h), fun _ _ => .refl _⟩

theorem setArrival (s : State) (v : BitVec 64) : Calm A s (s.setDispatcher { s.dispatcher with arrival := v }) :=
  ofMild ⟨rfl, rfl, .refl _, rfl, rfl, fun _ => ⟨rfl, rfl, rfl, rfl⟩, rfl, fun _ => rfl, fun p => by cases p <;> exact le_rfl,
    fun p => by cases p <;> rfl, id, ⟨[], by simp, by simp⟩, fun _ _ h => h, fun p _ h => Or.inl (by cases p <;> exact h), fun _ _ => .refl _⟩

theorem setMember (s : State) (m : MemberId) (x : Member) (k : (s.member m).Keeps x)
    (h : (s.member m).SameSettings x := by exact ⟨rfl, rfl, rfl, rfl⟩) : Calm A s (s.setMember m x) := by
  refine ⟨Mild.setMember s m x h, fun j => ?_, fun p => by cases p <;> rfl⟩
  by_cases hj : m = j
  · subst hj
    rwa [State.setMember_member]
  · rw [State.setMember_member_ne s x hj]
    exact .refl _

theorem setPortLow (s : State) (p : Port) (x : PortState) (h : x.allocated ≤ (s.port p).allocated)
    (k : x.up = (s.port p).up := by rfl)
    (q : ((s.port p).up = false ∨ s.halted = true → (s.port p).transmitting = none) →
      x.up = false ∨ s.halted = true → x.transmitting = none := by exact fun h => h)
    (v : ∀ y, x.transmitting = some y → (s.port p).transmitting = some y ∨ s.presentation y.stream ≠ none := by
      exact fun _ h => Or.inl h) : Mild A s (s.setPort p x) := by
  refine ⟨by simp, by simp, ?_, by simp, by simp, fun m => ?_, by simp, fun _ => by simp, fun r => ?_, fun r => ?_,
    fun hs r => ?_, ⟨[], by simp, by simp⟩, fun n _ hn => ?_, fun r y hy => ?_, fun n _ => ?_⟩
  · simpa using .refl _
  · cases p <;> exact ⟨rfl, rfl, rfl, rfl⟩
  · by_cases hr : p = r
    · subst hr
      simpa using h
    · rw [State.setPort_port_ne s x hr]
  · by_cases hr : p = r
    · subst hr
      simpa using k
    · rw [State.setPort_port_ne s x hr]
  · have hh : (s.setPort p x).halted = s.halted := by simp [State.halted]
    rw [hh]
    by_cases hr : p = r
    · subst hr
      rw [State.setPort_port]
      exact q (hs p)
    · rw [State.setPort_port_ne s x hr]
      exact hs r
  · cases p <;> exact hn
  · by_cases hr : p = r
    · subst hr
      rw [State.setPort_port] at hy
      rcases v y hy with e | e
      · exact Or.inl e
      · exact Or.inr (Or.inl e)
    · rw [State.setPort_port_ne s x hr] at hy
      exact Or.inl hy
  · cases p <;> exact .refl _

theorem setPort (s : State) (p : Port) (x : PortState) (h : x.allocated = (s.port p).allocated := by rfl)
    (k : x.up = (s.port p).up := by rfl)
    (q : ((s.port p).up = false ∨ s.halted = true → (s.port p).transmitting = none) →
      x.up = false ∨ s.halted = true → x.transmitting = none := by exact fun h => h)
    (v : ∀ y, x.transmitting = some y → (s.port p).transmitting = some y ∨ s.presentation y.stream ≠ none := by
      exact fun _ h => Or.inl h) : Calm A s (s.setPort p x) := by
  refine ofMild (setPortLow s p x h.le k q v) (by simp) fun r => ?_
  by_cases hr : p = r
  · subst hr
    simpa using h
  · rw [State.setPort_port_ne s x hr]

theorem setPresentation (s : State) (n : StreamId) (x : Option Presentation)
    (h : x = none ∨ A n ∨ s.presentation n ≠ none := by first | exact Or.inl rfl | exact Or.inr (Or.inl (by assumption)) | exact Or.inr (Or.inl trivial)) :
    Calm A s (s.setPresentation n x) :=
  ofMild ⟨rfl, rfl, .refl _, rfl, rfl, fun _ => ⟨rfl, rfl, rfl, rfl⟩, rfl, fun _ => rfl, fun p => by cases p <;> exact le_rfl,
    fun p => by cases p <;> rfl, id, ⟨[], by simp, by simp⟩, fun k hk q => by
      by_cases e : n = k
      · subst e
        rcases h with h | h | h
        · rw [State.setPresentation_presentation, h]
        · exact absurd h hk
        · exact absurd q h
      · rwa [State.setPresentation_presentation_ne s x e], fun p _ h => Or.inl (by cases p <;> exact h), fun _ _ => .refl _⟩

theorem setRegion (s : State) (r : Region) (h : s.region.Near r) : Calm A s (s.setRegion r) := by
  refine ofMild ⟨rfl, rfl, h, rfl, rfl, fun _ => ⟨rfl, rfl, rfl, rfl⟩, rfl, fun _ => rfl, fun p => by cases p <;> exact le_rfl,
    fun p => by cases p <;> rfl, fun hs p hp => ?_, ⟨[], by simp, by simp⟩, fun _ _ h => h,
    fun p _ h => Or.inl (by cases p <;> exact h), fun _ _ => .refl _⟩
  have hh : (s.setRegion r).halted = s.halted := by simp [State.halted, h.engine]
  rw [hh] at hp
  cases p
  · exact hs .e0 hp
  · exact hs .e1 hp

theorem markMirror (s : State) (n : StreamId) : Calm A s (s.markMirror n) := by
  refine setRegion s _ ⟨_, _, _, rfl, id, fun k hk => ?_, List.prefix_rfl, id⟩
  simp only [Fin.getElem_fin, Vector.getElem_set]
  split
  · rfl
  · exact hk

theorem raiseAt (s : State) (t : Time) (b : NoticeBody) : Calm A s (s.raiseAt t b) := by
  unfold State.raiseAt
  split
  · exact setRegion s _ ⟨_, _, _, rfl, id, fun _ => id, List.prefix_rfl, fun _ => rfl⟩
  · next h =>
    simp only [Bool.or_eq_true, decide_eq_true_eq, not_or, not_le] at h
    refine setRegion s _ ⟨_, _, _, rfl, fun _ => ?_, fun _ => id, List.prefix_append _ _, id⟩
    simp only [List.length_append, List.length_cons, List.length_nil]
    omega

theorem raise (s : State) (b : NoticeBody) : Calm A s (s.raise b) := raiseAt s s.et b

/-! ### Directory entries and settling -/

theorem setDir (s : State) (x : DirEntry) : Calm A s (s.setDir x) := setBuffer s _

theorem callPass (s : State) : Calm A s s.callPass := setBuffer s _

theorem freeEntry (s : State) (d : Nat) : Calm A s (s.freeEntry d) := (setBuffer s _).trans (setHold _ _)

theorem joinReclaim (s : State) (d : Nat) : Calm A s (s.joinReclaim d) := setBuffer s _

theorem freeIfDone (s : State) (d : Nat) : Calm A s (s.freeIfDone d) := by
  unfold State.freeIfDone
  split
  · exact refl s
  · exact ite (freeEntry s d) (refl s)

theorem countDown (s : State) (d : Nat) : Calm A s (s.countDown d) := by
  unfold State.countDown
  split
  · exact refl s
  · exact setDir s _

theorem putChunk (s : State) (c : Chunk) : Calm A s (s.putChunk c) := setChunks s _

theorem dropChunk (s : State) (c : Chunk) : Calm A s (s.dropChunk c) :=
  ((setChunks s _).trans (setLayout _ _ _)).trans (callPass _)

theorem settleWithdrawn (s : State) (c : Chunk) : Calm A s (s.settleWithdrawn c) :=
  ((dropChunk s c).trans (countDown _ _)).trans (freeIfDone _ _)

theorem withdrawQueued (s : State) (d : Nat) : Calm A s (s.withdrawQueued d) := foldl settleWithdrawn _ s

theorem report (s : State) (d : Nat) (g : Stage) (h : g ≠ .sending := by decide) : Calm A s (s.report d g) :=
  foldl (fun s n => setWindow s n _ fun e => by
    unfold Entry.reported
    split
    · next hc => simp [Entry.seen, hc.2, h]
    · rfl) _ s

theorem failEntry (s : State) (d : Nat) (c : Cause) (k : Option (MemberId × Nat)) : Calm A s (s.failEntry d c k) := by
  unfold State.failEntry
  split
  · exact refl s
  · exact (((setDir s _).trans (withdrawQueued _ d)).trans (report _ d .failed)).trans
      ((ite (refl _) (raise _ _)).trans (freeIfDone _ d))

theorem frameReady (s : State) (e : DirEntry) : Calm A s (s.frameReady e) := by
  unfold State.frameReady
  exact ite (freeEntry s _)
    ((((setDir s _).trans (report _ _ _)).trans (callPass _)).trans (ite (joinReclaim _ _) (refl _)))

theorem settleDone (s : State) (c : Chunk) : Calm A s (s.settleDone c) := by
  refine ((dropChunk s c).trans (countDown _ c.frame)).trans ?_
  unfold State.settleDone
  dsimp only
  split
  · exact refl _
  · exact ite (frameReady _ _) (freeIfDone _ _)

theorem settleFailed (s : State) (c : Chunk) (k : Cause) : Calm A s (s.settleFailed c k) := by
  refine ((dropChunk s c).trans (countDown _ c.frame)).trans ?_
  unfold State.settleFailed
  dsimp only
  split
  · exact refl _
  · exact ite (failEntry _ _ _ _) (freeIfDone _ _)

/-! ### The Member Dispatcher -/

/-- A tag replaced that is not ABANDONED, and not FREE unless the link is UP. -/
theorem setTag (s : State) (m : MemberId) (t : Fin 32) (v : TagState) (h : (s.member m).tags[t] ≠ .abandoned)
    (q : (s.member m).link ≠ .up → (s.member m).tags[t] ≠ .free) :
    Calm A s (s.setMember m ((s.member m).setTag t v)) := by
  refine setMember s m _ ⟨rfl, rfl, fun k hk => ?_, fun hu k hk => ?_⟩
  · have : t.val ≠ k.val := fun e => h (by rw [Fin.ext e]; exact hk)
    simpa [Member.setTag, Vector.getElem_set, this] using hk
  · have : t.val ≠ k.val := fun e => q hu (by rw [Fin.ext e]; exact hk)
    simpa [Member.setTag, Vector.getElem_set, this] using hk

theorem freeTag_isFree {x : Member} {t : Fin 32} (h : x.freeTag = some t) : x.tags[t] ≠ .abandoned := by
  have := List.find?_some h
  intro hc
  rw [hc] at this
  cases this

theorem mayIssue_up {s : State} {m : MemberId} (h : s.mayIssue m = true) : (s.member m).link = .up := by
  simp only [State.mayIssue, Bool.and_eq_true, beq_iff_eq] at h
  exact h.1.2

theorem mayIssue_running {s : State} {m : MemberId} (h : s.mayIssue m = true) : s.region.engine = .running := by
  simp only [State.mayIssue, Bool.and_eq_true, State.isRunning, beq_iff_eq] at h
  exact h.1.1

theorem issue (s : State) (m : MemberId) (t : Fin 32) (c : Chunk) (h : (s.member m).freeTag = some t)
    (u : (s.member m).link = .up) (r : s.region.engine = .running) : Calm A s (s.issue m t c) :=
  ((setTag s m t _ (freeTag_isFree h) fun k => absurd u k).trans (putChunk _ _)).trans (emit _ _ rfl fun _ => r)

theorem arbiterLoop (m : MemberId) (fuel : Nat) (s : State) : Calm A s (arbiterLoop m fuel s) := by
  induction fuel generalizing s with
  | zero => exact refl s
  | succ fuel ih =>
    unfold Machine.arbiterLoop
    split
    · next hm =>
      split
      · exact refl s
      · split
        · exact (settleFailed s _ _).trans (ih _)
        · split
          · exact refl s
          · next t ht => exact (issue s m _ _ ht (mayIssue_up hm) (mayIssue_running hm)).trans (ih _)
    · exact refl s

theorem opportunity (s : State) (m : MemberId) : Calm A s (s.opportunity m) := arbiterLoop m _ s

theorem joinBy {f : State → Chunk → Cause → State} (h : ∀ s c k, Calm A s (f s c k)) (s : State) (c : Chunk) :
    Calm A s (s.joinBy f c) := by
  refine (setArrival s (s.dispatcher.arrival + 1)).trans ?_
  unfold State.joinBy
  dsimp only
  split
  · exact settleWithdrawn _ _
  · split
    · exact (putChunk _ _).trans (opportunity _ _)
    · exact (putChunk _ _).trans (opportunity _ _)
    · exact h _ _ _
    · exact h _ _ _

theorem failOn (s : State) (c : Chunk) (k : Cause) : Calm A s (s.failOn c k) := by
  unfold State.failOn
  split
  · exact joinBy settleFailed s _
  · exact settleFailed s c k

theorem join (s : State) (c : Chunk) : Calm A s (s.join c) := joinBy failOn s c

theorem failQueue (s : State) (m : MemberId) (k : Cause) : Calm A s (s.failQueue m k) := by
  refine foldl (fun s c => ?_) _ s
  split
  · exact ite (failOn _ _ _) (refl _)
  · exact refl _

theorem loseTag (m : MemberId) (s : State) (t : Fin 32) : Calm A s (s.loseTag m t) := by
  unfold State.loseTag
  split
  · next hi =>
    refine (setTag s m t .free (by rw [hi]; exact fun h => nomatch h) fun _ => by rw [hi]; exact fun h => nomatch h).trans ?_
    dsimp only
    split
    · exact failOn _ _ _
    · exact refl _
  · exact refl s

theorem setLink (s : State) (m : MemberId) (l : Link) : Mild A s (s.setLink m l) := Mild.setMember s m _

theorem freeAbandoned_settings (x : Member) : x.SameSettings x.freeAbandoned := by
  unfold Member.freeAbandoned
  generalize allTags = l
  induction l generalizing x with
  | nil => exact ⟨rfl, rfl, rfl, rfl⟩
  | cons t rest ih =>
    simp only [List.foldl_cons]
    split
    · exact ih (x.setTag t .free)
    · exact ih x

theorem dropLink (s : State) (m : MemberId) (k : DropCause) : Mild A s (s.dropLink m k) :=
  ((((setLink s m .down).trans (foldl (loseTag m) _ _).toMild).trans (Mild.setMember _ m _ (freeAbandoned_settings _))).trans
    (failQueue _ m .linkDown).toMild).trans (raise _ _).toMild

theorem stallTest (s : State) (m : MemberId) : Mild A s (s.stallTest m) := by
  unfold State.stallTest
  dsimp only
  split
  · exact .ite (((setLink s m _).trans (raise _ _).toMild).trans (failQueue _ _ _).toMild) (.refl s)
  · exact .ite (((setLink s m _).trans (raise _ _).toMild).trans (opportunity _ _).toMild) (.refl s)
  · exact .refl s

/-! ### The Frame Buffer Manager -/

theorem addWaiter (s : State) (w : Waiter) : Calm A s (s.addWaiter w) := setBuffer s _

theorem removeWaiters (s : State) (p : Waiter → Bool) : Calm A s (s.removeWaiters p) := setBuffer s _

theorem moveWaiter (s : State) (p : Waiter → Bool) (d : Deadline) : Calm A s (s.moveWaiter p d) := by
  unfold State.moveWaiter
  split
  · exact refl s
  · exact ite (refl s) ((removeWaiters s p).trans (addWaiter _ _))

theorem changeChunks (s : State) (d : Nat) (f : Chunk → Chunk) : Calm A s (s.changeChunks d f) := setChunks s _

theorem touched (s : State) (d : Nat) : Calm A s (s.touched d) :=
  foldl (fun s m => ite (opportunity s m) (refl s)) _ s

theorem putDeadline (s : State) (e : DirEntry) (d : Deadline) : Calm A s (s.putDeadline e d) :=
  ((setDir s _).trans (changeChunks _ _ _)).trans (ite (moveWaiter _ _ _) (refl _))

theorem putCls (s : State) (e : DirEntry) (c : Cls) : Calm A s (s.putCls e c) :=
  ((setDir s _).trans (changeChunks _ _ _)).trans (setBuffer _ _)

theorem bringDeadline (s : State) (d : Nat) (n : Deadline) : Calm A s (s.bringDeadline d n) := by
  unfold State.bringDeadline
  split
  · exact refl s
  · exact ite (putDeadline s _ _) (refl s)

theorem bringCls (s : State) (d : Nat) (n : Cls) : Calm A s (s.bringCls d n) := by
  unfold State.bringCls
  split
  · exact refl s
  · exact ite (putCls s _ _) (refl s)

theorem reportDeadline (s : State) (d : Nat) (n : Deadline) : Calm A s (s.reportDeadline d n) := by
  unfold State.reportDeadline
  split
  · exact refl s
  · exact ite ((putDeadline s _ _).trans (touched _ _)) (refl s)

theorem hit (s : State) (e : DirEntry) (d : Deadline) (c : Cls) : Calm A s (s.hit e d c) :=
  ((((setDir s _).trans (setBuffer _ _)).trans (bringDeadline _ _ _)).trans (bringCls _ _ _)).trans
    (ite (touched _ _) (refl _))

theorem settleStale (s : State) (d : Nat) : Calm A s (s.settleStale d) := (withdrawQueued s d).trans (freeIfDone _ d)

theorem idle (s : State) (e : DirEntry) : Calm A s (s.idle e) := by
  unfold State.idle
  split
  · exact settleStale s _
  · split
    · exact joinReclaim s _
    · exact freeIfDone s _
    · refine (putDeadline s e none).trans ?_
      dsimp only
      split
      · exact putCls _ _ _
      · exact refl _

theorem release (s : State) (d : Nat) : Calm A s (s.release d) := by
  unfold State.release
  split
  · exact refl s
  · exact (setDir s _).trans (ite (idle _ _) (refl _))

theorem markStale (s : State) (d : Nat) : Calm A s (s.markStale d) := by
  unfold State.markStale
  split
  · exact refl s
  · exact ((setDir s _).trans (setBuffer _ _)).trans (ite (settleStale _ _) (refl _))

theorem markStaleWhere (s : State) (p : DirEntry → Bool) : Calm A s (s.markStaleWhere p) :=
  foldl (fun s (e : DirEntry) => markStale s e.id) _ s

theorem released (s : State) (d : Nat) (p : Plan) : Calm A s (s.released d p) := by
  unfold State.released
  split
  · exact refl s
  · split
    · exact (setDir s _).trans (addWaiter _ _)
    · exact (setDir s _).trans (setHold _ _)
    · exact failEntry s _ _ _
    · exact ite (freeEntry s _) (failEntry s _ _ _)

theorem replanOne (gone : FrameKey → Bool) (s : State) (d : Nat) : Calm A s (s.replanOne gone d) := by
  unfold State.replanOne
  split
  · dsimp only
    split
    · exact setHold s _
    · exact ite (refl s) ((setHold s _).trans (released _ _ _))
  · exact refl s

theorem replanHold (s : State) (gone : FrameKey → Bool) : Calm A s (s.replanHold gone) := foldl (replanOne gone) _ s

theorem countPiece (s : State) (p : Piece) : Calm A s (s.countPiece p) := setLayout s _ _

theorem joinPiece (d : Nat) (s : State) (p : Piece) : Calm A s (s.joinPiece d p) := by
  unfold State.joinPiece
  split
  · exact refl s
  · exact join s _

theorem produce (s : State) (d n : Nat) : Calm A s (s.produce d n) := by
  unfold State.produce
  split
  · exact refl s
  · split
    · exact ite (((foldl countPiece _ s).trans (setDir _ _)).trans (foldl (joinPiece d) _ _))
        ((callPass s).trans (released _ _ _))
    · exact (callPass s).trans (released _ _ _)

/-! ### Marks -/

theorem evalTag (n : StreamId) (e : Entry) (s : State) (t : Tag) (h : A n := by first | assumption | exact trivial) : Calm A s (s.evalTag n e t) := by
  unfold State.evalTag
  split
  · exact ite ((setStream s n _).trans (ite (raise _ _) (refl _))) (refl s)
  · exact refl s

theorem evalFetched (n : StreamId) (k : FrameKey) (d : Direction) (w : Word) (s : State) (i : Fin 8) (h : A n := by first | assumption | exact trivial) :
    Calm A s (s.evalFetched n k d w i) := by
  unfold State.evalFetched
  split
  · exact ite ((setStream s n _).trans (ite (raise _ _) (refl _))) (refl s)
  · exact refl s

theorem fetchedMarks (s : State) (n : StreamId) (k : FrameKey) (d : Direction) (w : Word) (h : A n := by first | assumption | exact trivial) :
    Calm A s (s.fetchedMarks n k d w) := foldl (evalFetched n k d w) _ s

/-! ### The Egress Scheduler -/

theorem withdrawRate (s : State) (p : Port) (e : Nat) : Mild A s (s.withdrawRate p e) :=
  setPortLow s p _ (Nat.sub_le _ _)

theorem sendNext (s : State) (p : Port) (n : StreamId) (x : Presentation) (hu : (s.port p).up = true)
    (hh : s.halted = false) (hx : s.presentation n ≠ none) : Calm A s (s.sendNext p n x) := by
  unfold State.sendNext
  split
  · exact refl s
  · next r _ _ =>
    dsimp only
    have base : Calm A s (s.setPort p { s.port p with transmitting := some ⟨n, x.tick, r.viewer⟩ }) :=
      setPort s p _ rfl rfl
        (fun _ h => by
          rcases h with h | h
          · exact absurd (hu.symm.trans h) (by decide)
          · exact absurd (hh.symm.trans h) (by decide))
        fun y hy => by
          cases hy
          exact Or.inr hx
    have keep : (s.setPort p { s.port p with transmitting := some ⟨n, x.tick, r.viewer⟩ }).presentation n ≠ none := by
      cases p <;> exact hx
    split
    · exact (base.trans (setPresentation _ n _ (Or.inr (Or.inr keep)))).trans (emit _ _)
    · exact base.trans (setPresentation _ n _ (Or.inr (Or.inr keep)))

theorem chosenStream_sendable {s : State} {p : Port} {b : StreamId × Presentation} (h : s.chosenStream p = some b) :
    s.sendable p b.1 = some b.2 := by
  unfold State.chosenStream at h
  generalize allStreams = l at h
  have key : ∀ (l : List StreamId) (best : Option (StreamId × Presentation)),
      (∀ c, best = some c → s.sendable p c.1 = some c.2) →
      ∀ c, l.foldl (fun best n => match s.sendable p n with
        | none => best
        | some x => match best with
          | none => some (n, x)
          | some b => if x.deliver.ult b.2.deliver then some (n, x) else some b) best = some c →
        s.sendable p c.1 = some c.2 := by
    intro l
    induction l with
    | nil => exact fun _ h => h
    | cons n rest ih =>
      intro best hb
      refine ih _ ?_
      dsimp only
      split
      · exact hb
      · next x hx =>
        split
        · rintro c ⟨⟩
          exact hx
        · next b =>
          split
          · rintro c ⟨⟩
            exact hx
          · exact hb
  exact key l none (fun _ h => nomatch h) b h

theorem sendable_presentation {s : State} {p : Port} {n : StreamId} {x : Presentation} (h : s.sendable p n = some x) :
    s.presentation n ≠ none := by
  unfold State.sendable at h
  split at h
  · cases h
  · next hp => simp [hp]

theorem transmit (s : State) (p : Port) : Calm A s (s.transmit p) := by
  unfold State.transmit
  split
  · exact refl s
  · next hc =>
    simp only [Bool.or_eq_true, Bool.not_eq_true', not_or, Bool.not_eq_true, Bool.not_eq_false] at hc
    split
    · exact refl s
    · next hb =>
      exact sendNext s _ _ _ hc.1.2 hc.1.1 (sendable_presentation (chosenStream_sendable hb))

theorem cutTransmission (s : State) (p : Port) : Calm A s (s.cutTransmission p) := by
  unfold State.cutTransmission
  exact ite ((setPort s p { s.port p with transmitting := none } rfl rfl (fun _ _ => rfl) fun _ h => nomatch h).trans
    (emit _ (.cutShort p)))
    (refl s)

theorem cutStream (s : State) (n : StreamId) (p : Port) : Calm A s (s.cutStream n p) := by
  unfold State.cutStream
  split
  · exact ite ((cutTransmission s p).trans (transmit _ p)) (refl s)
  · exact refl s

theorem cancelViewer (s : State) (n : StreamId) (v : Fin 8) : Calm A s (s.cancelViewer n v) := by
  unfold State.cancelViewer
  split
  · exact refl s
  · next hx => exact setPresentation s n _ (Or.inr (Or.inr (by simp [hx])))

/-! ### Windows -/

theorem changeEntry (s : State) (n : StreamId) (w : Word) (f : Entry → Entry)
    (h : A n := by first | assumption | exact trivial) : Calm A s (s.changeEntry n w f) := setStream s n _

theorem ask (s : State) (n : StreamId) (e : Entry) (h : A n := by first | assumption | exact trivial) : Calm A s (s.ask n e) := by
  unfold State.ask
  split
  · split
    · exact (changeEntry s n _ _).trans (hit _ _ _ _)
    · exact addWaiter s _
  · exact refl s

theorem projectLoop (n : StreamId) (fuel : Nat) (s : State) (h : A n := by first | assumption | exact trivial) : Calm A s (projectLoop n fuel s) := by
  induction fuel generalizing s with
  | zero => exact refl s
  | succ fuel ih =>
    unfold Machine.projectLoop
    split
    · exact ((setStream s n _).trans (ask _ n _)).trans (ih _)
    · exact refl s

theorem project (s : State) (n : StreamId) (h : A n := by first | assumption | exact trivial) : Calm A s (s.project n) := projectLoop n 16 s

theorem projectLocate (s : State) (n : StreamId) (h : A n := by first | assumption | exact trivial) : Calm A s (s.projectLocate n) := by
  unfold State.projectLocate
  dsimp only
  split
  · exact refl s
  · exact (setStream s n _).trans (ask _ n _)

theorem projectLocateIfDue (s : State) (n : StreamId) (h : A n := by first | assumption | exact trivial) : Calm A s (s.projectLocateIfDue n) := by
  unfold State.projectLocateIfDue
  dsimp only
  split
  · exact refl s
  · exact ite (projectLocate s n) (refl s)

theorem giveBack (n : StreamId) (s : State) (e : Entry) : Calm A s (s.giveBack n e) := by
  unfold State.giveBack
  split
  · exact release s _
  · exact removeWaiters s _

theorem discard (s : State) (n : StreamId) (h : A n := by first | assumption | exact trivial) : Calm A s (s.discard n) := (setStream s n _).trans (foldl (giveBack n) _ _)

theorem unmarkSending (s : State) (n : StreamId) (h : A n := by first | assumption | exact trivial) : Calm A s (s.unmarkSending n) := setStream s n _

theorem reportEntry (n : StreamId) (s : State) (e : Entry) : Calm A s (s.reportEntry n e) := by
  unfold State.reportEntry
  split
  · split
    · exact reportDeadline s _ _
    · exact moveWaiter s _ _
  · exact refl s

theorem retime (s : State) (n : StreamId) (w : List Entry) (h : A n := by first | assumption | exact trivial) : Calm A s (s.retime n w) :=
  (setStream s n _).trans (foldl (reportEntry n) _ _)

theorem hold (s : State) (n : StreamId) (t : Option Time) (r : Bool) (h : A n := by first | assumption | exact trivial) : Calm A s (s.hold n t r) :=
  (setStream s n _).trans (retime _ n _)

theorem releaseHold (s : State) (n : StreamId) (a : Time) (h : A n := by first | assumption | exact trivial) : Calm A s (s.releaseHold n a) :=
  ((setStream s n _).trans (retime _ n _)).trans (project _ n)

/-! ### Streams -/

theorem handOver (s : State) (n : StreamId) (e : Entry) (a : SentAs) (h : A n := by first | assumption | exact trivial) : Calm A s (s.handOver n e a) :=
  (((setStream s n _).trans (ite (giveBack n _ e) (refl _))).trans (setPresentation _ n _)).trans (transmit _ _)

theorem setShown (s : State) (n : StreamId) (e : Entry) (h : A n := by first | assumption | exact trivial) : Calm A s (s.setShown n e) := by
  unfold State.setShown
  split
  · exact setStream s n _
  · exact (setStream s n _).trans (draw _)

theorem parkAtEnd (s : State) (n : StreamId) (e : Entry) (w : ListEnd) (h : A n := by first | assumption | exact trivial) : Calm A s (s.parkAtEnd n e w) := by
  unfold State.parkAtEnd
  dsimp only
  split
  · exact ((setStream s n _).trans (discard _ n)).trans (raise _ _)
  · exact ((setStream s n _).trans (discard _ n)).trans ((raise _ _).trans (draw _))

theorem finishLocate (s : State) (n : StreamId) (e : Entry) (l : Locate) (h : A n := by first | assumption | exact trivial) : Calm A s (s.finishLocate n e l) :=
  (raise s _).trans (setStream _ n _)

theorem consequences (s : State) (n : StreamId) (e : Entry) (h : A n := by first | assumption | exact trivial) : Calm A s (s.consequences n e) := by
  unfold State.consequences
  split
  · exact parkAtEnd s n e _
  · split
    · exact ite (finishLocate s n e _) (refl s)
    · exact refl s

theorem holdByMark (s : State) (n : StreamId) (e : Entry) (f : Option (Fin 8))
    (h : A n := by first | assumption | exact trivial) : Calm A s (s.holdByMark n e f) := by
  unfold State.holdByMark
  split
  · exact refl s
  · exact ite ((hold s n none true).trans (raise _ _)) (refl s)

theorem releaseRef (s : State) (r : Option Nat) : Calm A s (match r with | some d => s.release d | none => s) := by
  split
  · exact release s _
  · exact refl s

theorem finish (s : State) (n : StreamId) (i : Bool) (h : A n := by first | assumption | exact trivial) : Calm A s (s.finish n i) := by
  unfold State.finish
  split
  · exact refl s
  · dsimp only
    exact ((((((((setShown s n _).trans (foldl (evalTag n _) _ _)).trans (setStream _ n _)).trans
      (releaseRef _ _)).trans (consequences _ n _)).trans (holdByMark _ n _ _)).trans (project _ n)).trans
      (projectLocateIfDue _ n)).trans (markMirror _ n)

theorem endPresentation (s : State) (n : StreamId) (i : Bool) (h : A n := by first | assumption | exact trivial) : Calm A s (s.endPresentation n i) :=
  (setPresentation s n none).trans (finish _ n i)

theorem begin (s : State) (n : StreamId) (e : Entry) (a : SentAs) (h : A n := by first | assumption | exact trivial) : Calm A s (s.begin n e a) :=
  (handOver s n e a).trans (ite (refl _) (endPresentation _ n true))

theorem applyLate (s : State) (n : StreamId) (e : Entry) (o : LateOutcome) (w : Time) (h : A n := by first | assumption | exact trivial) : Calm A s (s.applyLate n e o w) := by
  refine (setStream s n { s.stream n with lateCount := (s.stream n).lateCount + 1 }).trans ?_
  unfold State.applyLate
  dsimp only
  split
  · exact raise _ _
  · exact refl _

theorem shift (s : State) (n : StreamId) (e : Entry) (t : Time) (h : A n := by first | assumption | exact trivial) : Calm A s (s.shift n e t) :=
  (setStream s n _).trans (retime _ n _)

theorem latePolicy (s : State) (n : StreamId) (e : Entry) (h : A n := by first | assumption | exact trivial) : Calm A s (s.latePolicy n e) := by
  unfold State.latePolicy
  dsimp only
  split
  · split
    · exact ite ((applyLate s n e _ _).trans (begin _ n e _)) (setStream s n _)
    · exact (applyLate s n e _ _).trans (begin _ n e _)
  · exact begin s n e _

theorem turn (s : State) (n : StreamId) (e : Entry) (h : A n := by first | assumption | exact trivial) : Calm A s (s.turn n e) := by
  unfold State.turn
  split
  · exact begin s n e _
  · exact begin s n e _
  · exact latePolicy s n e

theorem turnIfDue (s : State) (n : StreamId) (h : A n := by first | assumption | exact trivial) : Calm A s (s.turnIfDue n) := by
  unfold State.turnIfDue
  split
  · exact refl s
  · exact turn s n _

theorem endWait (s : State) (n : StreamId) (e : Entry) (h : A n := by first | assumption | exact trivial) : Calm A s (s.endWait n e) := by
  unfold State.endWait
  exact ite ((applyLate s n e _ _).trans (begin _ n e _))
    (((applyLate s n e _ _).trans (shift _ n e _)).trans (begin _ n _ _))

theorem wake (s : State) (n : StreamId) (e : Entry) (h : A n := by first | assumption | exact trivial) : Calm A s (s.wake n e) := by
  unfold State.wake
  exact ite (begin s n _ _) (endWait s n e)

theorem wakeable_waits {s : State} {n : StreamId} {e : Entry} (h : s.wakeable n = some e) : (s.stream n).Waits := by
  unfold State.wakeable at h
  dsimp only at h
  split at h
  · cases h
  · split at h
    · next hc =>
      simp only [Bool.and_eq_true, Bool.or_eq_true, beq_iff_eq] at hc
      rcases hc.2 with hc | hc
      · exact Or.inl hc.1
      · refine Or.inr fun hn => ?_
        simp [State.inWait, hn] at hc
    · cases h

/-- Waking streams is an inner operation for the streams that wait. -/
theorem wakeLoop (fuel : Nat) (s : State) (h : ∀ n, (s.stream n).Waits → A n) : Calm A s (wakeLoop fuel s) := by
  induction fuel generalizing s with
  | zero => exact refl s
  | succ fuel ih =>
    unfold Machine.wakeLoop
    split
    · exact refl s
    · next b hb =>
      obtain ⟨n, _, hn⟩ := List.exists_of_findSome?_eq_some hb
      have hw : ∃ e, s.wakeable n = some e ∧ (n, e) = b := by simpa using hn
      obtain ⟨e, he, rfl⟩ := hw
      have step : Calm A s (s.wake n e) := wake s n e (h n (wakeable_waits he))
      refine step.trans (ih _ fun k hk => ?_)
      by_contra ha
      have hl := step.others k ha
      refine ha (h k ?_)
      rw [hl.1] at hk
      exact hk

/-- Waking streams is an inner operation. -/
theorem wakeAll (s : State) : Calm (fun _ => True) s s.wakeAll := wakeLoop 256 s fun _ _ => trivial

/-- Waking streams changes no stream that waits for nothing. -/
theorem wakeAll_waiting (s : State) : Calm (fun n => (s.stream n).Waits) s s.wakeAll := wakeLoop 256 s fun _ h => h

theorem startRun (s : State) (n : StreamId) (v : Int) (a : Time) (h : A n := by first | assumption | exact trivial) : Calm A s (s.startRun n v a) :=
  (((discard s n).trans (unmarkSending _ n)).trans (setStream _ n _)).trans (project _ n)

theorem giveBackSending (n : StreamId) (s : State) (x : Option Entry) :
    Calm A s (match x with | some e => State.giveBack n s e | none => s) := by
  split
  · exact giveBack n s _
  · exact refl s

theorem closeStream (s : State) (n : StreamId) (h : A n := by first | assumption | exact trivial) : Mild A s (s.closeStream n) := by
  have base : ∀ x : Stream, Mild A s (((((match (s.stream n).sendingEntry with
      | some e => State.giveBack n (((s.setPresentation n none).cutStream n (s.stream n).port).discard n) e
      | none => ((s.setPresentation n none).cutStream n (s.stream n).port).discard n).withdrawRate
        (s.stream n).port ((s.stream n).egress * (s.stream n).unmuted)).setStream n x).markMirror n)) := fun x =>
    ((((((setPresentation s n none).trans (cutStream _ n _)).trans (discard _ n)).trans
      (giveBackSending n _ _)).toMild.trans (withdrawRate _ _ _)).trans ((setStream _ n _).trans (markMirror _ n)).toMild)
  unfold State.closeStream
  dsimp only
  split
  · exact (base _).trans (.ite (raise _ _).toMild (.refl _))
  · exact base _

/-! ### Allocation -/

theorem reclaimLoop (t : Nat) (b : Bool) (fuel : Nat) (s : State) : Calm A s (reclaimLoop t b fuel s) := by
  induction fuel generalizing s with
  | zero => exact refl s
  | succ fuel ih =>
    unfold Machine.reclaimLoop
    split
    · exact refl s
    · split
      · exact refl s
      · exact (freeEntry s _).trans (ih _)

theorem reclaimFor (s : State) (x : Needs) (t : Nat) : Calm A s (s.reclaimFor x t) := reclaimLoop _ _ _ s

theorem answer (s : State) (n : StreamId) (w : Word) (g : Stage) (d : Nat) : Calm (fun _ => True) s (s.answer n w g d) :=
  changeEntry s n w _

theorem answerHit (s : State) (n : StreamId) (w : Word) (d : Deadline) (c : Cls) (e : DirEntry) :
    Calm (fun _ => True) s (s.answerHit n w d c e) := ((removeWaiters s _).trans (answer _ n w _ _)).trans (hit _ e d c)

theorem answerSameKey (s : State) (k : FrameKey) : Calm (fun _ => True) s (s.answerSameKey k) := by
  refine foldl (fun s w => ?_) _ s
  split
  · split
    · split
      · exact answerHit s _ _ _ _ _
      · exact refl s
    · exact refl s
  · exact refl s

theorem addEntry (s : State) (e : DirEntry) : Calm (fun _ => True) s (s.addEntry e) := setBuffer s _

theorem allocated (s : State) (n : StreamId) (w : Word) (e : DirEntry) : Calm (fun _ => True) s (s.allocated n w e) :=
  (((addEntry s e).trans (answer _ n w _ _)).trans (fetchedMarks _ n _ _ _)).trans (answerSameKey _ _)

theorem serveRequest (s : State) (n : StreamId) (w : Word) (k : FrameKey) (d : Deadline) (c : Cls) :
    Calm (fun _ => True) s (s.serveRequest n w k d c) := by
  have base : ∀ x t, Calm (fun _ => True) s ((s.removeWaiters fun y => y.isRequest n w).reclaimFor x t) := fun x t =>
    (removeWaiters s _).trans (reclaimFor _ x t)
  unfold State.serveRequest
  dsimp only
  split
  · exact (base _ _).trans ((allocated _ n w _).trans (produce _ _ _))
  · exact (base _ _).trans ((setHold _ _).trans (allocated _ n w _))
  · exact (base _ _).trans (((addEntry _ _).trans (raise _ _)).trans (answer _ n w _ _))

theorem consider (p : Pass) (w : Waiter) : Calm (fun _ => True) p.state (p.consider w).state := by
  unfold Pass.consider
  split
  · exact refl _
  · split
    · unfold Pass.request
      dsimp only
      split
      · exact answerHit _ _ _ _ _ _
      · split
        · exact refl _
        · split
          · exact serveRequest _ _ _ _ _ _
          · split <;> exact refl _
    · unfold Pass.frame
      dsimp only
      split
      · exact (removeWaiters _ _).trans (produce _ _ _)
      · exact refl _

theorem passLoop (fuel : Nat) (p : Pass) : Calm (fun _ => True) p.state (passLoop fuel p).state := by
  induction fuel generalizing p with
  | zero => exact refl _
  | succ fuel ih =>
    unfold Machine.passLoop
    split
    · exact refl _
    · exact (consider p _).trans (ih _)

theorem answerWaiting (s : State) (w : Waiter) : Calm (fun _ => True) s (s.answerWaiting w) := by
  unfold State.answerWaiting
  split
  · exact changeEntry s _ _ _
  · exact refl s

theorem servicePass (s : State) : Calm (fun _ => True) s s.servicePass :=
  ((setBuffer s { s.buffer with passWanted := false }).trans
    (passLoop _ ⟨_, false, false, []⟩)).trans (foldl answerWaiting _ _)

end Calm

/-- In a settled state nothing wakes. -/
theorem wakeAll_settled {s : State} (h : s.Settled) : s.wakeAll = s := by
  have k : allStreams.findSome? (fun n => (s.wakeable n).map fun e => (n, e)) = none := by
    rw [List.findSome?_eq_none_iff]
    intro n _
    rw [h n]
    rfl
  unfold State.wakeAll wakeLoop
  rw [k]

/-- Whether a state is settled rests on its streams and Engine Time only. -/
theorem settled_of_streams {s t : State} (h : s.Settled) (k : t.streams = s.streams) (e : t.et = s.et) : t.Settled := by
  intro n
  have := h n
  unfold State.wakeable State.inWait State.stream at *
  rw [k, e]
  exact this

end Sys2Proof.Machine
end

