-- ==== Sys2Proof/Laws/Memory.lean ====
section
/-! SUPPORT. The frame store: a read after a write, and the canonical form kept by every write. -/

namespace Sys2Proof.Machine

/-! ### Reading after writing -/

theorem find?_filter_of_imp {α : Type} (p q : α → Bool) (l : List α) (h : ∀ x, q x = true → p x = true) :
    (l.filter p).find? q = l.find? q := by
  induction l with
  | nil => rfl
  | cons x rest ih =>
    by_cases hp : p x = true
    · simp [hp, List.find?_cons, ih]
    · have hq : q x = false := by
        by_contra hc
        exact hp (h x (by simpa using hc))
      simp [hp, hq, ih, List.find?_cons]

theorem find?_filter_none {α : Type} (p q : α → Bool) (l : List α) (h : ∀ x, q x = true → p x = false) :
    (l.filter p).find? q = none := by
  simp only [List.find?_eq_none, List.mem_filter, and_imp]
  intro x _ hp hq
  rw [h x hq] at hp
  cases hp

/-- What the cells of written bytes give for an address: nothing outside the bytes, and inside the byte, unless it reads as
an unlisted address does. -/
theorem cellsOf_find? (bytes : List Byte) (a x : Nat) :
    (cellsOf a bytes).find? (fun c => c.1 == x) =
      if a ≤ x then
        match bytes[x - a]? with
        | some b => if b = unwritten then none else some (x, b)
        | none => none
      else none := by
  induction bytes generalizing a with
  | nil => simp [cellsOf]
  | cons b rest ih =>
    by_cases hax : a = x
    · subst hax
      by_cases hb : b = unwritten
      · simp [cellsOf, hb, ih]
      · simp [cellsOf, hb]
    · have step : (cellsOf a (b :: rest)).find? (fun c => c.1 == x) =
          (cellsOf (a + 1) rest).find? (fun c => c.1 == x) := by
        by_cases hb : b = unwritten
        · simp [cellsOf, hb]
        · have : (a == x) = false := by simpa using hax
          simp [cellsOf, hb, List.find?_cons, this]
      rw [step, ih]
      by_cases hlt : a ≤ x
      · have h1 : a + 1 ≤ x := by omega
        have h2 : x - a = (x - (a + 1)) + 1 := by omega
        simp [hlt, h1, h2]
      · have h1 : ¬ a + 1 ≤ x := by omega
        simp [hlt, h1]

/-- A byte outside the bytes written reads as before. -/
theorem readByte_writeBytes_outside (store : List Host.Cell) (a : Nat) (bytes : List Byte) (x : Nat)
    (h : x < a ∨ a + bytes.length ≤ x) : readByte (writeBytes store a bytes) x = readByte store x := by
  unfold readByte writeBytes
  rw [List.find?_append, List.find?_append, cellsOf_find?]
  rcases h with h | h
  · rw [find?_filter_of_imp _ _ store (by intro c hc; simp at hc ⊢; omega),
      find?_filter_none _ _ store (by intro c hc; simp at hc ⊢; omega), if_neg (by omega)]
    simp
  · rw [find?_filter_none _ _ store (by intro c hc; simp at hc ⊢; omega),
      find?_filter_of_imp _ _ store (by intro c hc; simp at hc ⊢; omega), if_pos (by omega),
      List.getElem?_eq_none (by omega)]
    simp

/-- A byte written reads back. -/
theorem readByte_writeBytes_inside (store : List Host.Cell) (a : Nat) (bytes : List Byte) (i : Nat) (h : i < bytes.length) :
    readByte (writeBytes store a bytes) (a + i) = bytes[i] := by
  unfold readByte writeBytes
  rw [List.find?_append, List.find?_append, cellsOf_find?,
    find?_filter_none _ _ store (by intro c hc; simp at hc ⊢; omega),
    find?_filter_none _ _ store (by intro c hc; simp at hc ⊢; omega), if_pos (by omega)]
  have : a + i - a = i := by omega
  rw [this, List.getElem?_eq_getElem h]
  by_cases hb : bytes[i] = unwritten
  · simp [hb]
  · simp [hb]

/-! ### The canonical form -/

theorem canonicalFrom_mono {low low' : Nat} {l : List Host.Cell} (h : canonicalFrom low l = true) (hl : low' ≤ low) :
    canonicalFrom low' l = true := by
  cases l with
  | nil => rfl
  | cons c rest =>
    simp only [canonicalFrom, Bool.and_eq_true, decide_eq_true_eq] at h ⊢
    exact ⟨⟨by omega, h.1.2⟩, h.2⟩

theorem canonicalFrom_filter (p : Host.Cell → Bool) {low : Nat} {l : List Host.Cell} (h : canonicalFrom low l = true) :
    canonicalFrom low (l.filter p) = true := by
  induction l generalizing low with
  | nil => rfl
  | cons c rest ih =>
    simp only [canonicalFrom, Bool.and_eq_true, decide_eq_true_eq] at h
    by_cases hp : p c = true
    · simp only [List.filter_cons, hp, if_true, canonicalFrom, Bool.and_eq_true, decide_eq_true_eq]
      exact ⟨h.1, ih h.2⟩
    · simp only [List.filter_cons, hp]
      exact canonicalFrom_mono (ih h.2) (by omega)

theorem canonicalFrom_filter_ge (a : Nat) {low : Nat} {l : List Host.Cell} (h : canonicalFrom low l = true) :
    canonicalFrom a (l.filter (fun c => decide (a ≤ c.1))) = true := by
  induction l generalizing low with
  | nil => rfl
  | cons c rest ih =>
    simp only [canonicalFrom, Bool.and_eq_true, decide_eq_true_eq] at h
    by_cases hp : a ≤ c.1
    · simp only [List.filter_cons, hp, decide_true, if_true, canonicalFrom, Bool.and_eq_true, decide_eq_true_eq]
      exact ⟨⟨trivial, h.1.2⟩, canonicalFrom_filter _ h.2⟩
    · simp only [List.filter_cons, hp, decide_false]
      exact ih h.2

theorem canonicalFrom_append {low a : Nat} {l k : List Host.Cell} (hl : canonicalFrom low l = true)
    (hb : ∀ c ∈ l, c.1 < a) (hk : canonicalFrom a k = true) (hlow : low ≤ a) : canonicalFrom low (l ++ k) = true := by
  induction l generalizing low with
  | nil => exact canonicalFrom_mono hk hlow
  | cons c rest ih =>
    simp only [List.cons_append, canonicalFrom, Bool.and_eq_true, decide_eq_true_eq] at hl ⊢
    exact ⟨hl.1, ih hl.2 (fun d hd => hb d (List.mem_cons_of_mem _ hd)) (hb c (List.mem_cons_self ..))⟩

theorem cellsOf_canonical (bytes : List Byte) (a : Nat) : canonicalFrom a (cellsOf a bytes) = true := by
  induction bytes generalizing a with
  | nil => rfl
  | cons b rest ih =>
    by_cases hb : b = unwritten
    · simpa [cellsOf, hb] using canonicalFrom_mono (ih (a + 1)) (by omega)
    · simp [cellsOf, hb, canonicalFrom, ih]

theorem cellsOf_below (bytes : List Byte) (a : Nat) : ∀ c ∈ cellsOf a bytes, c.1 < a + bytes.length := by
  induction bytes generalizing a with
  | nil => simp [cellsOf]
  | cons b rest ih =>
    intro c hc
    by_cases hb : b = unwritten
    · have := ih (a + 1) c (by simpa [cellsOf, hb] using hc)
      simp only [List.length_cons]
      omega
    · simp only [cellsOf, hb, if_false, List.mem_cons] at hc
      rcases hc with rfl | hc
      · simp
      · have := ih (a + 1) c hc
        simp only [List.length_cons]
        omega

/-- A write keeps the canonical form. -/
theorem writeBytes_wf (store : List Host.Cell) (a : Nat) (bytes : List Byte) (h : Memory.wf store = true) :
    Memory.wf (writeBytes store a bytes) = true := by
  unfold Memory.wf writeBytes at *
  have left : canonicalFrom 0 (store.filter (fun c => decide (c.1 < a)) ++ cellsOf a bytes) = true :=
    canonicalFrom_append (canonicalFrom_filter _ h) (by simp) (cellsOf_canonical bytes a) (by omega)
  refine canonicalFrom_append left (a := a + bytes.length) ?_ (canonicalFrom_filter_ge _ h) (by omega)
  intro c hc
  rcases List.mem_append.mp hc with hc | hc
  · simp at hc
    omega
  · exact cellsOf_below bytes a c hc

/-- The frame store after power-on has the canonical form. -/
theorem reset_store_wf : Memory.wf State.reset.buffer.store = true := rfl

end Sys2Proof.Machine
end

