-- ==== Sys2Proof/WellFormed.lean ====
section
/-! DEFINITION. Which commands are well formed: a record's body has the length its frame states, the body of an order is of
the form that its command names, and a message or a set of header bytes has the shape its command names. Nothing in the
machine rests on it: an ill-formed command is acted on by what its bytes say (log 22). -/

namespace Sys2Proof

open Sys2Proof.Machine

/-- The body is as long as the frame says. -/
def Record.lengthOk (r : Record) : Bool := r.body.length == r.len.toNat

/-- The byte at an offset of the body has one of the values given. A body too short to hold the byte is of no form and
passes: it is answered BAD_LENGTH (R12). -/
def Record.formByte (r : Record) (offset : Nat) (p : Nat → Bool) : Bool :=
  decide (r.body.length ≤ offset) || p (u8 r.body offset)

/-- The order has the form its command names: its body is as long as its frame says, and the byte that tells the forms of
its tag apart has a value of this form. -/
def Record.hasForm (r : Record) (offset : Nat) (p : Nat → Bool) : Bool := r.lengthOk && r.formByte offset p

/-- The four bytes at an offset, where the body holds them, satisfy `p`. -/
def Record.formWord (r : Record) (offset : Nat) (p : Nat → Bool) : Bool :=
  decide (r.body.length < offset + 4) || p (u32 r.body offset)

/-- The 256 bytes of a header (1.2). -/
def HeaderRead.ok : HeaderRead → Bool
  | .failed => true
  | .bytes b => b.length == 256

/-- A message is an ATTACH (10.8). -/
def isAttach (b : List Byte) : Bool := match linkMessage b with | .attach _ => true | _ => false
/-- A message is a DATA (10.8). -/
def isData (b : List Byte) : Bool := match linkMessage b with | .data .. => true | _ => false
/-- A message is a DONE (10.8). -/
def isDone (b : List Byte) : Bool := match linkMessage b with | .done .. => true | _ => false

/-- The action code of a write to CONTROL, bits 7:0, names no action: it is 0, or 8 to 255 (R2, 10.2). -/
def actionFree (v : Word) : Bool := v.toNat % 256 == 0 || decide (7 < v.toNat % 256)

/-- Well-formed commands. -/
def Instr.wellFormed : Instr → Bool
  | .powerOn => true
  | .start header _ _ => header.ok
  | .startDeferred header _ _ => header.ok
  | .stop => true
  | .stopComplete => true
  | .reset => true
  | .scan _ _ => true
  | .resumeIntake _ _ _ => true
  | .clearFault => true
  | .clearLost => true
  | .noticeLevelWrite _ => true
  | .registerWrite reg value => reg != .control || actionFree value
  | .scanTimerExpiry _ _ => true
  | .furtherScan _ _ => true
  | .pad r => r.lengthOk
  | .unknownTag tag r => orderKind tag == .unknown && r.lengthOk
  | .laydDefine r => r.hasForm 5 (fun v => v != 0)
  | .laydDelete r => r.hasForm 5 (fun v => v == 0)
  | .layc _ => true
  | .clipDefine r => r.lengthOk && r.formWord 24 (fun v => v != 0)
  | .clipDelete r => r.lengthOk && r.formWord 24 (fun v => v == 0)
  | .memb r => r.lengthOk
  | .mrst r => r.lengthOk
  | .openStream r => r.lengthOk
  | .cuesReplace r => r.hasForm 5 (fun v => v != 1)
  | .cuesAppend r => r.hasForm 5 (fun v => v == 1)
  | .xprtPlay r => r.hasForm 5 (fun v => v == 1)
  | .xprtHold r => r.hasForm 5 (fun v => v == 2)
  | .xprtResume r => r.hasForm 5 (fun v => v == 3)
  | .xprtPark r => r.hasForm 5 (fun v => v == 4)
  | .xprtLocate r => r.hasForm 5 (fun v => v == 5)
  | .xprtStep r => r.hasForm 5 (fun v => decide (v ≠ 1) && decide (v ≠ 2) && decide (v ≠ 3) && decide (v ≠ 4) && decide (v ≠ 5))
  | .markSet r => r.hasForm 6 (fun v => v != 1)
  | .markClear r => r.hasForm 6 (fun v => v == 1)
  | .shut r => r.lengthOk
  | .sharAdd r => r.hasForm 5 (fun v => v == 0)
  | .sharRemove r => r.hasForm 5 (fun v => v == 1)
  | .sharMute r => r.hasForm 5 (fun v => v == 2)
  | .sharUnmute r => r.hasForm 5 (fun v => decide (2 < v))
  | .hostAccessFault _ _ => true
  | .noticeBatchWrite _ _ => true
  | .noticeFillAdvance _ => true
  | .mirrorRecordWrite _ => true
  | .tickTurn _ => true
  | .rlsd _ => true
  | .slipWaitEnd _ => true
  | .servicePass => true
  | .linkPartnerDetected _ => true
  | .attach _ message => isAttach message
  | .memberLinkLost _ => true
  | .data _ message => isData message
  | .memberDone _ message => isDone message
  | .memberMessageDiscard _ message => linkMessage message == .discarded
  | .tagExpiry _ _ => true
  | .holdoffEnd _ => true
  | .fragmentEligible _ => true
  | .messageSent _ => true
  | .portLinkUp _ => true
  | .portLinkDown _ => true
  | .portFrameReceived _ _ => true

end Sys2Proof
end

