-- ==== Sys2Proof/Tests/Slice0.lean ====
section
/-! SUPPORT. Tests: ill-formed commands that WellFormed refuses, worked examples of the manual, and a witness for the
hypotheses of each statement, clause by clause. -/

namespace Sys2Proof.Tests

open Sys2Proof.Machine

/-! ### Small states and records -/

/-- A record whose frame states the length of its body. -/
def rec (b : List Byte) : Record := ⟨BitVec.ofNat 32 b.length, b⟩

/-- Working copies with both logs of 4,096 bytes and a period of 100 µs. -/
def working : Working := ⟨256, 4096, 4352, 4096, 8448, 100000⟩

/-- A RUNNING engine in a scan to order fill 2,048. -/
def run : State :=
  { State.reset with et := 1000, region := { Region.reset with engine := .running, work := working, scan := some 2048 } }

/-- The region changed. -/
def withRegion (s : State) (f : Region → Region) : State := { s with region := f s.region }

/-- The order reader takes an order. -/
theorem takes (s : State) (c : Instr) (tag : Word) (b : List Byte) (ho : orderOf c = some (tag, rec b))
    (hr : s.region = run.region) (hl : (rec b).len.toNat % 8 = 0 ∧ (rec b).len.toNat ≤ 2000) (hs : s.Settled) :
    s.Takes c tag (rec b) := by
  refine ⟨ho, ⟨by rw [hr]; rfl, by rw [hr]; rfl, ⟨2048, by rw [hr]; rfl, ?_⟩, hl.1, by omega, ?_⟩, hs⟩
  · have : s.region.orderTaken = 0 := by rw [hr]; rfl
    rw [this]
    have := hl.2
    show _ ≤ 2048
    omega
  · have h1 : s.region.orderTaken = 0 := by rw [hr]; rfl
    have h2 : s.region.work.orderSize = 4096 := by rw [hr]; rfl
    have := hl.2
    rw [h1, h2]
    show 0 + 8 + _ ≤ 4096
    omega

theorem run_settled : run.Settled := by unfold State.Settled; decide

/-! ### WellFormed (log 22) -/

theorem test_wellFormed_header : (Instr.start (.bytes []) .failed .failed).wellFormed = false ∧
    (Instr.startDeferred (.bytes (res 255)) .failed .failed).wellFormed = false ∧
    (Instr.start (.bytes (res 256)) .failed .failed).wellFormed = true := by
  refine ⟨by decide, ?_, ?_⟩
  · show ((res 255).length == 256) = false
    rw [res, List.length_replicate]
    rfl
  · show ((res 256).length == 256) = true
    rw [res, List.length_replicate]
    rfl

theorem test_wellFormed_control : (Instr.registerWrite .control 0x101).wellFormed = false ∧
    (Instr.registerWrite .control 8).wellFormed = true ∧ (Instr.registerWrite .status 1).wellFormed = true := by decide

theorem test_wellFormed_length : (Instr.pad ⟨8, []⟩).wellFormed = false ∧ (Instr.memb ⟨16, []⟩).wellFormed = false ∧
    (Instr.mrst ⟨8, []⟩).wellFormed = false ∧ (Instr.openStream ⟨8, []⟩).wellFormed = false ∧
    (Instr.shut ⟨8, []⟩).wellFormed = false ∧ (Instr.unknownTag 0 ⟨8, []⟩).wellFormed = false ∧
    (Instr.xprtPlay ⟨48, res 40⟩).wellFormed = false := by decide

theorem test_wellFormed_tag : (Instr.unknownTag tagMARK (rec [])).wellFormed = false ∧
    (Instr.unknownTag 0 (rec [])).wellFormed = true := by decide

theorem test_wellFormed_layouts : (Instr.laydDefine (rec (res 56))).wellFormed = false ∧
    (Instr.laydDelete (rec (res 5 ++ le 1 1 ++ res 50))).wellFormed = false ∧
    (Instr.clipDefine (rec (res 48))).wellFormed = false ∧
    (Instr.clipDelete (rec (res 24 ++ le 4 256 ++ res 20))).wellFormed = false := by decide

theorem test_wellFormed_streams : (Instr.cuesReplace (rec (res 5 ++ le 1 1 ++ res 10))).wellFormed = false ∧
    (Instr.cuesAppend (rec (res 16))).wellFormed = false ∧ (Instr.xprtPlay (rec (res 40))).wellFormed = false ∧
    (Instr.xprtHold (rec (res 40))).wellFormed = false ∧ (Instr.xprtResume (rec (res 40))).wellFormed = false ∧
    (Instr.xprtPark (rec (res 40))).wellFormed = false ∧ (Instr.xprtLocate (rec (res 40))).wellFormed = false ∧
    (Instr.xprtStep (rec (res 5 ++ le 1 5 ++ res 34))).wellFormed = false ∧
    (Instr.xprtStep (rec (res 5 ++ le 1 6 ++ res 34))).wellFormed = true := by decide

theorem test_wellFormed_marks : (Instr.markSet (rec (res 6 ++ le 1 1 ++ res 17))).wellFormed = false ∧
    (Instr.markClear (rec (res 24))).wellFormed = false ∧
    (Instr.sharAdd (rec (res 5 ++ le 1 1 ++ res 18))).wellFormed = false ∧
    (Instr.sharRemove (rec (res 24))).wellFormed = false ∧ (Instr.sharMute (rec (res 24))).wellFormed = false ∧
    (Instr.sharUnmute (rec (res 24))).wellFormed = false := by decide

theorem test_wellFormed_messages : (Instr.attach 0 (le 1 4 ++ res 7)).wellFormed = false ∧
    (Instr.data 0 (le 1 2 ++ res 7)).wellFormed = false ∧ (Instr.memberDone 0 (le 1 3 ++ le 1 32 ++ res 6)).wellFormed = false ∧
    (Instr.memberMessageDiscard 0 (le 1 3 ++ res 7)).wellFormed = false ∧
    (Instr.memberMessageDiscard 0 [1]).wellFormed = true := by decide

/-- No row of the table has bits. -/
theorem test_decode : decodeTableWord 32 0 = none := rfl

/-! ### Worked examples of the manual -/

/-- The layout entry L0 of 2.4. -/
def entry0 : LayoutDef := ⟨0, 2000000, 256, [0, 1, 2, 3, 4, 5], some [6, 7, 6, 7, 6, 7], 1024, .skew⟩

/-- 2.4: chunks 0, 1, 5 and 34 of frame 100 of clip 7. -/
theorem test_mapping :
    (entry0.memberOf 1912778, entry0.alternateOf 1912778, entry0.blockOf 1912778, entry0.run 1912778 8642) =
      (4, some 6, 319946, 54) ∧
    (entry0.memberOf 1912832, entry0.alternateOf 1912832, entry0.blockOf 1912832, entry0.run 1912832 8588) =
      (5, some 7, 319744, 256) ∧
    (entry0.memberOf 1913856, entry0.blockOf 1913856) = (4, 320000) ∧
    (entry0.memberOf 1921280, entry0.alternateOf 1921280, entry0.blockOf 1921280, entry0.run 1921280 140) =
      (1, some 7, 321024, 140) := by decide

/-- 2.4: the columns had the interleave been ROTATE. -/
theorem test_mapping_rotate :
    let d := { entry0 with interleave := .rotate }
    d.column 1912778 = 1 ∧ d.column 1913856 = 0 ∧ d.column 1921280 = 5 := by decide

/-- 4.2: periods of the common rates. -/
theorem test_periods : periodWhole 24 1 = 41666666 ∧ periodRest 24 1 = 16 ∧ periodWhole 24000 1001 = 41708333 ∧
    periodRest 24000 1001 = 8000 ∧ periodWhole 60000 1001 = 16683333 ∧ periodRest 60000 1001 = 20000 := by decide

/-- A stream at 24000/1001. -/
def film : Stream := { Stream.reset with rateN := 24000, rateD := 1001, q := 41708333, r := 8000 }

/-- The first run ticks of 4.3. -/
theorem test_ticks :
    let p : Projection := { Projection.reset with anchor := 5000000000, deliver := 5000000000 }
    let p1 := p.step film
    let p3 := (p1.step film).step film
    p1.deliver = 5041708333 ∧ p1.acc = 8000 ∧ p3.deliver = 5125125000 ∧ p3.acc = 0 ∧
      ((p3.step film).step film).deliver = 5208541666 := by decide

/-- The cue list of 5.7. -/
def loopCues : List Cue :=
  [⟨false, false, 3, 1000, 20, none, 0⟩, ⟨false, true, 4, 0, 5, some ⟨1, 2⟩, 2⟩, ⟨true, false, 0, 0, 2, none, 0⟩,
    ⟨false, false, 5, 200, 30, none, 0⟩]

/-- 5.7: the four advances at S = 64. -/
theorem test_advance_loop : advance loopCues 64 0 120 [0, 2, 0, 0] = ⟨1, 24, [0, 2, 0, 0], [], none⟩ ∧
    advance loopCues 64 1 24 [0, 2, 0, 0] = ⟨1, 8, [0, 0, 0, 0], [(1, 1), (1, 0)], none⟩ ∧
    advance loopCues 64 1 8 [0, 0, 0, 0] = ⟨3, 16, [0, 2, 0, 0], [(1, 2)], none⟩ ∧
    advance loopCues 64 3 16 [0, 2, 0, 0] = ⟨3, 80, [0, 2, 0, 0], [], none⟩ := by decide

/-- 5.8: back at S = −24, to the start. -/
theorem test_advance_reverse : advance loopCues (-24) 3 16 [0, 2, 0, 0] = ⟨2, 8, [0, 2, 0, 0], [], none⟩ ∧
    advance loopCues (-24) 1 0 [0, 2, 0, 0] = ⟨0, 136, [0, 2, 0, 0], [], none⟩ ∧
    advance loopCues (-24) 0 16 [0, 2, 0, 0] = ⟨0, 0, [0, 2, 0, 0], [], some .atStart⟩ := by decide

/-- 5.9: the end clamp. -/
theorem test_advance_end : advance loopCues 8 3 232 [0, 2, 0, 0] = ⟨3, 232, [0, 2, 0, 0], [], some .atEnd⟩ := by decide

/-- 5.7 and 5.8: clip frames in a REVERSE and a FORWARD cue, and directions. -/
theorem test_clip_frames : (⟨false, true, 4, 0, 5, none, 0⟩ : Cue).clipFrame 24 = 1 ∧
    (⟨false, false, 5, 200, 30, none, 0⟩ : Cue).clipFrame 80 = 210 ∧ directionAt loopCues 1 64 = .reverse ∧
    directionAt loopCues 1 (-24) = .forward ∧ runCls 64 = .scrub ∧ runCls (-16) = .play := by decide

/-- 8.10: the expiry of the READ issued at 1,000,300,000 under timeout code 6. -/
theorem test_expiry : expiryAt 1000300000 6 = some 1001914368 := by decide

/-- 9.7: fragments of a frame of 20,000 bytes and when they are eligible at E = 4,000 and 2,000. -/
theorem test_fragments : fragmentCount 20000 = 3 ∧ fragmentLength 20000 2 = 3616 ∧ pacing 4000 1 = 2048 ∧
    pacing 4000 2 = 4096 ∧ pacing 2000 2 = 8192 ∧ allowance 20000 4000 = 5000 ∧ allowance 20000 2000 = 10000 := by decide

/-- 1.7: a LATE that needs a PAD, its notice fill of 20,448 being position 4,064 of 4,096 bytes. -/
def wrapRegion : Region :=
  { run.region with
    noticeFill := 20448, noticeTaken := 16448, noticeLevel := 3
    notices := [⟨.late 0 .skip .fillMissing 7 1 2 0 5, 9⟩] }

theorem test_notice_wrap : wrapRegion.span wrapRegion.noticeFill 48 = 80 ∧
    (wrapRegion.notices.map Notice.size) = [48] ∧ signals 3 4 = true ∧ signals 3 1 = false ∧ signals 7 7 = true := by decide

/-- 10.2: IDENT and STATUS. -/
theorem test_registers : readRegister run.region 0x00 = some 0x10645A1C ∧ readRegister run.region 0x10 = some 1 ∧
    readRegister { run.region with intake := .blocked, faultLatch := true, startFault := 8 } 0x10 = some 0x80D := by decide

/-- R158 and 10.5: the codes of a FAIL without a chunk. -/
theorem test_fail_layout : (Notice.mk (.fail ⟨7, 2, 100⟩ .unmapped none 0 0 1) 5).bytes.length = 56 ∧
    ((Notice.mk (.fail ⟨7, 2, 100⟩ .unmapped none 0 0 1) 5).bytes.drop 24).take 4 = [7, 7, 255, 0] := by decide

/-! ### Witnesses: the machine and the Region Interface -/

/-- HALTED, with the latch set. -/
def halt : State := { State.reset with region := { Region.reset with engine := .halted, faultLatch := true } }

/-- STOPPING. -/
def stopping : State := { State.reset with region := { Region.reset with engine := .stopping, work := working } }

theorem member_reset (m : MemberId) : State.reset.member m = Member.reset := by
  simp [State.reset, State.member, Dispatcher.reset]

/-- A state with a sound region and the other blocks as after power-on is sound. -/
theorem sound_of (r : Region) (h : r.Sound) : ({ State.reset with region := r } : State).Sound :=
  ⟨h, fun m => by
      have k : ({ State.reset with region := r } : State).member m = Member.reset := member_reset m
      rw [k]
      exact ⟨by decide, by decide, by decide, by decide, by decide⟩,
    ⟨Nat.zero_le _, Nat.zero_le _⟩, rfl, fun p _ => by cases p <;> rfl⟩

theorem witness_step : ({ State.reset with pending := [.stop, .reset] } : State).pending = .stop :: [.reset] ∧
    State.reset.pending = [] := ⟨rfl, rfl⟩

theorem witness_sound : ({ State.reset with region := { Region.reset with engine := .running } } : State).Sound ∧
    ∃ t, step ({ State.reset with region := { Region.reset with engine := .running } } : State) = .next t :=
  ⟨sound_of _ ⟨by decide, by decide, by decide, by decide, by decide⟩, _, rfl⟩

theorem witness_halted : halt.Sound ∧ halt.halted = true ∧ (Instr.stop ≠ .reset ∧ Instr.stop ≠ .powerOn) ∧
    ∃ t, exec .stop halt = .next t :=
  ⟨sound_of _ ⟨by decide, by decide, by decide, by decide, by decide⟩, rfl, by decide, _, rfl⟩

/-- HALTED and NOTICE_LEVEL lowered from 7 to 6. -/
theorem witness_halted_level : (6 : Word).setWidth 3 < halt.region.noticeLevel := by decide

theorem witness_controls : run.region.engine ≠ .stopped ∧ State.reset.region.engine ≠ .running ∧
    State.reset.region.engine = .stopped ∧ halt.region.engine = .halted ∧ run.region.intake = .taking ∧
    run.region.engine ≠ .halted ∧ (halt.region.faultLatch = true ∧ (6 : Word).toNat % 8 < halt.region.noticeLevel.toNat) ∧
    State.reset.region.noticeLevel.toNat ≤ (15 : Word).toNat % 8 := by decide

/-- A header of a region of 16,384 bytes that passes every check, laid out by 10.3. -/
def header : List Byte :=
  le 4 1 ++ le 4 16384 ++ le 4 256 ++ le 4 4096 ++ le 4 4352 ++ le 4 4096 ++ le 4 8448 ++ le 4 100 ++ le 4 8 ++ res 28
    ++ (le 4 0 ++ le 4 8 ++ le 4 16 ++ le 4 16) ++ res 176

/-- The areas of a header with these fields lie in the region and apart. -/
theorem areas_ok (h : List Byte) (h4 : u32 h 0x04 = 16384) (h8 : u32 h 0x08 = 256) (hc : u32 h 0x0C = 4096)
    (h10 : u32 h 0x10 = 4352) (h14 : u32 h 0x14 = 4096) (h18 : u32 h 0x18 = 8448) : HeaderCheck h 7 := by
  show (∀ a ∈ [(u32 h 0x08, u32 h 0x0C), (u32 h 0x10, u32 h 0x14), (u32 h 0x18, 4096)],
      a.1 % 64 = 0 ∧ a.1 + a.2 ≤ u32 h 0x04) ∧
    List.Pairwise (fun a b : Nat × Nat => a.1 + a.2 ≤ b.1 ∨ b.1 + b.2 ≤ a.1)
      ((0, 256) :: [(u32 h 0x08, u32 h 0x0C), (u32 h 0x10, u32 h 0x14), (u32 h 0x18, 4096)])
  rw [h4, h8, hc, h10, h14, h18]
  decide

theorem header_ok : ∀ k, HeaderCheck header k := by
  intro k
  match k with
  | 0 => trivial
  | 1 => trivial
  | 2 => trivial
  | 3 => exact (by decide : u32 header 0x00 = 1)
  | 4 => exact (by decide : u32 header 0x04 % 4096 = 0 ∧ u32 header 0x04 ≠ 0 ∧ u32 header 0x04 ≤ 64 * 1048576)
  | 5 => exact ⟨12, by decide⟩
  | 6 => exact ⟨12, by decide⟩
  | 7 => exact areas_ok header (by decide) (by decide) (by decide) (by decide) (by decide) (by decide)
  | 8 => exact (by decide : u32 header 0x44 % 8 = 0 ∧ u32 header 0x48 % 8 = 0 ∧ (w32 header 0x48 - w32 header 0x4C).toNat ≤ u32 header 0x14)
  | _ + 9 => trivial

/-- The header with version 2, and the header with an order taken that is no multiple of 8. -/
def oldHeader : List Byte := le 4 2 ++ header.drop 4
def oddHeader : List Byte := header.take 68 ++ le 4 4 ++ header.drop 72

/-- A header that fails check 3 first, and one that fails check 8 only. -/
theorem witness_header_refused : (¬ HeaderCheck oldHeader 3 ∧ ∀ k, k < 3 → HeaderCheck oldHeader k) ∧
    (¬ HeaderCheck oddHeader 8 ∧ ∀ k, k < 8 → HeaderCheck oddHeader k) := by
  refine ⟨⟨(by decide : ¬ u32 oldHeader 0x00 = 1), ?_⟩, ?_, ?_⟩
  · intro k h
    match k with
    | 0 => trivial
    | 1 => trivial
    | 2 => trivial
    | _ + 3 => omega
  · exact fun h => absurd h.1 (by decide)
  · intro k h
    match k with
    | 0 => trivial
    | 1 => trivial
    | 2 => trivial
    | 3 => exact (by decide : u32 oddHeader 0x00 = 1)
    | 4 => exact (by decide : u32 oddHeader 0x04 % 4096 = 0 ∧ u32 oddHeader 0x04 ≠ 0 ∧ u32 oddHeader 0x04 ≤ 64 * 1048576)
    | 5 => exact ⟨12, by decide⟩
    | 6 => exact ⟨12, by decide⟩
    | 7 => exact areas_ok oddHeader (by decide) (by decide) (by decide) (by decide) (by decide) (by decide)
    | _ + 8 => omega

theorem witness_start : State.reset.region.engine = .stopped ∧ State.reset.region.writersBusy = false ∧
    State.reset.region.scan = none ∧
    (State.reset.region.regionHi ++ State.reset.region.regionLo : BitVec 64).toNat % 4096 = 0 ∧
    ((0 : BitVec 32) ++ (4 : BitVec 32) : BitVec 64).toNat % 4096 ≠ 0 ∧
    ({ Region.reset with startWaiting := some 5, regionLo := 4 } : Region).startWaiting ≠ none ∧
    ({ Region.reset with stopNotices := 1 } : Region).writersBusy = true ∧
    ({ Region.reset with stopNotices := 1 } : Region).engine = .stopped ∧
    (State.reset.region.faultLatch = false ∧ ({ Region.reset with faultLatch := true } : Region).faultLatch = true) ∧
    (let r : Region := { Region.reset with startWaiting := some 5, engine := .running }
     r.startWaiting ≠ none ∧ r.writersBusy = false ∧ r.engine ≠ .stopped) := by decide

/-- R4: a START that takes effect ends the wait of an older one. -/
theorem test_start_ends_wait :
    ((withRegion State.reset fun r => { r with startWaiting := some 5 }).enterRunning header 0 .failed .failed).region.startWaiting =
      none := by decide

theorem witness_start_counts :
    let r : Region := { Region.reset with work := workingOf header, orderTaken := w32 header 0x44, noticeFill := w32 header 0x48 }
    r.Usable 16 ∧ r.CountOk 4104 := by
  unfold Region.Usable Region.CountOk
  decide

theorem witness_stop : run.region.engine = .running ∧ stopping.region.engine = .stopping ∧
    stopping.region.notices.length < Config.heldNotices ∧
    (∀ (m : MemberId) (g : Fin 32), (stopping.member m).tags[g] = .free ∨ (stopping.member m).tags[g] = .abandoned) ∧
    (((stopping.setMember 0 { Member.reset with tags := Member.reset.tags.set 31 (.issued 3 4096 none []) }).member 0).tags[(31 : Fin 32)]
      = .issued 3 4096 none []) := by decide

/-- RUNNING with no scan in progress. -/
def idle : Region := { run.region with scan := none, timer := some 1000 }

theorem witness_scan : idle.engine = .running ∧ idle.scan = none ∧ idle.Usable 0 ∧ idle.CountOk 4096 ∧
    idle.timer = some 1000 ∧ (1000 : Time).toNat ≤ run.et.toNat ∧ ({ idle with scanWanted := true } : Region).scanWanted = true ∧
    run.region.scan = some 2048 ∧ (stopping.region.engine = .stopping ∧ stopping.region.scan = none) ∧
    (let r : Region := { idle with intake := .blocked }
     r.engine = .running ∧ r.intake = .blocked ∧ r.scan = none ∧ r.Usable 0 ∧ r.CountOk 0) := by
  unfold Region.Usable Region.CountOk
  decide

theorem witness_structural : (idle.engine = .running ∧ idle.intake = .taking ∧ idle.scan = none) ∧ ¬ idle.CountOk 4100 ∧
    ¬ idle.CountOk 4104 ∧
    (let len (r : Record) := r.len.toNat
     len (rec (res 4)) % 8 ≠ 0 ∧ ¬ (4088 + 8 + len (rec (res 8)) ≤ 4096) ∧ ¬ (8 + len (rec (res 8)) ≤ 8)) ∧
    Machine.orderOf (.shut (rec (res 8))) = some (tagSHUT, rec (res 8)) ∧ run.region.scan = some 2048 := by
  unfold Region.CountOk
  decide

theorem witness_access : run.region.accesses = true ∧ run.region.faultLatch = false ∧
    run.region.notices.length < Config.heldNotices ∧
    ({ run.region with faultLatch := true } : Region).accesses = true ∧
    ({ Region.reset with stopNotices := 1 } : Region).accesses = true ∧
    (run.region.batch = none ∧ wrapRegion.notices ≠ []) ∧
    (∀ k : StreamId, run.region.marks[k] = false) ∧
    (let marks := run.region.marks.set 3 true
     marks[(3 : StreamId)] = true ∧ ∀ k : StreamId, k < 3 → marks[k] = false) := by decide

/-- 1.2, R19: a record is read at the order log offset plus the position of order taken. -/
theorem test_record_read_offset :
    let s := (withRegion run fun r =>
      { r with work := { r.work with orderOffset := 0x1000, orderSize := 4096 }, orderTaken := 8128 }).accessFails
        .orderRecordRead 5
    s.region.notices = [⟨.hacc .orderRecordRead 0x1FC0, 1000⟩] ∧ s.region.intake = .blocked ∧ s.region.scan = none ∧
      s.region.orderTaken = 8128 := by decide

/-- R18, R19: a failed write of a status record loses the update: the mark is cleared, and c + 2 is the change count. -/
theorem test_status_fault :
    let s := (withRegion run fun r => { r with marks := r.marks.set 3 true }).accessFails .statusWrite 0
    s.region.marks[3] = false ∧ s.region.changeCounts[3] = 2 ∧ s.sent = [] ∧ s.region.faultLatch = true := by decide

theorem witness_batch : wrapRegion.engine = .running ∧ wrapRegion.batch = none ∧ wrapRegion.notices ≠ [] ∧
    wrapRegion.work.noticeSize < 4294967296 ∧
    (wrapRegion.noticeFill - wrapRegion.noticeTaken).toNat + wrapRegion.spans wrapRegion.noticeFill wrapRegion.notices
      ≤ wrapRegion.work.noticeSize ∧
    ({ wrapRegion with batch := some ⟨[4], 80⟩ } : Region).batch = some ⟨[4], 80⟩ := by decide

/-- 1.7, second notice: an ANSW of 48 bytes with 16 bytes of room. -/
def fullRegion : Region :=
  { run.region with noticeFill := 20528, noticeTaken := 16448, notices := [⟨.answ 1 2 3 .ok 0, 9⟩] }

theorem witness_short_room : fullRegion.batch = none ∧ fullRegion.notices = [⟨.answ 1 2 3 .ok 0, 9⟩] ∧
    fullRegion.work.noticeSize <
      (fullRegion.noticeFill - fullRegion.noticeTaken).toNat + fullRegion.span fullRegion.noticeFill 48 ∧
    (fullRegion.Usable 20448 ∧
      (fullRegion.noticeFill - 20448).toNat + fullRegion.span fullRegion.noticeFill 48 ≤ fullRegion.work.noticeSize) ∧
    ¬ fullRegion.Usable 20449 ∧
    (fullRegion.Usable 16448 ∧ fullRegion.work.noticeSize <
      (fullRegion.noticeFill - 16448).toNat + fullRegion.span fullRegion.noticeFill 48) := by
  unfold Region.Usable
  decide

theorem witness_fill : (∃ l ∈ [4, 1], (3 : BitVec 3).toNat < l ∨ l = 7) ∧ (∀ l ∈ [3, 1], l ≤ (3 : BitVec 3).toNat ∧ l ≠ 7) ∧
    run.region.engine ≠ .halted := by decide

theorem witness_mirror : let marks : Vector Bool 64 := (Vector.replicate 64 false).set 63 true
    marks[(63 : StreamId)] = true ∧ ∀ k : StreamId, k < 63 → marks[k] = false := by decide

/-! ### Witnesses: orders -/

/-- Order bodies by 10.4, with reference 1. -/
def layd (e w i a c first last base : Nat) (list alternates : List Byte) : List Byte :=
  le 4 1 ++ le 1 e ++ le 1 w ++ le 1 i ++ le 1 a ++ le 2 c ++ res 6 ++ le 8 first ++ le 8 last ++ le 8 base ++ list ++ alternates
def clip (k first head blocks bytes frames n d : Nat) : List Byte :=
  le 4 1 ++ le 2 k ++ res 2 ++ le 8 first ++ le 8 head ++ le 4 blocks ++ le 4 bytes ++ le 4 frames ++ le 4 n ++ le 4 d ++ res 4
def memb (m limit reserve timeout window : Nat) : List Byte :=
  le 4 1 ++ le 1 m ++ le 1 limit ++ le 1 reserve ++ le 1 timeout ++ le 1 window ++ res 7
def shut (n : Nat) : List Byte := le 4 1 ++ le 1 n ++ res 3
def cue (kind direction c first length flag back count : Nat) : List Byte :=
  le 1 kind ++ le 1 direction ++ le 2 c ++ le 4 first ++ le 4 length ++ le 1 flag ++ le 1 back ++ le 2 count
def opening (n port depth policy rateN rateD e : Nat) (count : Nat) (cues : List Byte) : List Byte :=
  le 4 1 ++ le 1 n ++ le 1 port ++ le 1 depth ++ le 1 policy ++ le 4 rateN ++ le 4 rateD ++ le 4 e ++ le 4 100 ++ le 4 100
    ++ le 4 5 ++ res 6 ++ le 2 9 ++ res 4 ++ le 1 0 ++ le 1 count ++ res 2 ++ le 4 0 ++ res 4 ++ cues
def cuesOrder (n mode count : Nat) (cues : List Byte) : List Byte :=
  le 4 1 ++ le 1 n ++ le 1 mode ++ le 1 0 ++ le 1 count ++ le 4 0 ++ res 4 ++ cues
def xprt (n action thenPlay flags speed thenSpeed step start release : Nat) : List Byte :=
  le 4 1 ++ le 1 n ++ le 1 action ++ le 1 thenPlay ++ le 1 flags ++ le 2 speed ++ le 2 thenSpeed ++ le 1 step ++ le 1 0 ++ res 2
    ++ le 4 0 ++ res 4 ++ le 8 start ++ le 8 release
def mark (n slot op kind action cond flag c limit frame : Nat) : List Byte :=
  le 4 1 ++ le 1 n ++ le 1 slot ++ le 1 op ++ le 1 kind ++ le 1 action ++ le 1 cond ++ le 1 flag ++ res 1 ++ le 2 c ++ le 2 limit
    ++ le 4 frame ++ res 4
def shar (n op v udp : Nat) : List Byte :=
  le 4 1 ++ le 1 n ++ le 1 op ++ le 1 v ++ res 1 ++ res 6 ++ le 2 udp ++ res 4 ++ res 4

/-- A body of the state `run` is taken. -/
theorem takes_run (c : Instr) (tag : Word) (b : List Byte) (ho : Machine.orderOf c = some (tag, rec b))
    (hl : (rec b).len.toNat % 8 = 0 ∧ (rec b).len.toNat ≤ 2000) : run.Takes c tag (rec b) :=
  takes run c tag b ho rfl hl run_settled

theorem witness_pad : run.Readable (rec []) ∧ run.Takes (.unknownTag 0 (rec [])) 0 (rec []) ∧
    run.Takes (.openStream (rec (opening 1 0 1 0 0 0 1 2 []))) tagOPEN (rec (opening 1 0 1 0 0 0 1 2 [])) ∧
    (opening 1 0 1 0 0 0 1 2 []).length < 56 + 16 * u8 (opening 1 0 1 0 0 0 1 2 []) 45 :=
  ⟨(takes_run (.unknownTag 0 (rec [])) 0 [] rfl (by decide)).readable, takes_run _ _ _ rfl (by decide),
    takes_run _ _ _ rfl (by decide), by decide⟩

/-- A definition of entry 15 with the highest member block 2^48 − 1, and one that passes it. -/
def list8 : List Byte := le 1 0 ++ le 1 7 ++ res 6
def defined : List Byte := layd 15 2 1 1 16 0 31 (2 ^ 48 - 16) list8 (le 1 7 ++ le 1 0 ++ res 6)
def passing : List Byte := layd 15 2 1 1 16 0 32 (2 ^ 48 - 16) list8 (le 1 7 ++ le 1 0 ++ res 6)

theorem witness_layd_body : 56 ≤ defined.length ∧
    layoutDef defined = some ⟨0, 31, 16, [0, 7], some [7, 0], 2 ^ 48 - 16, .skew⟩ ∧ layoutDef passing = none ∧
    48 ≤ (clip 255 0 0 1 1 1 1 1).length ∧ clipDef (clip 255 0 0 1 1 1 1 1) 4 = some ⟨true, 4, 0, 0, 1, 1, 1, 1, 1⟩ ∧
    clipDef (clip 255 (2 ^ 48 - 1) 0 1 4096 1 240 1) 4 ≠ none ∧ clipDef (clip 255 (2 ^ 48 - 1) 0 1 4096 2 240 1) 4 = none := by
  decide

/-- `run` with entry 15 in a state. -/
def withEntry (x : LayoutEntry) : State := run.setLayout 15 x
theorem witness_layd : run.Takes (.laydDefine (rec defined)) tagLAYD (rec defined) ∧
    (u8 defined 4 = 15 ∧ u8 defined 5 ≠ 0) ∧ run.decoder.layout[(15 : Fin 16)].state = .empty ∧
    (∀ i : Fin 16, i ≠ 15 → run.decoder.layout[i].takenRanges = []) ∧
    (withEntry ⟨.active entry0, 0⟩).Takes (.laydDelete (rec (layd 15 0 0 0 0 0 0 0 (res 8) (res 8)))) tagLAYD
      (rec (layd 15 0 0 0 0 0 0 0 (res 8) (res 8))) ∧
    (withEntry ⟨.active entry0, 3⟩).decoder.layout[(15 : Fin 16)].inFlight ≠ 0 ∧
    (withEntry ⟨.retiring entry0 ⟨5, .delete⟩, 3⟩).decoder.layout[(15 : Fin 16)].state = .retiring entry0 ⟨5, .delete⟩ :=
  ⟨takes_run _ _ _ rfl (by decide), by decide, by decide, by decide,
    takes _ _ _ _ rfl rfl (by decide) (by unfold State.Settled; decide), by decide, by decide⟩

theorem witness_layd_refused : 16 ≤ u8 (layd 16 0 0 0 0 0 0 0 (res 8) (res 8)) 4 ∧
    (∃ x ∈ (withEntry ⟨.active entry0, 0⟩).decoder.layout[(15 : Fin 16)].takenRanges,
      (⟨2000000, 2000001, 16, [0], none, 0, .rotate⟩ : LayoutDef).first ≤ x.last ∧ x.first ≤ 2000001) ∧
    layoutDef (layd 0 1 0 0 16 2000000 2000001 0 (res 8) (res 8)) = some ⟨2000000, 2000001, 16, [0], none, 0, .rotate⟩ ∧
    run.decoder.layout[(15 : Fin 16)].state = .empty := by decide

theorem witness_layc : (withEntry ⟨.retiring entry0 ⟨5, .delete⟩, 0⟩).decoder.layout[(15 : Fin 16)].inFlight = 0 ∧
    (withEntry ⟨.retiring entry0 ⟨5, .delete⟩, 1⟩).decoder.layout[(15 : Fin 16)].inFlight ≠ 0 ∧
    run.region.engine ≠ .halted := by decide

/-- `run` with clip 3 defined: 1,000 frames of one block at 24 frames per second. -/
def clip3 : Clip := ⟨true, 1, 0, 0, 1, 4096, 1030, 24, 1⟩
def media : State := run.setClip 3 clip3

/-- An open stream with one CLIP cue, at its start, and with its viewer 0. -/
def parked : Stream :=
  { Stream.reset with
    state := .parked, rateN := 24, rateD := 1, q := 41666666, r := 16, egress := 6000, margin := 100, latency := 100, depth := 2
    cues := [⟨false, false, 3, 0, 20, none, 0⟩], viewers := Stream.reset.viewers.set 0 (some ⟨res 6, res 4, 9, false⟩) }

/-- `media` with stream 63 in a state. -/
def withStream (x : Stream) : State := media.setStream 63 x

theorem media_settled : media.Settled := by unfold State.Settled; decide

theorem witness_clip : media.Takes (.clipDelete (rec (clip 3 0 0 0 0 0 0 0))) tagCLIP (rec (clip 3 0 0 0 0 0 0 0)) ∧
    (media.clip 3).defined = true ∧ (∀ n : StreamId, (media.stream n).state = .closed) ∧
    media.Takes (.clipDefine (rec (clip 255 0 0 1 1 1 1 1))) tagCLIP (rec (clip 255 0 0 1 1 1 1 1)) ∧
    256 ≤ u16 (clip 256 0 0 1 1 1 1 1) 4 ∧ (∀ g, clipDef (clip 255 0 0 16385 1 1 1 1) g = none) ∧
    (media.clip 4).defined = false ∧
    ((withStream parked).stream 63).state ≠ .closed ∧ (∃ q ∈ ((withStream parked).stream 63).cues, q.gap = false ∧ q.clip = 3) :=
  ⟨takes _ _ _ _ rfl rfl (by decide) media_settled, by decide, by decide, takes _ _ _ _ rfl rfl (by decide) media_settled,
    by decide, fun _ => by unfold clipDef; rw [if_pos (by decide)], by decide, by decide, by decide⟩

theorem witness_memb : run.Takes (.memb (rec (memb 7 32 31 10 7))) tagMEMB (rec (memb 7 32 31 10 7)) ∧
    16 ≤ (memb 7 32 31 10 7).length ∧
    (u8 (memb 7 32 31 10 7) 4 = 7 ∧ u8 (memb 7 32 31 10 7) 5 ≤ 32 ∧ u8 (memb 7 32 31 10 7) 6 < u8 (memb 7 32 31 10 7) 5 ∧
      u8 (memb 7 32 31 10 7) 7 ≤ 10 ∧ u8 (memb 7 32 31 10 7) 8 ≤ 7) ∧
    ¬ (u8 (memb 7 32 32 10 7) 6 < u8 (memb 7 32 32 10 7) 5) ∧
    run.Takes (.mrst (rec (shut 7))) tagMRST (rec (shut 7)) ∧ 8 ≤ u8 (shut 8) 4 ∧ (run.member 7).link = .down ∧
    ((run.setMember 7 { Member.reset with link := .stalled }).member 7).link = .stalled ∧
    ((run.setMember 7 { Member.reset with link := .training }).member 7).link = .training :=
  ⟨takes_run _ _ _ rfl (by decide), by decide, by decide, by decide, takes_run _ _ _ rfl (by decide), by decide, by decide,
    by decide, by decide⟩

/-- Cues after `loopCues`: a good loop, one that is refused for each check. -/
theorem witness_cues : cueRefusal media.decoder [] (rawCue (cue 0 0 3 1029 1 1 0 1) 0) = none ∧
    cueRefusal media.decoder [] (rawCue (cue 2 0 3 1029 1 1 0 1) 0) = some .badField ∧
    cueRefusal media.decoder [] (rawCue (cue 0 0 3 1029 2 0 0 0) 0) = some .noSuch ∧
    cueRefusal media.decoder (loopCues.take 2 ++ [⟨true, false, 0, 0, 2, none, 0⟩, ⟨true, false, 0, 0, 2, some ⟨2, 1⟩, 1⟩])
      (rawCue (cue 1 0 0 0 1 1 3 1) 0) = some .loopCross ∧
    checkCues media.decoder [] 0 [rawCue (cue 1 0 0 0 1 0 0 0) 0, rawCue (cue 1 0 0 0 0 0 0 0) 0] = .refused .badField 1 := by
  decide

/-- OPEN of stream 63 at the rate of its first clip, with E at the limit. -/
def openBody : List Byte := opening 63 1 16 2 0 0 12000 2 (cue 1 0 0 0 1 0 0 0 ++ cue 0 0 3 1010 20 1 0 1)
def openCues : List Cue := [⟨true, false, 0, 0, 1, none, 0⟩, ⟨false, false, 3, 1010, 20, some ⟨0, 1⟩, 1⟩]

theorem witness_open : media.Takes (.openStream (rec openBody)) tagOPEN (rec openBody) ∧
    56 + 16 * u8 openBody 45 ≤ openBody.length ∧ u8 openBody 4 = 63 ∧ (media.stream 63).state = .closed ∧
    (u32 openBody 8 = 0 ∧ u32 openBody 12 = 0) ∧
    (u8 openBody 5 ≤ 1 ∧ u32 openBody 16 ≤ 12000 ∧ u32 openBody 20 ≤ 20000000 ∧ u32 openBody 24 ≤ 1000000000 ∧
      u8 openBody 6 ≤ 16 ∧ u8 openBody 7 ≤ 2 ∧ u32 openBody 28 ≤ 1000000000 ∧ 1 ≤ u16 openBody 38) ∧
    checkCues media.decoder [] 0 (rawCues openBody 56 2) = .accepted openCues ∧
    ((media.clipAt 3).rateN, (media.clipAt 3).rateD) = (24, 1) ∧
    (∀ y ∈ openCues, y.gap = true ∨ ((media.clipAt y.clip).bytes * 1000 + 12000 - 1) / 12000 ≤ 1000000000 * 1 / 24) ∧
    (media.port .e1).allocated + 12000 ≤ 12000 :=
  ⟨takes _ _ _ _ rfl rfl (by decide) media_settled, by decide, by decide, by decide, by decide, by decide, by decide, by decide,
    by decide, by decide⟩

/-- OPENs and CUES that are refused, each for another reason. -/
theorem witness_open_refused : 64 ≤ u8 (opening 64 0 1 0 0 0 1 0 []) 4 ∧ openFieldsOk (opening 63 0 1 0 0 0 1 0 []) = true ∧
    u8 (opening 63 0 1 0 0 0 1 0 []) 45 = 0 ∧ 16 < u8 (opening 63 0 17 0 0 0 1 0 []) 6 ∧
    checkCues media.decoder [] 0 (rawCues (opening 63 0 1 0 0 0 1 1 (cue 1 0 0 0 1 0 0 0)) 56 1) =
      .accepted [⟨true, false, 0, 0, 1, none, 0⟩] ∧
    1000000000 * 1 / 240 < (({ clip3 with blocks := 2, bytes := 4167 } : Clip).bytes * 1000 + 1 - 1) / 1 ∧
    12000 < ((media.setPort .e0 { PortState.reset with allocated := 1 }).port .e0).allocated + 12000 ∧
    ((withStream parked).stream 63).state ≠ .closed := by decide

theorem withStream_settled : (withStream parked).Settled := by unfold State.Settled; decide

theorem witness_cues_refused : (withStream parked).Takes (.cuesAppend (rec (cuesOrder 63 1 0 []))) tagCUES (rec (cuesOrder 63 1 0 [])) ∧
    16 + 16 * u8 (cuesOrder 63 1 0 []) 7 ≤ (cuesOrder 63 1 0 []).length ∧ 2 ≤ u8 (cuesOrder 63 2 0 []) 5 ∧
    64 < u8 (cuesOrder 63 1 65 []) 7 ∧ 64 < (List.replicate 64 (⟨true, false, 0, 0, 1, none, 0⟩ : Cue)).length + 1 ∧
    ({ parked with state := .seeking } : Stream).state = .seeking :=
  ⟨takes _ _ _ _ rfl rfl (by decide) withStream_settled, by decide, by decide, by decide, by decide, rfl⟩

theorem witness_shut : (withStream parked).Takes (.shut (rec (shut 63))) tagSHUT (rec (shut 63)) ∧ 8 ≤ (shut 63).length ∧
    u8 (shut 63) 4 = 63 ∧ ((withStream parked).stream 63).state ≠ .closed ∧ 64 ≤ u8 (shut 64) 4 ∧
    (media.stream 63).state = .closed :=
  ⟨takes _ _ _ _ rfl rfl (by decide) withStream_settled, by decide, by decide, by decide, by decide, by decide⟩

/-- A RUNNING stream at normal speed, whose window is full of entries that are PROJECTED, the first of tick 5. -/
def entry5 : Entry :=
  { tick := 5, index := 3, deliver := 900, deadline := some 0, allowance := 683, kind := .frame, cue := 0, offset := 8,
    frame := some ⟨3, 1, 1⟩, cls := .play, direction := .forward, stage := .projected, ref := none, tags := [], changes := [],
    listEnd := none, locate := false, sentAs := none }
def running : Stream :=
  { parked with
    state := .running, speed := 8, nextTick := 7, proj := { Projection.reset with index := 5, offset := 16 }
    window := [entry5, { entry5 with tick := 6, index := 4, deliver := 2000000, offset := 16, frame := some ⟨3, 1, 2⟩ }] }
def held : Stream := { running with state := .held, releaseTime := some 1000, releaseResume := true }

theorem running_settled : (withStream running).Settled := by unfold State.Settled; decide
theorem held_settled : (withStream held).Settled := by unfold State.Settled; decide

def oneCue : List Byte := cuesOrder 63 0 1 (cue 0 0 3 5 6 0 0 0)
theorem witness_cues_replace : (withStream running).Takes (.cuesReplace (rec oneCue)) tagCUES (rec oneCue) ∧
    16 + 16 * u8 oneCue 7 ≤ oneCue.length ∧ u8 oneCue 4 = 63 ∧ u8 oneCue 5 = 0 ∧ 1 ≤ u8 oneCue 7 ∧
    ((withStream running).stream 63).state = .running ∧
    checkCues media.decoder [] 0 (rawCues oneCue 16 1) = .accepted [⟨false, false, 3, 5, 6, none, 0⟩] ∧
    ((media.clipAt 3).bytes * 1000 + 6000 - 1) / 6000 ≤ 41666666 ∧ ((withStream running).stream 63).depth ≤ 16 ∧
    ((withStream running).stream 63).Paced ∧ ((withStream running).stream 63).unsent[0]? = some entry5 :=
  ⟨takes _ _ _ _ rfl rfl (by decide) running_settled, by decide, by decide, by decide, by decide, by decide, by decide,
    by decide, by decide, ⟨by decide, by decide, by decide⟩, by decide⟩

def moreCues : List Byte := cuesOrder 63 1 1 (cue 1 0 0 0 6 0 0 0)
theorem witness_cues_append : (withStream running).Takes (.cuesAppend (rec moreCues)) tagCUES (rec moreCues) ∧
    u8 moreCues 5 = 1 ∧ ((withStream running).stream 63).cues.length + u8 moreCues 7 ≤ 64 ∧
    checkCues media.decoder running.cues 0 (rawCues moreCues 16 1) =
      .accepted (running.cues ++ [⟨true, false, 0, 0, 6, none, 0⟩]) :=
  ⟨takes _ _ _ _ rfl rfl (by decide) running_settled, by decide, by decide, by decide⟩

/-- PLAY at −257 eighths with a start time at its limit. -/
def play : List Byte := xprt 63 1 0 1 65279 0 0 (2 ^ 63 - 1) 0
theorem witness_play : (withStream parked).Takes (.xprtPlay (rec play)) tagXPRT (rec play) ∧ 40 ≤ play.length ∧
    u8 play 4 = 63 ∧ u8 play 5 = 1 ∧ ((withStream parked).stream 63).state = .parked ∧ s16 play 8 = -257 ∧
    u8 play 7 % 2 = 1 ∧ u64 play 24 < 2 ^ 63 :=
  ⟨takes _ _ _ _ rfl rfl (by decide) withStream_settled, by decide, by decide, by decide, by decide, by decide, by decide,
    by decide⟩

theorem witness_hold : (withStream running).Takes (.xprtHold (rec (xprt 63 2 0 6 0 0 0 0 1001))) tagXPRT
      (rec (xprt 63 2 0 6 0 0 0 0 1001)) ∧ 40 ≤ (xprt 63 2 0 6 0 0 0 0 1001).length ∧
    ((withStream running).stream 63).state = .running ∧ u8 (xprt 63 2 0 6 0 0 0 0 1001) 7 / 2 % 2 = 1 ∧
    (withStream running).et.toNat < u64 (xprt 63 2 0 6 0 0 0 0 1001) 32 ∧
    u64 (xprt 63 2 0 6 0 0 0 0 1000) 32 ≤ (withStream running).et.toNat ∧
    2 ^ 63 ≤ u64 (xprt 63 2 0 6 0 0 0 0 (2 ^ 63)) 32 ∧
    (withStream held).Takes (.xprtResume (rec (xprt 63 3 0 0 0 0 0 0 0))) tagXPRT (rec (xprt 63 3 0 0 0 0 0 0 0)) ∧
    (((withStream held).stream 63).state = .held ∧ ((withStream held).stream 63).releaseResume = true) ∧
    ({ held with releaseResume := false } : Stream).releaseResume = false :=
  ⟨takes _ _ _ _ rfl rfl (by decide) running_settled, by decide, by decide, by decide, by decide, by decide, by decide,
    takes _ _ _ _ rfl rfl (by decide) held_settled, by decide, rfl⟩

theorem witness_park : (withStream running).Takes (.xprtPark (rec (xprt 63 4 0 0 0 0 0 0 0))) tagXPRT
      (rec (xprt 63 4 0 0 0 0 0 0 0)) ∧ ((withStream running).stream 63).state = .running ∧
    ((withStream parked).stream 63).state = .parked ∧ u8 (xprt 63 4 0 0 0 0 0 0 0) 5 = 4 :=
  ⟨takes _ _ _ _ rfl rfl (by decide) running_settled, by decide, by decide, by decide⟩

/-- LOCATE with a then-action PLAY, and STEP by −32. -/
theorem witness_locate : (withStream running).Takes (.xprtLocate (rec (xprt 63 5 1 0 0 8 0 0 0))) tagXPRT
      (rec (xprt 63 5 1 0 0 8 0 0 0)) ∧
    (u8 (xprt 63 5 1 0 0 8 0 0 0) 5 = 5 ∧ u8 (xprt 63 5 1 0 0 8 0 0 0) 6 = 1 ∧ s16 (xprt 63 5 1 0 0 8 0 0 0) 10 = 8) ∧
    (withStream parked).Takes (.xprtStep (rec (xprt 63 6 0 0 0 0 224 0 0))) tagXPRT (rec (xprt 63 6 0 0 0 0 224 0 0)) ∧
    s8 (xprt 63 6 0 0 0 0 224 0 0) 12 = -32 ∧ stepTarget parked.cues 0 0 (-32) = (0, 0, true) ∧
    ((withStream running).stream 63).sendingEntry = none :=
  ⟨takes _ _ _ _ rfl rfl (by decide) running_settled, by decide, takes _ _ _ _ rfl rfl (by decide) withStream_settled, by decide,
    by decide, by decide⟩

theorem witness_xprt_refused : 64 ≤ u8 (xprt 64 1 0 0 0 0 0 0 0) 4 ∧ 6 < u8 (xprt 63 7 0 0 0 0 0 0 0) 5 ∧
    (media.stream 63).state = .closed ∧ s16 (xprt 63 1 0 0 0 0 0 0 0) 8 = 0 ∧
    2 ^ 63 ≤ u64 (xprt 63 1 0 1 8 0 0 (2 ^ 63) 0) 24 ∧ 1 < u8 (xprt 63 5 2 0 0 0 0 0 0) 6 ∧
    s8 (xprt 63 6 0 0 0 0 33 0 0) 12 = 33 ∧ s8 (xprt 63 6 0 0 0 0 223 0 0) 12 = -33 := by decide

theorem witness_mark : (withStream parked).Takes (.markSet (rec (mark 63 7 0 1 0 2 1 255 1 16777215))) tagMARK
      (rec (mark 63 7 0 1 0 2 1 255 1 16777215)) ∧
    (let b := mark 63 7 0 1 0 2 1 255 1 16777215
     u8 b 5 = 7 ∧ u8 b 6 = 0 ∧ u16 b 12 = 255 ∧ u32 b 16 ≤ 16777215 ∧ u8 b 9 ≤ 2 ∧ u8 b 8 = 0 ∧ u8 b 10 = 1 ∧ 1 ≤ u16 b 14) ∧
    (withStream parked).Takes (.markClear (rec (mark 63 7 1 0 0 0 0 0 0 0))) tagMARK (rec (mark 63 7 1 0 0 0 0 0 0 0)) ∧
    parked.marks[(7 : Fin 8)] = none ∧
    (parked.marks.set 7 (some ⟨1, 3, 0, .shown, .notify, .any, none, 0⟩))[(7 : Fin 8)] ≠ none ∧
    8 ≤ u8 (mark 63 8 0 0 0 0 0 0 0 0) 5 ∧ (u8 (mark 63 7 0 1 1 0 0 0 0 0) 7 = 1 ∧ u8 (mark 63 7 0 1 1 0 0 0 0 0) 8 = 1) :=
  ⟨takes _ _ _ _ rfl rfl (by decide) withStream_settled, by decide, takes _ _ _ _ rfl rfl (by decide) withStream_settled,
    by decide, by decide, by decide, by decide⟩

/-- Viewer 1 added and viewer 0 muted. -/
theorem witness_shar : (withStream parked).Takes (.sharAdd (rec (shar 63 0 7 9))) tagSHAR (rec (shar 63 0 7 9)) ∧
    (u8 (shar 63 0 7 9) 6 = 7 ∧ u16 (shar 63 0 7 9) 14 ≠ 0 ∧ parked.viewers[(7 : Fin 8)] = none ∧
      ((withStream parked).port parked.port).allocated + parked.egress ≤ 12000) ∧
    u16 (shar 63 0 7 0) 14 = 0 ∧ parked.viewers[(0 : Fin 8)] = some ⟨res 6, res 4, 9, false⟩ ∧
    12000 < (((withStream parked).setPort .e0 { PortState.reset with allocated := 6001 }).port .e0).allocated + parked.egress ∧
    (withStream parked).Takes (.sharMute (rec (shar 63 2 0 0))) tagSHAR (rec (shar 63 2 0 0)) ∧
    (withStream parked).Takes (.sharUnmute (rec (shar 63 3 0 0))) tagSHAR (rec (shar 63 3 0 0)) ∧
    (withStream parked).Takes (.sharRemove (rec (shar 63 1 0 0))) tagSHAR (rec (shar 63 1 0 0)) ∧
    (withStream parked).presentation 63 = none ∧ 8 ≤ u8 (shar 63 0 8 9) 6 ∧ 4 ≤ u8 (shar 63 4 7 9) 5 :=
  ⟨takes _ _ _ _ rfl rfl (by decide) withStream_settled, by decide, by decide, by decide, by decide,
    takes _ _ _ _ rfl rfl (by decide) withStream_settled, takes _ _ _ _ rfl rfl (by decide) withStream_settled,
    takes _ _ _ _ rfl rfl (by decide) withStream_settled, by decide, by decide, by decide⟩

/-! ### Witnesses: turns, frames, members and ports -/

/-- The running stream with its first entry in a stage, on a port that is UP. -/
def turned (g : Stage) (x : Stream) : State :=
  ((withStream { x with window := [{ entry5 with stage := g, ref := some 9 }] }).setPort .e0 { PortState.reset with up := true }).setBuffer
    { FrameBuffer.reset with dir := [⟨9, .filling, ⟨3, 1, 1⟩, false, 4096, [2], .produced, 1, 1, 1, some 0, .play, none⟩], passWanted := true }

theorem due_turned (g : Stage) (x : Stream) (hx : x.state = .running) (hw : x.slipEnd = none) (hg : g ≠ .sending) :
    (turned g x).Due 63 { entry5 with stage := g, ref := some 9 } := by
  have h : (turned g x).stream 63 = { x with window := [{ entry5 with stage := g, ref := some 9 }] } := by
    cases g <;> simp [turned, withStream, media, run, State.setPort, State.stream, State.setStream, State.setBuffer, State.setEgress]
  have k : (g != .sending) = true := by simpa using hg
  refine ⟨by rw [h]; exact hx, ?_, by rw [h]; exact hw, ⟨[], ?_⟩,
    (by decide : entry5.deliver.toNat ≤ run.et.toNat), (by decide : run.region.engine ≠ .halted)⟩
  · rw [h]
    show List.find? _ [_] = none
    simp [hg]
  · rw [h]
    show List.filter _ [_] = _
    simp [hg]

theorem witness_turn : (turned .ready running).Settled ∧
    (turned .ready running).Due 63 { entry5 with stage := .ready, ref := some 9 } ∧
    ((turned .ready running).port ((turned .ready running).stream 63).port).up = true ∧
    (turned .ready running).TurnSends 63 { entry5 with stage := .ready, ref := some 9 } (.frame ⟨3, 1, 1⟩ 4096 9) none ∧
    (turned .failed running).TurnSends 63 { entry5 with stage := .failed, ref := some 9 } (.fill .failed) none :=
  ⟨by unfold State.Settled; decide, due_turned _ _ rfl rfl (by decide), by decide,
    .inr ⟨rfl, .inl ⟨_, 9, _, rfl, rfl, rfl, rfl, rfl⟩⟩, .inl ⟨rfl, rfl⟩⟩

/-- A late entry under REPEAT, SKIP and SLIP. -/
def late (p : Policy) (limit : Nat) : Stream := { running with policy := p, lastPresented := some ⟨3, 1, 0⟩, slipLimit := limit }
theorem witness_late : (turned .fetching (late .repeatLast 0)).Settled ∧
    (turned .fetching (late .repeatLast 0)).Due 63 { entry5 with stage := .fetching, ref := some 9 } ∧
    (turned .fetching (late .repeatLast 0)).TurnSends 63 { entry5 with stage := .fetching, ref := some 9 } (.repeated ⟨3, 1, 0⟩)
      (some .repeated) ∧
    (turned .fetching (late .skip 0)).TurnSends 63 { entry5 with stage := .fetching, ref := some 9 } (.fill .missing)
      (some .fillMissing) ∧
    (turned .fetching (late .slip 100)).TurnSends 63 { entry5 with stage := .fetching, ref := some 9 } (.fill .missing)
      (some .fillMissing) :=
  ⟨by unfold State.Settled; decide, due_turned _ _ rfl rfl (by decide),
    ⟨by decide, by decide, .inl ⟨_, by decide, by decide, rfl, rfl⟩⟩,
    ⟨by decide, by decide, .inr ⟨.inl (by decide), rfl, rfl⟩⟩,
    ⟨by decide, by decide, .inr ⟨.inr (.inr ⟨by decide, by decide⟩), rfl, rfl⟩⟩⟩

theorem witness_turn_nothing : (withStream running).Settled ∧
    (∀ e, ¬ (withStream parked).Due 63 e) ∧ ((withStream running).port ((withStream running).stream 63).port).up = false ∧
    (withStream running).Due 63 entry5 :=
  ⟨running_settled, fun _ h => absurd h.running (by decide), by decide,
    ⟨by decide, by decide, by decide, ⟨_, rfl⟩, by decide, by decide⟩⟩

/-- A SLIP wait that ends at 1,000, and one whose limit of 1,001 is not reached. -/
theorem witness_slip : (turned .fetching (late .slip 101)).Settled ∧
    (turned .fetching (late .slip 101)).Due 63 { entry5 with stage := .fetching, ref := some 9 } ∧
    (turned .fetching (late .slip 101)).et.toNat < (entry5.deliver + BitVec.ofNat 64 101).toNat ∧
    (let s := turned .fetching { running with slipEnd := some 1000 }
     s.Settled ∧ s.region.engine ≠ .halted ∧ (s.stream 63).state = .running ∧ (s.stream 63).slipEnd = some 1000 ∧
       (∃ rest, (s.stream 63).unsent = { entry5 with stage := .fetching, ref := some 9 } :: rest) ∧
       (s.stream 63).sendingEntry = none ∧ (1000 : Time).toNat ≤ s.et.toNat ∧ s.et.toNat < (1001 : Time).toNat ∧
       (s.port (s.stream 63).port).up = true) ∧
    (media.stream 63).state ≠ .running :=
  ⟨by unfold State.Settled; decide, due_turned _ _ rfl rfl (by decide), by decide,
    ⟨by unfold State.Settled; decide, by decide, by decide, by decide, ⟨[], by decide⟩, by decide, by decide, by decide, by decide⟩,
    by decide⟩

theorem witness_release : ((withStream held).stream 63).state = .held ∧ ((withStream held).stream 63).releaseTime = some 1000 ∧
    (1000 : Time).toNat ≤ (withStream held).et.toNat ∧ (withStream held).region.engine ≠ .halted ∧
    ((withStream held).stream 63).Paced ∧ ((withStream held).stream 63).depth ≤ 16 ∧
    ((withStream { held with releaseTime := some 1001 }).stream 63).releaseTime = some 1001 ∧
    (withStream held).et.toNat < (1001 : Time).toNat :=
  ⟨by decide, by decide, by decide, by decide, ⟨by decide, by decide, by decide⟩, by decide, by decide, by decide⟩

/-- A request of the running stream's first entry, with entry 15 covering its block in a state. -/
def asking (x : LayoutState) : State :=
  ((withStream running).setLayout 15 ⟨x, 0⟩).setBuffer
    { FrameBuffer.reset with waiters := [.request 63 5 ⟨3, 1, 1⟩ (some 0) .play], passWanted := true }
theorem witness_service : (asking .empty).decoder.plan ⟨3, 1, 1⟩ = .unmapped ∧
    (asking .empty).decoder.plan ⟨3, 2, 1⟩ = .notCurrent ∧
    (asking (.retiring entry0 ⟨5, .delete⟩)).decoder.plan ⟨3, 1, 1⟩ = .held ∧
    (∀ (i : Fin 8) (m : Mark), ((asking .empty).stream 63).marks[i] = some m → m.kind = .shown) ∧
    (asking .empty).buffer.passWanted = true ∧ (asking .empty).region.engine ≠ .halted ∧
    (asking .empty).buffer.dir.length < 4096 ∧ (4096 + 1048575) / 1048576 = 1 ∧ 32768 < 32768 + 1 ∧
    (let s : State := { State.reset with buffer := { FrameBuffer.reset with passWanted := true } }
     s.Settled ∧ s.buffer.passWanted = true ∧ s.buffer.waiters = []) ∧
    State.reset.buffer.passWanted = false :=
  ⟨by decide, by decide, by decide,
    (fun i m h => by
      have k : ∀ i : Fin 8, ((asking .empty).stream 63).marks[i] = none := by decide
      rw [k i] at h
      cases h),
    by decide, by decide, by decide, by decide, by decide, ⟨by unfold State.Settled; decide, rfl, rfl⟩, rfl⟩

/-- The frame store full: one READY entry without a place on the reclaim list holds every page. -/
theorem witness_waiting : (List.length ([⟨7, .ready, ⟨9, 1, 1⟩, false, 4096, List.range 32768, .produced, 0, 0, 1, none, .play, none⟩] :
      List DirEntry) = 1) ∧ 32768 < (List.range 32768).length + 1 := by
  refine ⟨rfl, ?_⟩
  rw [List.length_range]
  decide

/-- `asking` with entry 15 ACTIVE and its members in TRAINING. -/
def training : Dispatcher := { Dispatcher.reset with members := Vector.replicate 8 { Member.reset with link := .training } }
theorem witness_decode :
    let s := (asking (.active entry0)).setDispatcher training
    s.decoder.plan ⟨3, 1, 1⟩ = .mapped [⟨15, 0, some 6, 1025, 1, 0⟩] ∧
      ([⟨15, 0, some 6, 1025, 1, 0⟩].map Piece.offset).Nodup ∧ (s.member 0).link = .training ∧
      (∀ c ∈ s.dispatcher.chunks, ∃ y ∈ s.buffer.dir, y.id = c.frame) ∧ s.dispatcher.chunks.length + 1 ≤ 8192 ∧
      (s.buffer.dir.map fun y => y.pages.length).sum + 1 ≤ 32768 := by
  refine ⟨by decide, by decide, by decide, ?_, by decide, by decide⟩
  intro c h
  have : c ∈ ([] : List Chunk) := h
  cases this

def attach : List Byte := le 1 4 ++ res 7 ++ le 8 (2 ^ 48 + 1)
theorem witness_links : (run.member 7).link = .down ∧ run.region.engine ≠ .halted ∧ u8 attach 0 = 4 ∧ attach.length = 16 ∧
    min (u64 attach 8) (2 ^ 48) = 2 ^ 48 ∧ ((run.setDispatcher training).member 7).link = .training ∧
    ((run.setMember 7 { Member.reset with link := .stalled }).member 7).link = .stalled ∧ halt.region.engine = .halted := by
  decide

/-- One chunk of two blocks ISSUED under tag 31 of member 2, in a frame with users. -/
def chunk : Chunk :=
  { frame := 9, offset := 1048576, layout := 15, member := 2, alternate := none, altTried := false, block := 70, count := 2,
    deadline := some 5, cls := .play, arrival := 0, firstIssue := some 500, holdoff := none, state := .issued }
def frame9 : DirEntry := ⟨9, .filling, ⟨3, 1, 1⟩, false, 1056768, [2, 32767], .produced, 1, 1, 1, some 5, .play, none⟩
def reading (arrived : List Nat) (c : Chunk) (link : Link) : State :=
  { run with
    buffer := { FrameBuffer.reset with dir := [frame9] }
    dispatcher :=
      { members := Dispatcher.reset.members.set 2
          { Member.reset with
            link := link, capacity := 100, limit := 1, reserve := 0
            tags := Member.reset.tags.set 31 (.issued 9 1048576 (some 1000) arrived) }
        chunks := [c], arrival := 1 } }

theorem witness_data : (List.replicate 4096 (7 : Byte)).length + 8 = 4104 ∧
    ((reading [] chunk .up).member 2).tags[(31 : Fin 32)] = .issued 9 1048576 (some 1000) [] ∧
    (reading [] chunk .up).chunk 9 1048576 = some chunk ∧ (1 : Nat) < chunk.count ∧ chunk.count ≤ 2 ∧
    (reading [] chunk .up).dirEntry 9 = some frame9 ∧ frame9.pages[(1048576 + 4096 * 1) / 1048576]? = some 32767 ∧
    (run.member 2).tags[(31 : Fin 32)] = .free := by
  refine ⟨by rw [List.length_replicate], by decide, by decide, by decide, by decide, by decide, by decide, by decide⟩

/-- A DONE with a status for tag 31. -/
def done (status : Nat) : List Byte := le 1 3 ++ le 1 31 ++ le 1 status ++ res 5
theorem witness_done : u8 (done 4) 0 = 3 ∧ (done 4).length = 8 ∧ u8 (done 4) 1 = 31 ∧ 3 < u8 (done 4) 2 ∧
    (∀ i, i < chunk.count → i ∈ [1, 0]) ∧ ¬ (∀ i, i < chunk.count → i ∈ [1]) ∧ frame9.state = .filling ∧
    frame9.decoding = .produced ∧ frame9.users ≠ 0 ∧ frame9.unsettled = 1 ∧ 2 ≤ ({ frame9 with unsettled := 2 } : DirEntry).unsettled ∧
    (∀ z ∈ (reading [] chunk .up).dispatcher.chunks, z.frame = 9 → z.state = .issued) ∧
    (chunk.alternate = none ∨ chunk.altTried = true) := by decide

theorem witness_retry : chunk.current = 2 ∧ chunk.firstIssue = some 500 ∧ ((reading [] chunk .up).member 2).link = .up ∧
    ((reading [] chunk .up).et - 500).toNat < 2 ^ ((reading [] chunk .up).member 2).windowCode * 1000000 ∧
    2 ^ (3 : Nat) * 1000000 ≤ ((8000500 : Time) - 500).toNat ∧ ({ chunk with alternate := some 6 } : Chunk).alternate = some 6 ∧
    (((reading [] chunk .up).setMember 6 { Member.reset with link := .training }).member 6).link = .training := by decide

/-- STALLED at a credit limit of 1, by its one ABANDONED tag. -/
def stalled : State :=
  run.setMember 2 { Member.reset with link := .stalled, limit := 1, reserve := 0, tags := Member.reset.tags.set 31 .abandoned }
theorem witness_abandoned : (stalled.member 2).tags[(31 : Fin 32)] = .abandoned ∧ (stalled.member 2).link = .stalled ∧
    ((List.finRange 32).countP fun h => h != 31 && (stalled.member 2).tags[h] == .abandoned) < (stalled.member 2).limit ∧
    (let s := stalled.setMember 2 { stalled.member 2 with tags := (stalled.member 2).tags.set 0 .abandoned }
     (s.member 2).limit ≤ (List.finRange 32).countP fun h => h != 31 && (s.member 2).tags[h] == .abandoned) ∧
    (¬ (u8 (le 1 5 ++ res 7) 0 = 2) ∧ ¬ (u8 (le 1 5 ++ res 7) 0 = 3) ∧ ¬ (u8 (le 1 5 ++ res 7) 0 = 4)) := by decide

theorem witness_expiry : (1000 : Time).toNat ≤ (reading [] chunk .up).et.toNat ∧
    ((reading [] chunk .up).member 2).limit ≤
      1 + (List.finRange 32).countP fun h => ((reading [] chunk .up).member 2).tags[h] == .abandoned ∧
    1 + (List.finRange 32).countP (fun h => (run.member 2).tags[h] == .abandoned) < (run.member 2).limit ∧
    (run.et.toNat < (1001 : Time).toNat) ∧ (1000300000 : Time).toNat + 4 * 2 ^ (13 + 10) < 2 ^ 64 := by
  unfold reading
  decide

/-- The chunk held off until 1,000 on an UP link. -/
def heldOff (c : Chunk) : State :=
  (reading [] { c with state := .queued, holdoff := some 1000 } .up).setMember 2
    { Member.reset with link := .up, capacity := 72, limit := 1, reserve := 0 }
theorem witness_holdoff : (heldOff chunk).Settled ∧ (heldOff chunk).region.engine = .running ∧ ((heldOff chunk).member 2).link = .up ∧
    (∀ z ∈ (heldOff chunk).dispatcher.chunks, z.state = .queued → z.current = 2 → z = { chunk with state := .queued, holdoff := some 1000 }) ∧
    (List.finRange 32).countP (fun h => ((heldOff chunk).member 2).tags[h] != .free) < ((heldOff chunk).member 2).limit ∧
    chunk.block + chunk.count ≤ ((heldOff chunk).member 2).capacity ∧ ((heldOff chunk).member 2).tags[(0 : Fin 32)] = .free ∧
    (({ chunk with cls := .scrub } : Chunk).cls = .scrub ∧ 1 - 1 ≤ 0) ∧ ((heldOff chunk).member 2).capacity < 71 + chunk.count ∧
    (∀ c ∈ (reading [] chunk .up).dispatcher.chunks, c.state ≠ .queued) :=
  ⟨by unfold State.Settled; decide, by decide, by decide, by decide, by decide, by decide, by decide, by decide, by decide,
    by decide⟩

/-- A presentation of a frame of 8,193 bytes at E = 6,000, with the last message of fragment 0 owed. -/
def picture : Presentation :=
  { port := .e0, egress := 6000, tick := 5, deliver := 900, start := 1000, sentAs := .frame ⟨3, 1, 1⟩ 8193 9, marked := false,
    listEnd := false, recipients := [⟨0, false⟩], fragment := 0, todo := [⟨0, false⟩] }
def sending (x : Stream) (p : Presentation) (t : Option Transmission) : State :=
  ((withStream { x with window := [{ entry5 with stage := .sending, ref := some 9, sentAs := some p.sentAs, tags := [⟨7, 2⟩] }] }).setPort .e0
    { PortState.reset with up := true, transmitting := t }).setPresentation 63 (some p)

theorem witness_arbiter : (sending running picture none).Chosen .e0 63 picture ∧
    ((sending running picture none).port .e0).up = true ∧ ((sending running picture none).port .e0).transmitting = none ∧
    ((sending running picture none).stream 63).viewers[(0 : Fin 8)] = some ⟨res 6, res 4, 9, false⟩ := by
  refine ⟨⟨⟨by decide, rfl, by decide, by decide⟩, ?_⟩, by decide, by decide, by decide⟩
  intro k y h hk
  have none_else : ∀ k : StreamId, k ≠ 63 → (sending running picture none).presentation k = none := by decide
  have e := none_else k hk
  rw [h.1] at e
  cases e

theorem witness_message : (⟨3, none, true⟩ : Message).payload.length ≤ 8192 ∧ (res 6).length = 6 ∧ (res 4).length = 4 := by decide

theorem witness_sent : (sending held { picture with todo := [] } (some ⟨63, 5, 0⟩)).Settled ∧
    (let s := sending held { picture with todo := [] } (some ⟨63, 5, 0⟩)
     (s.port .e0).transmitting = some ⟨63, 5, 0⟩ ∧ (s.stream 63).state = .held ∧
       (s.stream 63).sendingEntry =
         some { entry5 with stage := .sending, ref := some 9, sentAs := some picture.sentAs, tags := [⟨7, 2⟩] } ∧
       (s.stream 63).locate = none) ∧
    picture.todo ≠ [] ∧ (State.reset.port .e0).transmitting = none ∧
    ({ held with marks := held.marks.set 7 (some ⟨2, 3, 1, .shown, .notify, .any, some 1, 0⟩) } : Stream).marks[(7 : Fin 8)] =
      some ⟨2, 3, 1, .shown, .notify, .any, some 1, 0⟩ :=
  ⟨by unfold State.Settled; decide, by decide, by decide, rfl, by decide⟩

theorem witness_port : ((sending held picture none).port .e0).up = true ∧ (run.port .e0).up = false ∧
    (sending held picture none).Silent ∧ ((sending held picture none).stream 63).port = .e0 ∧
    ((sending held picture none).stream 63).sendingEntry ≠ none ∧
    ((halt.setPort .e0 { PortState.reset with up := true }).port .e0).up = true :=
  ⟨by decide, by decide, fun p _ => by cases p <;> rfl, by decide, by decide, by decide⟩

theorem witness_mapping : entry0.fieldsOk = true ∧ 1 ≤ entry0.members.length ∧
    (entry0.first ≤ 2000000 ∧ 2000000 ≤ entry0.last) ∧
    ((asking (.active entry0)).decoder.plan ⟨3, 1, 1029⟩ = .mapped [⟨15, 4, some 6, 1029, 1, 0⟩]) := by decide

/-- A loop of one cue back to itself, and an advance of 256 eighths that ends at its last eighth. -/
theorem witness_advance : CuesOk loopCues ∧ loopCues[3]? = some ⟨false, false, 5, 200, 30, none, 0⟩ ∧ 239 < 30 * 8 ∧
    List.Pairwise (fun a b : Waiter => earlier b.deadline a.deadline = false) [.frame 1 2 (some 4) .play, .frame 2 2 none .play] := by
  refine ⟨⟨by decide, ?_⟩, by decide, by decide, by decide⟩
  intro i c h
  match i with
  | 0 => cases h; exact ⟨by decide, fun l hl => by cases hl⟩
  | 1 => cases h; exact ⟨by decide, fun l hl => by cases hl; decide⟩
  | 2 => cases h; exact ⟨by decide, fun l hl => by cases hl⟩
  | 3 => cases h; exact ⟨by decide, fun l hl => by cases hl⟩
  | _ + 4 => cases h

/-! ### Witnesses: waking, completing, serving and positions -/

/-- The tail of 32 bytes is shorter than the notice of 48, so that a PAD precedes it (R16). -/
theorem witness_batch_pad : wrapRegion.work.noticeSize - wrapRegion.noticeFill.toNat % wrapRegion.work.noticeSize < 48 ∧
    wrapRegion.notices.head?.map Notice.size = some 48 ∧
    (wrapRegion.writesOf wrapRegion.noticeFill ⟨.late 0 .skip .fillMissing 7 1 2 0 5, 9⟩).length = 2 := by decide

/-- `media` with frames of 45,056 bytes, which at E = 1 take longer than a period of clip 3. -/
def heavy : State := run.setClip 3 { clip3 with blocks := 11, bytes := 45056 }
def gapped : List Cue := [⟨true, false, 0, 0, 1, none, 0⟩, ⟨false, false, 3, 1010, 20, none, 0⟩]
def slowStream : Stream := { parked with egress := 1 }

theorem witness_open_rates : openFieldsOk (opening 63 0 1 0 480000 2000 1 0 []) = true ∧
    openFieldsOk (opening 63 0 1 0 480000 1999 1 0 []) = false ∧ openFieldsOk (opening 63 0 1 0 0 1 1 0 []) = false ∧
    openFieldsOk (opening 63 0 1 0 2 3 1 0 []) = false ∧
    checkCues heavy.decoder [] 0 (rawCues (opening 63 0 1 0 0 0 1 2 (cue 1 0 0 0 1 0 0 0 ++ cue 0 0 3 1010 20 0 0 0)) 56 2) =
      .accepted gapped ∧
    (heavy.clipAt 3).rateN = 24 ∧ (heavy.clipAt 3).rateD = 1 ∧
    1000000000 * 1 / 24 < ((heavy.clipAt 3).bytes * 1000 + 1 - 1) / 1 ∧
    12000 < ((heavy.setPort .e0 { PortState.reset with allocated := 12000 }).port .e0).allocated + 1 := by decide

theorem witness_cues_slow : (heavy.setStream 63 slowStream).Takes (.cuesReplace (rec oneCue)) tagCUES (rec oneCue) ∧
    checkCues heavy.decoder [] 0 (rawCues oneCue 16 1) = .accepted [⟨false, false, 3, 5, 6, none, 0⟩] ∧
    ¬ (heavy.setStream 63 slowStream).Transmittable slowStream ⟨false, false, 3, 5, 6, none, 0⟩ ∧
    (heavy.setStream 63 slowStream).Transmittable slowStream ⟨true, false, 0, 0, 1, none, 0⟩ :=
  ⟨takes _ _ _ _ rfl rfl (by decide) (by unfold State.Settled; decide), by decide, by unfold State.Transmittable; decide,
    by unfold State.Transmittable; decide⟩

/-- Only stream 63 can be woken where it alone has a window. -/
theorem wakes_alone (s : State) (h : ∀ k : StreamId, k ≠ 63 → (s.stream k).window = []) :
    ∀ k : StreamId, k ≠ 63 → s.wakeable k = none := by
  intro k hk
  have e : (s.stream k).unsent = [] := by unfold Stream.unsent; rw [h k hk]; rfl
  unfold State.wakeable
  simp only [e]

/-- A SEEKING stream whose locate entry has settled. -/
def located (g : Stage) : Stream :=
  { running with
    state := .seeking, speed := 0, locate := some ⟨0, 8, true, 8, 1, 900, true⟩
    window := [{ entry5 with stage := g, ref := some 9, locate := true }] }
def sought (g : Stage) : State :=
  ((withStream (located g)).setPort .e0 { PortState.reset with up := true }).setBuffer
    { FrameBuffer.reset with dir := [⟨9, .ready, ⟨3, 1, 1⟩, false, 4096, [2], .produced, 1, 0, 1, some 0, .scrub, none⟩] }

theorem witness_locate_wakes : (∀ k : StreamId, k ≠ 63 → (sought .ready).wakeable k = none) ∧
    ((sought .ready).stream 63).state = .seeking ∧
    (∃ rest, ((sought .ready).stream 63).unsent = { entry5 with stage := .ready, ref := some 9, locate := true } :: rest) ∧
    ((sought .ready).stream 63).sendingEntry = none ∧ ((sought .ready).port ((sought .ready).stream 63).port).up = true ∧
    (sought .ready).TurnSends 63 { entry5 with stage := .ready, ref := some 9, locate := true } (.frame ⟨3, 1, 1⟩ 4096 9) none ∧
    (sought .failed).TurnSends 63 { entry5 with stage := .failed, ref := some 9, locate := true } (.fill .failed) none :=
  ⟨wakes_alone _ (by decide), by decide, ⟨[], by decide⟩, by decide, by decide,
    .inr ⟨rfl, .inl ⟨_, 9, _, rfl, rfl, rfl, rfl, rfl⟩⟩, .inl ⟨rfl, rfl⟩⟩

/-- Viewer 1 beside viewer 0 in a presentation that is SENDING. -/
def shared : Stream := { held with viewers := held.viewers.set 1 (some ⟨res 6, res 4, 9, false⟩) }
def both (todo : List Recipient) (t : Option Transmission) : State :=
  sending shared { picture with recipients := [⟨0, false⟩, ⟨1, false⟩], todo := todo } t

/-- A MUTE of viewer 1 with a message owed to viewer 0, with the last copy of a fragment owed to viewer 1, with
a message under way, and with nothing left. -/
theorem witness_shar_presentation :
    (both [⟨0, false⟩, ⟨1, false⟩] none).Takes (.sharMute (rec (shar 63 2 1 0))) tagSHAR (rec (shar 63 2 1 0)) ∧
    ((both [⟨0, false⟩, ⟨1, false⟩] none).presentation 63).isSome = true ∧
    [(⟨0, false⟩ : Recipient), ⟨1, false⟩].filter (fun g => g.viewer != 1) = [⟨0, false⟩] ∧
    [(⟨1, false⟩ : Recipient)].filter (fun g => g.viewer != 1) = [] ∧ (8193 + 8191) / 8192 = 2 ∧
    (∃ k, ((both [⟨1, false⟩] (some ⟨63, 5, 0⟩)).port .e0).transmitting = some k ∧ k.stream = 63 ∧ k.tick = 5 ∧ k.viewer = 0) ∧
    (¬ ∃ k, ((both [] none).port .e0).transmitting = some k) :=
  ⟨takes _ _ _ _ rfl rfl (by decide) (by unfold State.Settled; decide), by decide, by decide, by decide, by decide,
    ⟨_, rfl, by decide, by decide, by decide⟩, fun h => by obtain ⟨k, h⟩ := h; cases h⟩

/-- A SLIP wait whose frame has settled at its end of 1,000, and one whose end of 999 is passed. -/
def waited (g : Stage) (t : Time) : State := turned g { running with slipEnd := some t, policy := .slip, slipLimit := 100 }
theorem witness_slip_settled :
    (let s := waited .ready 1000
     (s.stream 63).state = .running ∧ (s.stream 63).slipEnd = some 1000 ∧
       (∃ rest, (s.stream 63).unsent = { entry5 with stage := .ready, ref := some 9 } :: rest) ∧
       s.et.toNat ≤ (1000 : Time).toNat ∧ (∀ k : StreamId, k ≠ 63 → s.wakeable k = none) ∧
       (s.stream 63).sendingEntry = none ∧ (s.port (s.stream 63).port).up = true ∧
       (∃ y, s.dirEntry 9 = some y ∧ y.bytes = 4096)) ∧
    (waited .failed 1000).wakeable 63 = some { entry5 with stage := .failed, ref := some 9 } ∧
    (waited .ready 999).Settled ∧ (999 : Time).toNat < (waited .ready 999).et.toNat :=
  ⟨⟨by decide, by decide, ⟨[], by decide⟩, by decide, wakes_alone _ (by decide), by decide, by decide, ⟨_, rfl, by decide⟩⟩,
    by decide, by unfold State.Settled; decide, by decide⟩

/-- A SCRUB request of a held frame before a PLAY request of one without a mapping, the FAILED entry of `pages` pages and the
reserve keeping out the first. -/
def reserved : State :=
  let s := asking (.retiring entry0 ⟨5, .delete⟩)
  s.setBuffer
    { s.buffer with
      reserve := 16384, waiters := [.request 63 5 ⟨3, 1, 1⟩ (some 0) .scrub, .request 62 9 ⟨3, 2, 1⟩ none .play]
      dir := [⟨7, .failed, ⟨9, 1, 1⟩, false, 4096, List.range 16384, .produced, 0, 0, 1, none, .play, none⟩] }
theorem witness_reserve : reserved.region.engine ≠ .halted ∧ reserved.buffer.passWanted = true ∧
    reserved.decoder.plan ⟨3, 1, 1⟩ = .held ∧ reserved.decoder.plan ⟨3, 2, 1⟩ = .notCurrent ∧
    (reserved.clip 3).bytes = 4096 ∧ (reserved.buffer.dir.map fun y => y.pages.length).sum = 16384 ∧
    reserved.buffer.reserve = 16384 ∧ reserved.buffer.reclaim = [] :=
  ⟨by decide, rfl, by decide, by decide, by decide, by simp [reserved, State.setBuffer], rfl, rfl⟩

/-- A MAPPED plan of one chunk with every chunk record in use. -/
theorem witness_records : (((asking (.active entry0)).setDispatcher training).decoder.plan ⟨3, 1, 1⟩ =
      .mapped [⟨15, 0, some 6, 1025, 1, 0⟩]) ∧
    8192 < (List.replicate 8192 chunk).length + [(⟨15, 0, some 6, 1025, 1, 0⟩ : Piece)].length := by
  refine ⟨by decide, ?_⟩
  rw [List.length_replicate]
  decide

/-- The last message of an entry's presentation is on the port. -/
def ending (x : Stream) (e : Entry) : State :=
  ((withStream { x with window := [{ e with stage := .sending, ref := some 9, sentAs := some picture.sentAs }] }).setPort .e0
    { PortState.reset with up := true, transmitting := some ⟨63, 5, 0⟩ }).setPresentation 63 (some { picture with fragment := 1, todo := [] })

theorem ends_ending (x : Stream) (e : Entry) :
    (ending x e).Ends .e0 63 { e with stage := .sending, ref := some 9, sentAs := some picture.sentAs } := by
  have h : (ending x e).stream 63 = { x with window := [{ e with stage := .sending, ref := some 9, sentAs := some picture.sentAs }] } := by
    simp [ending, withStream, media, run, State.setPort, State.stream, State.setStream, State.setEgress, State.setPresentation]
  refine ⟨(by decide : run.region.engine ≠ .halted), ⟨⟨63, 5, 0⟩, rfl, rfl⟩,
    ⟨{ picture with fragment := 1, todo := [] }, ?_, rfl, rfl⟩, ?_⟩
  · simp [ending, State.presentation, State.setPresentation, State.setEgress]
  unfold Stream.sendingEntry
  rw [h]
  rfl

/-- A HOLD mark of the next match, and the tag of its entry. -/
def holding : Stream := { running with marks := running.marks.set 7 (some ⟨2, 3, 1, .shown, .hold, .any, some 1, 0⟩) }
theorem witness_completions :
    (ending running entry5).Ends .e0 63 { entry5 with stage := .sending, ref := some 9, sentAs := some picture.sentAs } ∧
    (running.Unheld entry5 ∧ running.Paced ∧ running.locate = none ∧ running.depth ≤ 16) ∧
    (ending held { entry5 with listEnd := some .atEnd }).Ends .e0 63
      { entry5 with listEnd := some .atEnd, stage := .sending, ref := some 9, sentAs := some picture.sentAs } ∧
    (∃ l, (located .ready).locate = some l ∧ l.projected = true ∧ l.thenPlay = true) ∧
    (ending (located .ready) { entry5 with locate := true }).Ends .e0 63
      { entry5 with locate := true, stage := .sending, ref := some 9, sentAs := some picture.sentAs } ∧
    ((ending holding { entry5 with tags := [⟨7, 2⟩] }).stream 63).state = .running ∧
    holding.marks[(7 : Fin 8)] = some ⟨2, 3, 1, .shown, .hold, .any, some 1, 0⟩ ∧
    (∃ key b d, picture.sentAs = .frame key b d) :=
  ⟨ends_ending _ _, ⟨fun g h => (List.not_mem_nil h).elim, ⟨by decide, by decide, by decide⟩, by decide, by decide⟩,
    ends_ending _ _, ⟨_, rfl, rfl, rfl⟩, ends_ending _ _, by decide, by decide, ⟨_, _, _, rfl⟩⟩

/-- 5.7's list: both clamps of a position, and steps that stop at either end or pass from cue to cue. -/
theorem witness_positions : loopCues[3]? = some ⟨false, false, 5, 200, 30, none, 0⟩ ∧
    clampPosition loopCues 3 239 = (3, 239, false) ∧ clampPosition loopCues 3 240 = (3, 232, true) ∧
    clampPosition loopCues 4 0 = (3, 232, true) ∧ (frameList loopCues)[21]? = some (1, 8 / 8) ∧
    (frameList loopCues).length = 57 ∧ (frameList loopCues)[27]? = some (3, 0) ∧
    stepTarget loopCues 1 8 6 = (3, 0, false) ∧ stepTarget loopCues 1 8 (-22) = (0, 0, true) ∧
    stepTarget loopCues 1 8 (-21) = (0, 0, false) ∧ stepTarget loopCues 3 40 32 = (3, 232, true) := by decide

/-- R113: a waiter whose deadline stays as it was keeps its place among its equals. -/
theorem test_deadline_unchanged :
    let s := reserved.setBuffer { reserved.buffer with waiters := [.frame 1 2 none .play, .frame 2 2 none .play] }
    (s.moveWaiter (fun w => w.isFrame 1) none).buffer.waiters = [.frame 1 2 none .play, .frame 2 2 none .play] := by decide

/-- R75: a frame that is READY only after the end of the wait is sent as FILL MISSING. -/
theorem test_wait_passed : (waited .ready 999).wakeable 63 = none ∧
    (((waited .ready 999).endSlip 63).presentation 63).map (·.sentAs) = some (.fill .missing) := by decide

/-! ### Witnesses: admission, the hold, port losses and the shared cache -/

/-- Stream 63 open with E = 6,000 and two unmuted viewers on E0. -/
def admitted : State := (withStream shared).setPort .e0 { PortState.reset with up := true, allocated := 12000 }
theorem witness_admitted : admitted.Admitted ∧ ∃ t, step { admitted with pending := [.stop] } = .next t :=
  ⟨⟨fun p => by cases p <;> decide, by decide⟩, _, rfl⟩

/-- Entries 15 and 14 RETIRING over blocks 0 to 9 and 10 to 19; frame 2 of the clip lies on both. -/
def first : LayoutDef := ⟨0, 9, 256, [0], none, 0, .rotate⟩
def second : LayoutDef := ⟨10, 19, 256, [0], none, 0, .rotate⟩
def heldEntry (id n : Nat) : DirEntry := ⟨id, .filling, ⟨3, 1, n⟩, false, 16384, [id], .held, 0, 0, 1, some 5, .play, none⟩
def holds : State :=
  let s := ((run.setClip 3 ⟨true, 1, 0, 0, 4, 16384, 5, 24, 1⟩).setLayout 15 ⟨.retiring first ⟨5, .define first⟩, 0⟩).setLayout 14
    ⟨.retiring second ⟨7, .define second⟩, 0⟩
  { s with
    decoder := { s.decoder with hold := [1, 2, 3] }
    buffer := { s.buffer with dir := [heldEntry 1 2, heldEntry 2 3, heldEntry 3 0] } }
theorem witness_replan : holds.region.engine ≠ .halted ∧
    holds.decoder.layout[(15 : Fin 16)].state = .retiring first ⟨5, .define first⟩ ∧
    holds.decoder.layout[(15 : Fin 16)].inFlight = 0 ∧ holds.decoder.hold.Nodup ∧
    (∀ i ∈ holds.decoder.hold, ∃ y ∈ holds.buffer.dir, y.id = i ∧ ∀ z ∈ holds.buffer.dir, z.id = y.id → z = y) ∧
    holds.decoder.holder ⟨3, 1, 2⟩ = some 15 ∧ holds.decoder.holder ⟨3, 1, 3⟩ = some 14 := by decide

/-- R34: frame 2 was held by entry 15 and is held again by entry 14: it rejoins at the tail. Frame 3 keeps its place, and
frame 0 is MAPPED. -/
theorem test_hold_rejoins : (holds.completeLayout 15).decoder.hold = [2, 1] := by decide

/-- What E0 loses: a presentation of a RUNNING and a SEEKING stream, a list-end entry, a SLIP wait. -/
theorem witness_port_loss : ((ending running entry5).port .e0).up = true ∧
    ((ending running entry5).stream 63).port = .e0 ∧ ((ending running entry5).stream 63).slipEnd = none ∧
    ((ending running entry5).stream 63).sendingEntry =
      some { entry5 with stage := .sending, ref := some 9, sentAs := some picture.sentAs } ∧
    ((ending held { entry5 with listEnd := some .atEnd }).stream 63).sendingEntry =
      some { entry5 with listEnd := some .atEnd, stage := .sending, ref := some 9, sentAs := some picture.sentAs } ∧
    ((ending (located .ready) { entry5 with locate := true }).stream 63).state = .seeking ∧
    ((ending (located .ready) { entry5 with locate := true }).stream 63).locate = some ⟨0, 8, true, 8, 1, 900, true⟩ ∧
    ((waited .fetching 1000).stream 63).window = [{ entry5 with stage := .fetching, ref := some 9 }] ∧
    ((waited .fetching 1000).stream 63).slipEnd = some 1000 ∧ ((waited .fetching 1000).stream 63).port = .e0 ∧
    (waited .fetching 1000).Silent :=
  ⟨by decide, by decide, by decide, (ends_ending _ _).entry, (ends_ending _ _).entry, by decide, by decide, by decide, by decide,
    by decide, fun p _ => by cases p <;> rfl⟩

/-- Frame 1 of clip 3 in the store. -/
def cached (state : FrameState) (users : Nat) : DirEntry :=
  ⟨9, state, ⟨3, 1, 1⟩, false, 4096, [2], .produced, 1, 0, users, some 7, .scrub, none⟩
def storing (l : List DirEntry) (reclaim : List Nat) : State :=
  let s := asking (.retiring entry0 ⟨5, .delete⟩)
  s.setBuffer { s.buffer with dir := l, reclaim := reclaim }

theorem witness_hit : (storing [cached .ready 0] [9]).HasEntry (cached .ready 0) ∧
    (storing [cached .ready 0] [9]).NoneQueued 9 ∧
    (storing [cached .filling 1] []).buffer.waiters = [.request 63 5 (cached .filling 1).key (some 0) .play] ∧
    (∀ z ∈ (storing [cached .filling 1] []).buffer.dir, z.key = ⟨3, 1, 1⟩ → z = cached .filling 1) ∧
    earlier (some 0) (cached .ready 0).deadline = true := by
  unfold State.HasEntry State.NoneQueued
  decide

/-- A hit takes a READY frame off the reclaim list (R106). -/
theorem test_hit : ((storing [cached .ready 0] [9]).servicePass.buffer.reclaim,
    (storing [cached .ready 0] [9]).servicePass.buffer.dir) = ([], [{ cached .ready 1 with deadline := some 0, cls := .play }]) := by
  decide

/-- Two cached frames of a page each, of which the older must go: the SCRUB request's target of 32,767 pages leaves one. -/
def cache (id n : Nat) : DirEntry := { cached .ready 0 with id := id, key := ⟨9, 1, n⟩, pages := [n] }
def full : State :=
  let s := storing [cache 4 1, cache 5 2] [5, 4]
  s.setBuffer { s.buffer with reserve := 32766, waiters := [.request 63 5 ⟨3, 1, 1⟩ (some 0) .scrub] }
theorem witness_reclaim : full.decoder.plan ⟨3, 1, 1⟩ = .held ∧ (full.buffer.dir.map fun y => y.id).Nodup ∧
    full.buffer.reclaim.Nodup ∧ (∀ d ∈ full.buffer.reclaim, ∃ y ∈ full.buffer.dir, y.id = d) ∧
    (full.buffer.dir.map fun y => y.pages.length).sum = 2 ∧ (1 + full.buffer.reserve) + 2 > 32768 ∧
    (1 + full.buffer.reserve) + 1 ≤ 32768 := by decide

/-- R111: one entry is reclaimed, the oldest. -/
theorem test_reclaim : (full.reclaimFor ⟨true, 1, 0⟩ 32767).buffer.reclaim = [4] := by decide

/-- A FETCHED mark that fires at its second allocation, on a FORWARD pass of the frame. -/
def fetching (limit : Nat) : State :=
  let s := asking (.retiring entry0 ⟨5, .delete⟩)
  s.setStream 63 { s.stream 63 with marks := (s.stream 63).marks.set 7 (some ⟨2, 3, 1, .fetched, .notify, .forward, some limit, 1⟩) }
theorem witness_fetched : (fetching 2).decoder.plan ⟨3, 1, 1⟩ = .held ∧ entry5 ∈ ((fetching 2).stream 63).window ∧
    (∀ z ∈ ((fetching 2).stream 63).window, z.tick = 5 → z = entry5) ∧ entry5.direction = .forward ∧
    ((fetching 2).stream 63).marks[(7 : Fin 8)] = some ⟨2, 3, 1, .fetched, .notify, .forward, some 2, 1⟩ ∧
    ((fetching 3).stream 63).marks[(7 : Fin 8)] = some ⟨2, 3, 1, .fetched, .notify, .forward, some 3, 1⟩ := by decide

/-- R103: FTCH at the second allocation, and none before. -/
theorem test_fetched : (fetching 2).servicePass.region.notices.map Notice.body = [.ftch 63 7 3 2 1 5] ∧
    (fetching 3).servicePass.region.notices = [] := by decide

/-- Entries for each way of losing the last user, and of becoming stale. -/
theorem witness_users : (storing [cached .ready 1] []).HasEntry (cached .ready 1) ∧
    (storing [cached .ready 2] []).HasEntry (cached .ready 2) ∧
    (storing [cached .failed 1] []).HasEntry (cached .failed 1) ∧
    (storing [cached .filling 1] []).HasEntry (cached .filling 1) ∧
    (∀ z ∈ (storing [cached .filling 1] []).buffer.waiters, z.isFrame 9 = false) ∧
    (storing [{ cached .ready 1 with stale := true }] []).HasEntry { cached .ready 1 with stale := true } ∧
    (storing [cached .ready 0] [9]).HasEntry (cached .ready 0) ∧ earlier (some 8) (cached .ready 1).deadline = false ∧
    (storing [{ cached .filling 0 with stale := true }] []).HasEntry { cached .filling 0 with stale := true } := by
  unfold State.HasEntry
  decide

end Sys2Proof.Tests
end

