-- ==== Sys2Proof/Proofs/CueLists.lean ====
section
/-! SUPPORT. The checks of cues (R79), a list of cues checked one by one (R42, R80), and the loops of an accepted list. -/

namespace Sys2Proof.Machine

/-! ### The five checks of R79 -/

/-- Check 1: kind, direction and length. -/
def RawCue.KindOk (c : RawCue) : Prop := c.kind ≤ 1 ∧ c.direction ≤ 1 ∧ 1 ≤ c.length

/-- Check 2: the back-to cue and the count of a loop of cue `i`. -/
def RawCue.LoopOk (c : RawCue) (i : Nat) : Prop := c.loopFlag ≤ 1 ∧ (c.loopFlag = 1 → c.back ≤ i ∧ 1 ≤ c.count)

/-- Check 3: the clip number of a CLIP cue. -/
def RawCue.ClipOk (c : RawCue) : Prop := c.kind = 0 → c.clip ≤ 255

/-- Check 4: the clip of a CLIP cue is DEFINED and holds the cue's frames. -/
def RawCue.FramesOk (c : RawCue) (dec : Decoder) : Prop :=
  c.kind = 0 → ∀ k : Fin 256, k.val = c.clip → dec.clips[k].defined = true ∧ c.first + c.length - 1 < dec.clips[k].frames

/-- Check 5: a loop crosses none of the loops of the cues before it. -/
def RawCue.LoopFits (c : RawCue) (before : List Cue) : Prop :=
  c.loopFlag = 1 → ∀ (j : Nat) (x : Cue) (l : Loop), before[j]? = some x → x.loop = some l → ¬ (l.back < c.back ∧ c.back ≤ j)

theorem crossesEarlier_cons (b i : Nat) (c : Cue) (rest : List Cue) :
    crossesEarlier b i (c :: rest) = true ↔
      (∃ l, c.loop = some l ∧ l.back < b ∧ b ≤ i) ∨ crossesEarlier b (i + 1) rest = true := by
  cases h : c.loop <;> simp [crossesEarlier, h, loopsCross]

theorem crossesEarlier_iff (b i : Nat) (cues : List Cue) :
    crossesEarlier b i cues = true ↔
      ∃ (j : Nat) (x : Cue) (l : Loop), cues[j]? = some x ∧ x.loop = some l ∧ l.back < b ∧ b ≤ i + j := by
  induction cues generalizing i with
  | nil => simp [crossesEarlier]
  | cons c rest ih =>
    rw [crossesEarlier_cons, ih]
    constructor
    · rintro (⟨l, hl, hlow, hhigh⟩ | ⟨j, x, l, hx, hl, hlow, hhigh⟩)
      · exact ⟨0, c, l, rfl, hl, hlow, hhigh⟩
      · exact ⟨j + 1, x, l, hx, hl, hlow, by omega⟩
    · rintro ⟨j, x, l, hx, hl, hlow, hhigh⟩
      cases j with
      | zero =>
        obtain rfl : c = x := by simpa using hx
        exact .inl ⟨l, hl, hlow, hhigh⟩
      | succ j => exact .inr ⟨j, x, l, hx, hl, hlow, by omega⟩

theorem not_loopFits_iff (c : RawCue) (before : List Cue) :
    ¬ c.LoopFits before ↔ c.loopFlag = 1 ∧ crossesEarlier c.back 0 before = true := by
  simp only [RawCue.LoopFits, crossesEarlier_iff, Nat.zero_add, Classical.not_imp, not_forall, not_not]

theorem not_framesOk_iff (c : RawCue) (dec : Decoder) (hclip : c.ClipOk) :
    ¬ c.FramesOk dec ↔ c.kind = 0 ∧ (if h : c.clip < 256 then
      !(dec.clips[c.clip]'h).defined || decide ((dec.clips[c.clip]'h).frames ≤ c.first + c.length - 1) else true) = true := by
  by_cases hkind : c.kind = 0
  · have hlt : c.clip < 256 := Nat.lt_succ_of_le (hclip hkind)
    have named : (∀ k : Fin 256, k.val = c.clip →
          dec.clips[k].defined = true ∧ c.first + c.length - 1 < dec.clips[k].frames) ↔
        (dec.clips[c.clip]'hlt).defined = true ∧ c.first + c.length - 1 < (dec.clips[c.clip]'hlt).frames :=
      ⟨fun h => h ⟨c.clip, hlt⟩ rfl, fun h k hk => by obtain rfl : k = ⟨c.clip, hlt⟩ := Fin.ext hk; exact h⟩
    rw [RawCue.FramesOk, named]
    simp only [hkind, hlt, true_and, true_imp_iff, dif_pos]
    rw [Bool.or_eq_true, Bool.not_eq_true', decide_eq_true_eq, not_and_or, Bool.not_eq_true, Nat.not_lt]
  · simp [RawCue.FramesOk, hkind]

/-- The outcomes of the checks on one cue: the first check that fails decides the code. -/
theorem cueRefusal_cases (dec : Decoder) (before : List Cue) (c : RawCue) :
    (cueRefusal dec before c = some .badField ∧ ¬ (c.KindOk ∧ c.LoopOk before.length ∧ c.ClipOk)) ∨
    (c.KindOk ∧ c.LoopOk before.length ∧ c.ClipOk ∧
      ((cueRefusal dec before c = some .noSuch ∧ ¬ c.FramesOk dec) ∨
       (cueRefusal dec before c = some .loopCross ∧ c.FramesOk dec ∧ ¬ c.LoopFits before) ∨
       (cueRefusal dec before c = none ∧ c.FramesOk dec ∧ c.LoopFits before))) := by
  have kindBad : ¬ c.KindOk ↔ 1 < c.kind ∨ 1 < c.direction ∨ c.length = 0 := by unfold RawCue.KindOk; omega
  have loopBad : ¬ c.LoopOk before.length ↔
      1 < c.loopFlag ∨ (c.loopFlag = 1 ∧ (before.length < c.back ∨ c.count = 0)) := by
    unfold RawCue.LoopOk; omega
  have clipBad : ¬ c.ClipOk ↔ c.kind = 0 ∧ 256 ≤ c.clip := by unfold RawCue.ClipOk; omega
  dsimp only [cueRefusal]
  by_cases kind : c.KindOk
  case neg => exact .inl ⟨if_pos (kindBad.1 kind), fun ok => kind ok.1⟩
  rw [if_neg (mt kindBad.2 (not_not_intro kind))]
  by_cases loop : c.LoopOk before.length
  case neg => exact .inl ⟨if_pos (loopBad.1 loop), fun ok => loop ok.2.1⟩
  rw [if_neg (mt loopBad.2 (not_not_intro loop))]
  by_cases clip : c.ClipOk
  case neg => exact .inl ⟨if_pos (clipBad.1 clip), fun ok => clip ok.2.2⟩
  rw [if_neg (mt clipBad.2 (not_not_intro clip))]
  refine .inr ⟨kind, loop, clip, ?_⟩
  have framesBad := not_framesOk_iff c dec clip
  by_cases frames : c.FramesOk dec
  case neg => exact .inl ⟨if_pos (framesBad.1 frames), frames⟩
  rw [if_neg (mt framesBad.2 (not_not_intro frames))]
  have loopCrosses := not_loopFits_iff c before
  by_cases fits : c.LoopFits before
  case neg => exact .inr (.inl ⟨if_pos (loopCrosses.1 fits), frames, fits⟩)
  exact .inr (.inr ⟨if_neg (mt loopCrosses.2 (not_not_intro fits)), frames, fits⟩)

theorem cueRefusal_eq_iff (dec : Decoder) (before : List Cue) (c : RawCue) :
    (cueRefusal dec before c = none ↔
      c.KindOk ∧ c.LoopOk before.length ∧ c.ClipOk ∧ c.FramesOk dec ∧ c.LoopFits before) ∧
    (cueRefusal dec before c = some .badField ↔ ¬ (c.KindOk ∧ c.LoopOk before.length ∧ c.ClipOk)) ∧
    (cueRefusal dec before c = some .noSuch ↔
      c.KindOk ∧ c.LoopOk before.length ∧ c.ClipOk ∧ ¬ c.FramesOk dec) ∧
    (cueRefusal dec before c = some .loopCross ↔
      c.KindOk ∧ c.LoopOk before.length ∧ c.ClipOk ∧ c.FramesOk dec ∧ ¬ c.LoopFits before) := by
  obtain ⟨h, bad⟩ | ⟨kind, loop, clip, ⟨h, bad⟩ | ⟨h, frames, bad⟩ | ⟨h, frames, fits⟩⟩ := cueRefusal_cases dec before c
  · simp only [h, reduceCtorEq, false_iff, true_iff]
    tauto
  all_goals simp [*]

theorem passes_checks {dec : Decoder} {before : List Cue} {c : RawCue} (h : cueRefusal dec before c = none) :
    c.KindOk ∧ c.LoopOk before.length ∧ c.ClipOk ∧ c.FramesOk dec ∧ c.LoopFits before :=
  (cueRefusal_eq_iff dec before c).1.1 h

/-! ### A list of cues checked one by one (R42, R80) -/

/-- The resulting list when the first `k` of the order's own cues have passed. -/
def madeAfter (before : List Cue) (raw : List RawCue) (k : Nat) : List Cue := before ++ (raw.take k).map RawCue.toCue

@[simp] theorem madeAfter_zero (before : List Cue) (raw : List RawCue) : madeAfter before raw 0 = before := by
  simp [madeAfter]

@[simp] theorem madeAfter_cons_succ (before : List Cue) (c : RawCue) (rest : List RawCue) (k : Nat) :
    madeAfter before (c :: rest) (k + 1) = madeAfter (before ++ [c.toCue]) rest k := by
  simp [madeAfter]

theorem checkCues_cons_of_passes {dec : Decoder} {before : List Cue} {c : RawCue} (start : Nat) (rest : List RawCue)
    (h : cueRefusal dec before c = none) :
    checkCues dec before start (c :: rest) = checkCues dec (before ++ [c.toCue]) (start + 1) rest := by
  rw [checkCues, h]

theorem checkCues_cons_of_refused {dec : Decoder} {before : List Cue} {c : RawCue} {code : Result} (start : Nat)
    (rest : List RawCue) (h : cueRefusal dec before c = some code) :
    checkCues dec before start (c :: rest) = .refused code start := by
  rw [checkCues, h]

theorem checkCues_of_all_pass (dec : Decoder) (before : List Cue) (start : Nat) (raw : List RawCue)
    (pass : ∀ (k : Nat) (c : RawCue), raw[k]? = some c → cueRefusal dec (madeAfter before raw k) c = none) :
    checkCues dec before start raw = .accepted (madeAfter before raw raw.length) := by
  induction raw generalizing before start with
  | nil => simp [checkCues, madeAfter]
  | cons c rest ih =>
    have first : cueRefusal dec before c = none := by simpa using pass 0 c rfl
    rw [checkCues_cons_of_passes start rest first, List.length_cons, madeAfter_cons_succ]
    exact ih _ _ fun k d hd => by simpa using pass (k + 1) d hd

theorem checkCues_of_first_refusal (dec : Decoder) (before : List Cue) (start : Nat) (raw : List RawCue) (k : Nat)
    (c : RawCue) (code : Result) (hc : raw[k]? = some c) (bad : cueRefusal dec (madeAfter before raw k) c = some code)
    (pass : ∀ (j : Nat) (d : RawCue), j < k → raw[j]? = some d → cueRefusal dec (madeAfter before raw j) d = none) :
    checkCues dec before start raw = .refused code (start + k) := by
  induction k generalizing before start raw with
  | zero =>
    obtain ⟨rest, rfl⟩ : ∃ rest, raw = c :: rest := by cases raw <;> simp_all
    exact checkCues_cons_of_refused start rest (by simpa using bad)
  | succ k ih =>
    cases raw with
    | nil => simp at hc
    | cons d rest =>
      have first : cueRefusal dec before d = none := by simpa using pass 0 d k.succ_pos rfl
      rw [checkCues_cons_of_passes start rest first,
        ih _ _ rest hc (by simpa using bad) fun j e hj he => by simpa using pass (j + 1) e (Nat.succ_lt_succ hj) he,
        Nat.add_right_comm, Nat.add_assoc]

/-! ### Loops nested or apart (R79) -/

/-- Any two loops of the list are nested or apart: the later one reaches back to the start of the earlier, or begins after
the cue that closes it. -/
def LoopsApart (cues : List Cue) : Prop :=
  ∀ (i k : Nat) (a b : Cue) (m n : Loop), i < k → cues[i]? = some a → cues[k]? = some b → a.loop = some m → b.loop = some n →
    n.back ≤ m.back ∨ i < n.back

/-- The loop of a cue that passes check 2 is there exactly with loop flag 1. -/
theorem toCue_loop_eq_some {c : RawCue} {i : Nat} {n : Loop} (ok : c.LoopOk i) (h : c.toCue.loop = some n) :
    c.loopFlag = 1 ∧ n.back = c.back := by
  obtain ⟨flag, -⟩ := ok
  by_cases absent : c.loopFlag = 0
  · simp [RawCue.toCue, absent] at h
  · obtain rfl : (⟨c.back, c.count⟩ : Loop) = n := by simpa [RawCue.toCue, absent] using h
    exact ⟨by omega, rfl⟩

theorem LoopsApart.append_passed {dec : Decoder} {before : List Cue} {c : RawCue} (apart : LoopsApart before)
    (pass : cueRefusal dec before c = none) : LoopsApart (before ++ [c.toCue]) := by
  obtain ⟨-, loopOk, -, -, fits⟩ := passes_checks pass
  intro i k a b m n hik ha hb hm hn
  have hk : k < before.length + 1 := by simpa using (List.getElem?_eq_some_iff.1 hb).1
  rw [List.getElem?_append_left (by omega)] at ha
  obtain old | rfl : k < before.length ∨ k = before.length := by omega
  · rw [List.getElem?_append_left old] at hb
    exact apart i k a b m n hik ha hb hm hn
  · obtain rfl : c.toCue = b := by simpa using hb
    obtain ⟨flag, back⟩ := toCue_loop_eq_some loopOk hn
    have uncrossed := fits flag i a m ha hm
    omega

theorem checkCues_loopsApart (dec : Decoder) (before made : List Cue) (start : Nat) (raw : List RawCue)
    (apart : LoopsApart before) (h : checkCues dec before start raw = .accepted made) : LoopsApart made := by
  induction raw generalizing before start with
  | nil =>
    obtain rfl : before = made := by simpa [checkCues] using h
    exact apart
  | cons c rest ih =>
    cases hc : cueRefusal dec before c with
    | some code => simp [checkCues_cons_of_refused start rest hc] at h
    | none => exact ih _ _ (apart.append_passed hc) (checkCues_cons_of_passes start rest hc ▸ h)

/-- Settles O26: the outcomes of the checks on one cue, then two inductions over the cues of the order. -/
theorem cueListsAreChecked : Obligations.CueListsAreChecked :=
  ⟨cueRefusal_eq_iff,
    fun dec before raw =>
      ⟨checkCues_of_all_pass dec before 0 raw,
        fun k c code hc bad pass => by
          simpa using checkCues_of_first_refusal dec before 0 raw k c code hc bad pass⟩,
    fun dec before made raw apart h => checkCues_loopsApart dec before made 0 raw apart h⟩

end Sys2Proof.Machine
end

section
/-! SUPPORT. How the order reader takes a record (R12, R13), and the MARK order (R99). -/

namespace Sys2Proof.Machine

/-! ### Taking a record of the order log (R10 to R13) -/

/-- Each command of the order log is the taking of its record under its tag; no other command has a record. -/
theorem exec_eq_takeRecord {c : Instr} {tag : Word} {r : Record} (s : State) (h : orderOf c = some (tag, r)) :
    exec c s = .next (s.takeRecord tag r) := by
  cases c <;> cases h <;> rfl

namespace State.Readable

theorem takes_eq {s : State} {r : Record} {fill : Word} (h : s.Readable r) (hfill : s.region.scan = some fill) :
    s.region.takes = some fill := by
  obtain ⟨running, taking, ⟨fill', hscan, room⟩, -, -, -⟩ := h
  obtain rfl : fill' = fill := Option.some.inj (hscan.symm.trans hfill)
  have unread : fill' ≠ s.region.orderTaken := by
    rintro rfl
    simp at room
  simp [Region.takes, running, taking, hscan, unread]

theorem recordFault_eq_none {s : State} {r : Record} {fill : Word} (h : s.Readable r)
    (hfill : s.region.scan = some fill) : recordFault s.region fill r.len.toNat = none := by
  obtain ⟨-, -, ⟨fill', hscan, room⟩, whole, short, inLog⟩ := h
  obtain rfl : fill' = fill := Option.some.inj (hscan.symm.trans hfill)
  unfold recordFault logPosition
  rw [if_neg (by omega), if_neg (by omega), if_neg (by omega)]

end State.Readable

theorem passRecord_eq_afterRecord {s : State} {fill : Word} (r : Record) (hfill : s.region.scan = some fill) :
    s.passRecord fill r.len.toNat = s.afterRecord r := by
  simp only [State.afterRecord, hfill, Option.some.injEq, eq_comm (a := fill)]
  rfl

/-- A readable record on which the owner decides: its answer is raised, and the decision carried out. -/
theorem takeRecord_of_decision {s : State} {tag : Word} {r : Record} {d : Decision} (h : s.Readable r)
    (hd : decideRecord (s.afterRecord r) tag r.body = some d) :
    s.takeRecord tag r = (d.effect (s.answered tag r d.result d.value)).wakeAll := by
  obtain ⟨fill, hfill, -⟩ := h.scan
  unfold State.takeRecord
  simp only [h.takes_eq hfill, h.recordFault_eq_none hfill, passRecord_eq_afterRecord r hfill, hd]
  rfl

/-! ### What an answer and a change of a stream leave -/

@[simp] theorem answered_streams (s : State) (tag : Word) (r : Record) (code : Result) (v : Nat) :
    (s.answered tag r code v).streams = s.streams := by
  simp [State.answered, State.afterRecord]

@[simp] theorem answered_stream (s : State) (tag : Word) (r : Record) (code : Result) (v : Nat) (n : StreamId) :
    (s.answered tag r code v).stream n = s.stream n := by
  simp [State.stream]

@[simp] theorem answered_et (s : State) (tag : Word) (r : Record) (code : Result) (v : Nat) :
    (s.answered tag r code v).et = s.et := by
  simp [State.answered, State.afterRecord]

theorem State.Settled.answered {s : State} (h : s.Settled) (tag : Word) (r : Record) (code : Result) (v : Nat) :
    (s.answered tag r code v).Settled :=
  settled_of_streams h (by simp) (by simp)

/-- Whether a stream wakes rests on its window, its state and the end of its SLIP wait (R74, R75). -/
theorem State.Settled.setStream {s : State} (h : s.Settled) {n : StreamId} {x : Stream}
    (window : x.window = (s.stream n).window) (state : x.state = (s.stream n).state)
    (slip : x.slipEnd = (s.stream n).slipEnd) : (s.setStream n x).Settled := by
  intro k
  have asleep := h k
  by_cases hk : n = k
  · subst hk
    simpa [State.wakeable, State.inWait, Stream.unsent, Stream.sendingEntry, window, state, slip] using asleep
  · simpa [State.wakeable, State.inWait, State.setStream_stream_ne s x hk] using asleep

/-! ### The decision on a MARK (R99) -/

theorem nextSerial_eq (v : Word) : nextSerial v = if v = 4294967295 then 1 else v + 1 := by
  have wraps : v + 1 = 0 ↔ v = 4294967295 := by bv_omega
  simp only [nextSerial, wraps]

theorem markFieldsOk_iff (b : List Byte) :
    markFieldsOk b = true ↔
      u16 b 12 < 256 ∧ u32 b 16 ≤ 16777215 ∧ u8 b 7 ≤ 1 ∧ u8 b 8 ≤ 1 ∧ u8 b 9 ≤ 2 ∧ ¬ (u8 b 8 = 1 ∧ u8 b 7 = 1) ∧
        u8 b 10 ≤ 1 ∧ (u8 b 10 = 0 ∨ 1 ≤ u16 b 14) := by
  simp only [markFieldsOk, Bool.and_eq_true, Bool.or_eq_true, Bool.not_eq_true', Bool.eq_false_iff, ne_eq,
    decide_eq_true_eq, beq_iff_eq, and_assoc]

/-- The mark of a SET whose count flag is 0 or 1. -/
theorem markOf_eq {b : List Byte} (clip : Fin 256) (v : Word) (flag : u8 b 10 ≤ 1) :
    markOf b clip v =
      { serial := v, clip := clip, frame := u32 b 16, kind := if u8 b 7 = 0 then .shown else .fetched
        action := if u8 b 8 = 0 then .notify else .hold
        cond := if u8 b 9 = 0 then .any else if u8 b 9 = 1 then .forward else .reverse
        limit := if u8 b 10 = 1 then some (u16 b 14) else none, count := 0 } := by
  obtain uncounted | counted : u8 b 10 = 0 ∨ u8 b 10 = 1 := by omega
  · simp [markOf, uncounted]
  · simp [markOf, counted]

/-- Check 1 of R99. -/
theorem decideMark_of_noSlot {s : State} {b : List Byte} (h : 64 ≤ u8 b 4 ∨ 8 ≤ u8 b 5) :
    decideMark s b = refuse .badField :=
  dif_neg (by omega)

theorem decideMark_of_slot (s : State) {b : List Byte} {n : StreamId} {i : Fin 8} (hn : u8 b 4 = n.val)
    (hi : u8 b 5 = i.val) :
    decideMark s b =
      if 1 < u8 b 6 then refuse .badField
      else if (s.stream n).state = .closed then refuse .wrongState
      else decideSlot (s.stream n) n i b := by
  simp [decideMark, hn, hi]

theorem decideSlot_set {x : Stream} {b : List Byte} {k : Fin 256} (n : StreamId) (i : Fin 8) (op : u8 b 6 = 0)
    (hk : u16 b 12 = k.val) (ok : markFieldsOk b = true) :
    decideSlot x n i b =
      ⟨.ok, (nextSerial x.serial).toNat, fun s =>
        s.setStream n
          { (s.stream n).setMark i (some (markOf b k (nextSerial x.serial))) with serial := nextSerial x.serial }⟩ := by
  simp [decideSlot, op, hk, ok]

/-- Check 3 of R99. -/
theorem decideSlot_of_badFields {x : Stream} {b : List Byte} (n : StreamId) (i : Fin 8) (op : u8 b 6 = 0)
    (bad : markFieldsOk b ≠ true) : decideSlot x n i b = refuse .badField := by
  simp [decideSlot, op, bad]

theorem decideSlot_clear_of_full {x : Stream} {b : List Byte} (n : StreamId) {i : Fin 8} (op : u8 b 6 = 1)
    (full : x.marks[i] ≠ none) :
    decideSlot x n i b = ⟨.ok, 0, fun s => s.setStream n ((s.stream n).setMark i none)⟩ := by
  have filled : x.marks[i].isSome = true := Option.isSome_iff_ne_none.2 full
  rw [decideSlot, if_neg (by omega), if_pos filled]

theorem decideSlot_clear_of_empty {x : Stream} {b : List Byte} (n : StreamId) {i : Fin 8} (op : u8 b 6 = 1)
    (empty : x.marks[i] = none) : decideSlot x n i b = refuse .noSuch := by
  simp [decideSlot, op, empty]

/-! ### A MARK that is taken -/

namespace State.Takes

variable {s : State} {c : Instr} {r : Record}

theorem exec_mark (h : s.Takes c tagMARK r) (len : 24 ≤ r.body.length) {d : Decision}
    (hd : decideMark s r.body = d) : exec c s = .next (d.effect (s.answered tagMARK r d.result d.value)).wakeAll := by
  have decided : decideRecord (s.afterRecord r) tagMARK r.body = some d := by
    have kind : orderKind tagMARK = .mark := by decide
    have long : ¬ r.body.length < 24 := by omega
    subst hd
    simp only [decideRecord, kind, requiredLength, long, reduceCtorEq, if_false]
    rfl
  rw [exec_eq_takeRecord s h.order, takeRecord_of_decision h.readable decided]

/-- A refused MARK is answered, and nothing else happens. -/
theorem exec_mark_refused (h : s.Takes c tagMARK r) (len : 24 ≤ r.body.length) {code : Result}
    (hd : decideMark s r.body = refuse code) : exec c s = .next (s.answered tagMARK r code 0) := by
  rw [h.exec_mark len hd]
  exact congrArg _ (wakeAll_settled (h.settled.answered tagMARK r code 0))

/-- A MARK that changes its stream's marks and serial counter wakes no stream. -/
theorem exec_mark_done (h : s.Takes c tagMARK r) (len : 24 ≤ r.body.length) {n : StreamId} {value : Nat}
    {marks : Vector (Option Mark) 8} {serial : Word} {f : State → State} (hd : decideMark s r.body = ⟨.ok, value, f⟩)
    (hf : f (s.answered tagMARK r .ok value) =
      (s.answered tagMARK r .ok value).setStream n { s.stream n with marks := marks, serial := serial }) :
    exec c s =
      .next ((s.answered tagMARK r .ok value).setStream n { s.stream n with marks := marks, serial := serial }) := by
  have settled := h.settled.answered tagMARK r .ok value
  rw [h.exec_mark len hd]
  simp only [hf]
  rw [wakeAll_settled (settled.setStream (by simp) (by simp) (by simp))]

end State.Takes

/-- Settles O38: the decision of R99 in each case, carried out by the order reader. -/
theorem markOrders : Obligations.MarkOrders := by
  unfold Obligations.MarkOrders
  refine ⟨fun c r s n i h len hn hi opened => ?_, fun c r s h len => ⟨fun bad => ?_, fun n hn slot op_le => ?_⟩⟩
  · have decision := decideMark_of_slot s hn hi
    refine ⟨fun k op hk frame kind action cond hold flag count => ?_, fun op => ⟨fun full => ?_, fun empty => ?_⟩⟩
    · have fields : markFieldsOk r.body = true := (markFieldsOk_iff r.body).2 (by omega)
      rw [if_neg (by omega), if_neg opened, decideSlot_set n i op hk fields, nextSerial_eq, markOf_eq k _ flag]
        at decision
      exact h.exec_mark_done len decision (by simp [Stream.setMark])
    · rw [if_neg (by omega), if_neg opened, decideSlot_clear_of_full n op full] at decision
      exact h.exec_mark_done len (serial := (s.stream n).serial) decision (by simp [Stream.setMark])
    · rw [if_neg (by omega), if_neg opened, decideSlot_clear_of_empty n op empty] at decision
      exact h.exec_mark_refused len decision
  · refine h.exec_mark_refused len ?_
    by_cases slot : 64 ≤ u8 r.body 4 ∨ 8 ≤ u8 r.body 5
    · exact decideMark_of_noSlot slot
    · have decision := decideMark_of_slot s (n := ⟨u8 r.body 4, by omega⟩) (i := ⟨u8 r.body 5, by omega⟩) rfl rfl
      rwa [if_pos (by omega)] at decision
  · have decision := decideMark_of_slot s hn (i := ⟨u8 r.body 5, slot⟩) rfl
    rw [if_neg (by omega)] at decision
    refine ⟨fun closed => ?_, fun opened op bad => ?_⟩
    · rw [if_pos closed] at decision
      exact h.exec_mark_refused len decision
    · have refused : markFieldsOk r.body ≠ true := fun ok => by
        have fields := (markFieldsOk_iff r.body).1 ok
        omega
      rw [if_neg opened, decideSlot_of_badFields n _ op refused] at decision
      exact h.exec_mark_refused len decision

end Sys2Proof.Machine
end

section
/-! SUPPORT. What a command can do, as a path of moves: changes of the Region Interface alone, inner operations of the blocks
that keep every stream's port, rate and viewers, and the few changes that are neither. -/

namespace Sys2Proof.Machine

/-! ### The Region Interface and the ports -/

theorem Region.Near.sound {r q : Region} (h : r.Near q) (k : r.Sound) : q.Sound := by
  obtain ⟨ns, lost, marks, rfl, held, -, -, -⟩ := h
  exact ⟨held k.held, k.latch, k.timer, k.scan, k.waiting⟩

theorem State.raiseAt_near (s : State) (t : Time) (b : NoticeBody) : s.region.Near (s.raiseAt t b).region :=
  (Calm.raiseAt (A := fun _ => False) s t b).region

/-- The Region Interface acts, and nothing of the other blocks changes but what the transmitters are sending. -/
structure Outer (s t : State) : Prop where
  et : t.et = s.et
  pending : t.pending = s.pending
  tables : s.SameTables t
  up : ∀ p : Port, (t.port p).up = (s.port p).up
  allocated : ∀ p : Port, (t.port p).allocated = (s.port p).allocated
  sound : s.region.Sound → t.region.Sound
  silent : s.Silent → t.Silent

namespace Outer

theorem refl (s : State) : Outer s s := ⟨rfl, rfl, ⟨rfl, rfl, rfl, rfl, rfl⟩, fun _ => rfl, fun _ => rfl, id, id⟩

theorem trans {a b c : State} (h : Outer a b) (k : Outer b c) : Outer a c where
  et := k.et.trans h.et
  pending := k.pending.trans h.pending
  tables := by
    obtain ⟨h1, h2, h3, h4, h5⟩ := h.tables
    obtain ⟨k1, k2, k3, k4, k5⟩ := k.tables
    exact ⟨k1.trans h1, k2.trans h2, k3.trans h3, k4.trans h4, k5.trans h5⟩
  up p := (k.up p).trans (h.up p)
  allocated p := (k.allocated p).trans (h.allocated p)
  sound q := k.sound (h.sound q)
  silent q := k.silent (h.silent q)

theorem ite {c : Prop} [Decidable c] {s a b : State} (ha : c → Outer s a) (hb : ¬ c → Outer s b) :
    Outer s (if c then a else b) := by
  split
  · exact ha ‹_›
  · exact hb ‹_›

theorem setRegion (s : State) (r : Region) (sound : s.region.Sound → r.Sound)
    (halted : r.engine = .halted → s.region.engine = .halted := by exact fun h => h) : Outer s (s.setRegion r) where
  et := rfl
  pending := rfl
  tables := ⟨rfl, rfl, rfl, rfl, rfl⟩
  up p := by cases p <;> rfl
  allocated p := by cases p <;> rfl
  sound := sound
  silent h p hp := by
    have quiet : (s.port p).transmitting = none :=
      h p (hp.imp (by cases p <;> exact id) fun e => by simpa [State.halted] using halted (by simpa [State.halted] using e))
    cases p <;> exact quiet

theorem emit (s : State) (o : Output) : Outer s (s.emit o) :=
  ⟨rfl, rfl, ⟨rfl, rfl, rfl, rfl, rfl⟩, fun _ => rfl, fun _ => rfl, id, id⟩

theorem hostWrite (s : State) (a : Nat) (b : List Byte) : Outer s (s.hostWrite a b) := emit s _

theorem hostWrites (s : State) (l : List (Nat × List Byte)) : Outer s (s.hostWrites l) := by
  induction l generalizing s with
  | nil => exact refl s
  | cons w rest ih => exact (hostWrite s _ _).trans (ih _)

theorem raiseAt (s : State) (t : Time) (b : NoticeBody) : Outer s (s.raiseAt t b) where
  et := by simp
  pending := by simp
  tables := ⟨by simp, by simp, by simp, by simp, by simp⟩
  up p := by cases p <;> simp [State.port]
  allocated p := by cases p <;> simp [State.port]
  sound := (s.raiseAt_near t b).sound
  silent := (Calm.raiseAt (A := fun _ => False) s t b).silent

theorem raise (s : State) (b : NoticeBody) : Outer s (s.raise b) := raiseAt s s.et b

theorem setPort (s : State) (p : Port) (x : PortState) (up : x.up = (s.port p).up)
    (allocated : x.allocated = (s.port p).allocated) (idle : x.transmitting = none) : Outer s (s.setPort p x) where
  et := by simp
  pending := by simp
  tables := ⟨by simp, by simp, by simp, by simp, by cases p <;> rfl⟩
  up q := by
    by_cases h : p = q
    · subst h; simpa using up
    · rw [State.setPort_port_ne s x h]
  allocated q := by
    by_cases h : p = q
    · subst h; simpa using allocated
    · rw [State.setPort_port_ne s x h]
  sound := by simp
  silent h q hq := by
    have engine : (s.setPort p x).halted = s.halted := by simp [State.halted]
    rw [engine] at hq
    by_cases hp : p = q
    · subst hp; simpa using idle
    · rw [State.setPort_port_ne s x hp] at hq ⊢
      exact h q hq

theorem cutTransmission (s : State) (p : Port) : Outer s (s.cutTransmission p) :=
  ite (fun _ => (setPort s p { s.port p with transmitting := none } rfl rfl rfl).trans (emit _ _)) fun _ => refl s

theorem cutBoth (s : State) : Outer s s.cutBoth := (cutTransmission s .e0).trans (cutTransmission _ .e1)

end Outer

@[simp] theorem State.setRegion_port (s : State) (r : Region) (p : Port) : (s.setRegion r).port p = s.port p := by
  cases p <;> rfl

@[simp] theorem State.emit_port (s : State) (o : Output) (p : Port) : (s.emit o).port p = s.port p := by
  cases p <;> rfl

theorem State.cutTransmission_idle (s : State) (p : Port) : ((s.cutTransmission p).port p).transmitting = none := by
  unfold State.cutTransmission
  split
  · simp
  · next h => simpa using h

theorem State.cutTransmission_port_ne (s : State) {p q : Port} (h : p ≠ q) :
    (s.cutTransmission p).port q = s.port q := by
  unfold State.cutTransmission
  split
  · simp [State.setPort_port_ne s _ h]
  · rfl

/-- Both transmitters are idle once the messages being sent have been cut short (R154). -/
theorem State.cutBoth_idle (s : State) (p : Port) : (s.cutBoth.port p).transmitting = none := by
  cases p with
  | e0 =>
    unfold State.cutBoth
    rw [State.cutTransmission_port_ne _ (by decide)]
    exact s.cutTransmission_idle .e0
  | e1 => exact (s.cutTransmission .e0).cutTransmission_idle .e1

@[simp] theorem State.cutTransmission_region (s : State) (p : Port) : (s.cutTransmission p).region = s.region := by
  unfold State.cutTransmission
  split <;> simp

@[simp] theorem State.cutBoth_region (s : State) : s.cutBoth.region = s.region := by simp [State.cutBoth]

namespace Outer

/-- HALTED is entered with the latch set only (R20). -/
theorem halt (s : State) (latch : s.region.faultLatch = true) : Outer s s.halt := by
  have cut := cutBoth (s.setRegion { s.region with engine := .halted, timer := none, scan := none })
  refine ⟨cut.et, cut.pending, cut.tables, fun p => (cut.up p).trans (by simp), fun p => (cut.allocated p).trans (by simp),
    fun h => ?_, fun _ p _ => State.cutBoth_idle _ p⟩
  simp only [State.halt, State.cutBoth_region, State.setRegion_region]
  exact ⟨h.held, fun _ => latch, by simp, by simp, by simp⟩

/-- Intake is BLOCKED, and no scan is in progress (R11, R19). -/
theorem blocked (s : State) : Outer s (s.setRegion { s.region with intake := .blocked, scan := none }) :=
  setRegion s _ fun h => ⟨h.held, h.latch, h.timer, by simp, h.waiting⟩

theorem giveUp (s : State) (a : Access) : Outer s (s.setRegion (s.region.giveUp a)) := by
  cases a with
  | orderFillRead => exact blocked s
  | orderRecordRead => exact blocked s
  | orderTakenWrite => exact blocked s
  | noticeWrite => exact setRegion s _ fun h => ⟨h.held, h.latch, h.timer, h.scan, h.waiting⟩
  | noticeFillWrite => exact setRegion s _ fun h => ⟨h.held, h.latch, h.timer, h.scan, h.waiting⟩
  | noticeTakenRead => exact refl s
  | statusWrite => exact refl s

theorem latched (s : State) : Outer s (s.setRegion { s.region with faultLatch := true }) :=
  setRegion s _ fun h => ⟨h.held, fun _ => rfl, h.timer, h.scan, h.waiting⟩

theorem hostFault (s : State) (a : Access) (o : Nat) : Outer s (s.hostFault a o) :=
  ite (halt s) fun _ => ((latched s).trans (raise _ _)).trans (giveUp _ _)

theorem structuralFault (s : State) (k : Nat) : Outer s (s.structuralFault k) :=
  (blocked s).trans (raise _ _)

theorem readTaken (s : State) (c : CountRead) : Outer s (s.readTaken c) := by
  cases c with
  | failed => exact hostFault s _ _
  | value v => exact ite (fun _ => setRegion s _ fun h => ⟨h.held, h.latch, h.timer, h.scan, h.waiting⟩) fun _ => refl s

theorem scanPass (s : State) (taken fill : CountRead) : Outer s (s.scanPass taken fill) := by
  refine (readTaken s taken).trans (ite (fun open_ => ?_) fun _ => refl _)
  cases fill with
  | failed => exact hostFault _ _ _
  | value f =>
    refine ite (fun _ => structuralFault _ _) fun _ => ite (fun _ => structuralFault _ _) fun _ =>
      ite (fun _ => refl _) fun _ => ?_
    exact setRegion _ _ fun h => ⟨h.held, h.latch, h.timer, fun _ => open_, h.waiting⟩

theorem startScan (s : State) (taken fill : CountRead) : Outer s (s.startScan taken fill) := by
  unfold State.startScan
  split
  · exact scanPass s taken fill
  · exact setRegion s _ fun h => ⟨h.held, h.latch, h.timer, h.scan, h.waiting⟩

theorem popNotices (s : State) (k : Nat) : Outer s (s.popNotices k) :=
  setRegion s _ fun h =>
    ⟨by rw [List.length_drop]; exact (Nat.sub_le _ _).trans h.held, h.latch, h.timer, h.scan, h.waiting⟩

theorem headerFault (s : State) : Outer s s.headerFault :=
  ite (halt s) fun _ => latched s

theorem batchLoop (k : Nat) (w : Writer) : Outer w.state (batchLoop k w).state := by
  have seek : ∀ (w : Writer) (n : Nat), Outer w.state (w.seekRoom n).state := fun w n => by
    unfold Writer.seekRoom
    split
    · exact refl _
    · split
      · exact refl _
      · exact readTaken _ _
  induction k generalizing w with
  | zero => exact refl _
  | succ k ih =>
    unfold Machine.batchLoop
    split
    · exact refl _
    · next n _ _ =>
      refine (seek w n.size).trans ?_
      generalize w.seekRoom n.size = w
      dsimp only
      split
      · exact refl _
      · split
        · split
          · exact ((popNotices _ _).trans (hostWrites _ _)).trans (hostFault _ _ _)
          · exact ((popNotices _ _).trans (hostWrites _ _)).trans (ih (w.write n))
        · refine Outer.trans ?_ (ih _)
          refine (popNotices _ _).trans (setRegion _ _ ?_)
          exact fun h => ⟨h.held, h.latch, h.timer, h.scan, h.waiting⟩

theorem writeBatch (s : State) (reads : List CountRead) (failAt : Option Nat) : Outer s (s.writeBatch reads failAt) := by
  refine ite (fun _ => refl s) fun _ => ?_
  refine (batchLoop s.region.writable ⟨s, s.region.noticeFill, reads, failAt, [], false⟩).trans ?_
  dsimp only
  split
  · exact refl _
  · exact setRegion _ _ fun h => ⟨h.held, h.latch, h.timer, h.scan, h.waiting⟩

theorem signalIf (s : State) (b : Bool) : Outer s (s.signalIf b) := ite (fun _ => emit s _) fun _ => refl s

theorem advanceFill (s : State) (w : WriteResult) : Outer s (s.advanceFill w) := by
  refine ite (fun _ => refl s) fun _ => ?_
  split
  · exact refl s
  · have covered : ∀ v, Outer s (s.setRegion { s.region with noticeFill := v, batch := none }) := fun v =>
      setRegion s _ fun h => ⟨h.held, h.latch, h.timer, h.scan, h.waiting⟩
    cases w with
    | failed => exact (covered s.region.noticeFill).trans (hostFault _ _ _)
    | ok => exact ((covered _).trans (hostWrite _ _ _)).trans (signalIf _ _)

theorem writeMirror (s : State) (failAt : Option (Fin 3)) : Outer s (s.writeMirror failAt) := by
  unfold State.writeMirror
  split
  · exact refl s
  · dsimp only
    have served : ∀ marks stops counts, Outer s (s.setRegion { s.region with
        marks := marks, stopMarks := stops, changeCounts := counts }) := fun _ _ _ =>
      setRegion s _ fun h => ⟨h.held, h.latch, h.timer, h.scan, h.waiting⟩
    split
    · exact (served _ _ _).trans (hostWrites _ _)
    · exact ((served _ _ _).trans (hostWrites _ _)).trans (hostFault _ _ _)

theorem accessFails (s : State) (a : Access) (o : Word) : Outer s (s.accessFails a o) := by
  cases a with
  | noticeWrite => exact (ite (fun _ => refl s) fun _ => popNotices s _).trans (hostFault _ _ _)
  | statusWrite =>
    unfold State.accessFails
    dsimp only
    split
    · exact hostFault _ _ _
    · exact writeMirror _ _
  | _ => exact hostFault s _ _

theorem passRecord (s : State) (fill : Word) (len : Nat) (takes : s.region.takes = some fill) :
    Outer s (s.passRecord fill len) := by
  have reading : s.region.engine = .running ∧ s.region.intake = .taking := by
    unfold Region.takes at takes
    split at takes
    · assumption
    · cases takes
  refine .trans (setRegion s _ ?_) (hostWrite _ _ _)
  exact fun h => ⟨h.held, h.latch, h.timer, fun _ => reading, h.waiting⟩

end Outer

end Sys2Proof.Machine
end

section
/-! SUPPORT. What the inner operations leave of every stream: its port, its rate, its viewers, and whether it is open. -/

namespace Sys2Proof.Machine

/-- Stream `n` is open (R38). -/
def State.Opened (s : State) (n : StreamId) : Prop := (s.stream n).state ≠ .closed

/-- Two records of a stream agree in what admission rests on: port, rate, viewers, and whether the stream is open. -/
structure Stream.Tied (x y : Stream) : Prop where
  port : y.port = x.port
  egress : y.egress = x.egress
  viewers : y.viewers = x.viewers
  closed : y.state = .closed ↔ x.state = .closed

theorem Stream.Tied.refl (x : Stream) : x.Tied x := ⟨rfl, rfl, rfl, .rfl⟩

theorem Stream.Tied.trans {x y z : Stream} (h : x.Tied y) (k : y.Tied z) : x.Tied z :=
  ⟨k.port.trans h.port, k.egress.trans h.egress, k.viewers.trans h.viewers, k.closed.trans h.closed⟩

theorem Stream.Like.tied {x y : Stream} (h : x.Like y) : x.Tied y := by
  rw [h.1]
  exact ⟨rfl, rfl, rfl, .rfl⟩

/-- An operation keeps what the ports have promised: every stream stays tied to what it was, allocated rates are the same,
and a CLOSED stream gets no presentation. -/
structure Tied (s t : State) : Prop where
  streams : ∀ n, (s.stream n).Tied (t.stream n)
  quiet : ∀ n, ¬ s.Opened n → s.presentation n = none → t.presentation n = none
  same : ∀ p : Port, (t.port p).allocated = (s.port p).allocated

/-- The tags that the end of a presentation evaluates: those of a FRAME that was not INTERRUPTED (R96, R101). -/
def Entry.tagsAtEnd (e : Entry) (interrupted : Bool) : List Tag :=
  match e.sentAs with
  | some (.frame ..) => if interrupted then [] else e.tags
  | _ => []

/-- The end of a presentation once its marks have been evaluated: the entry leaves the window, its consequences follow, and
projection goes on (R96). `fired` is the HOLD mark that fired. -/
def State.leave (s : State) (n : StreamId) (e : Entry) (fired : Option (Fin 8)) : State :=
  let s := s.setStream n { s.stream n with window := (s.stream n).window.filter fun y => y.stage != .sending }
  let s := match e.ref with | some d => s.release d | none => s
  let s := (s.consequences n e).holdByMark n e fired
  ((s.project n).projectLocateIfDue n).markMirror n

theorem State.finish_idle {s : State} {n : StreamId} (i : Bool) (h : (s.stream n).sendingEntry = none) :
    s.finish n i = s := by
  unfold State.finish
  rw [h]

theorem State.finish_sending {s : State} {n : StreamId} {e : Entry} (i : Bool) (h : (s.stream n).sendingEntry = some e) :
    s.finish n i = ((e.tagsAtEnd i).foldl (State.evalTag n e) (s.setShown n e)).leave n e
      (((s.setShown n e).stream n).holdFired (e.tagsAtEnd i)) := by
  unfold State.finish
  rw [h]
  rfl

namespace Tied

theorem refl (s : State) : Tied s s := ⟨fun _ => .refl _, fun _ _ h => h, fun _ => rfl⟩

theorem opened {s t : State} (h : Tied s t) {n : StreamId} (o : s.Opened n) : t.Opened n :=
  fun e => o ((h.streams n).closed.1 e)

theorem trans {a b c : State} (h : Tied a b) (k : Tied b c) : Tied a c where
  streams n := (h.streams n).trans (k.streams n)
  quiet n o q := k.quiet n (fun p => p ((h.streams n).closed.2 (not_not.1 o))) (h.quiet n o q)
  same p := (k.same p).trans (h.same p)

theorem ite {c : Prop} [Decidable c] {s a b : State} (ha : Tied s a) (hb : Tied s b) : Tied s (if c then a else b) := by
  split <;> assumption

/-- An inner operation that concerns no stream. -/
theorem ofCalm {s t : State} (h : Calm (fun _ => False) s t) : Tied s t :=
  ⟨fun n => (h.others n id).tied, fun n _ => h.quiet n id, h.same⟩

theorem foldl {α : Type} {f : State → α → State} (h : ∀ s x, Tied s (f s x)) (l : List α) (s : State) :
    Tied s (l.foldl f s) := by
  induction l generalizing s with
  | nil => exact refl s
  | cons x rest ih => exact (h s x).trans (ih _)

theorem setStream (s : State) (n : StreamId) (x : Stream) (h : (s.stream n).Tied x := by exact ⟨rfl, rfl, rfl, .rfl⟩) :
    Tied s (s.setStream n x) where
  streams k := by
    by_cases e : n = k
    · subst e; rwa [State.setStream_stream]
    · rw [State.setStream_stream_ne s x e]
      exact .refl _
  quiet _ _ q := q
  same p := by cases p <;> rfl

/-- An open stream enters another open state. -/
theorem setState (s : State) (n : StreamId) (x : Stream) (o : s.Opened n)
    (h : (x.port, x.egress, x.viewers) = ((s.stream n).port, (s.stream n).egress, (s.stream n).viewers) ∧ x.state ≠ .closed :=
      by exact ⟨rfl, by simp⟩) : Tied s (s.setStream n x) := by
  obtain ⟨same, state⟩ := h
  simp only [Prod.mk.injEq] at same
  exact setStream s n x ⟨same.1, same.2.1, same.2.2, iff_of_false state o⟩

/-- The presentation record of an open stream replaced, or any dropped. -/
theorem setPresentation (s : State) (n : StreamId) (x : Option Presentation) (h : x = none ∨ s.Opened n) :
    Tied s (s.setPresentation n x) where
  streams _ := .refl _
  quiet k o q := by
    by_cases e : n = k
    · subst e
      rw [State.setPresentation_presentation]
      exact h.resolve_right o
    · rwa [State.setPresentation_presentation_ne s x e]
  same p := by cases p <;> rfl

/-! ### Windows -/

theorem setWindow (s : State) (n : StreamId) (w : List Entry) : Tied s (s.setStream n { s.stream n with window := w }) :=
  setStream s n _

theorem changeEntry (s : State) (n : StreamId) (w : Word) (f : Entry → Entry) : Tied s (s.changeEntry n w f) :=
  setStream s n _

theorem ask (s : State) (n : StreamId) (e : Entry) : Tied s (s.ask n e) := by
  unfold State.ask
  split
  · split
    · exact (changeEntry s n _ _).trans (ofCalm (Calm.hit _ _ _ _))
    · exact ofCalm (Calm.addWaiter s _)
  · exact refl s

theorem projectLoop (n : StreamId) (fuel : Nat) (s : State) : Tied s (projectLoop n fuel s) := by
  induction fuel generalizing s with
  | zero => exact refl s
  | succ fuel ih =>
    unfold Machine.projectLoop
    exact ite (((setStream s n _).trans (ask _ n _)).trans (ih _)) (refl s)

theorem project (s : State) (n : StreamId) : Tied s (s.project n) := projectLoop n 16 s

theorem projectLocateIfDue (s : State) (n : StreamId) : Tied s (s.projectLocateIfDue n) := by
  unfold State.projectLocateIfDue
  dsimp only
  split
  · exact refl s
  · refine ite ?_ (refl s)
    unfold State.projectLocate
    dsimp only
    split
    · exact refl s
    · exact (setStream s n _).trans (ask _ n _)

theorem discard (s : State) (n : StreamId) : Tied s (s.discard n) :=
  (setStream s n _).trans (foldl (fun s e => ofCalm (Calm.giveBack n s e)) _ _)

theorem unmarkSending (s : State) (n : StreamId) : Tied s (s.unmarkSending n) := setStream s n _

theorem retime (s : State) (n : StreamId) (w : List Entry) : Tied s (s.retime n w) :=
  (setStream s n _).trans (foldl (fun s e => ofCalm (Calm.reportEntry n s e)) _ _)

theorem hold (s : State) (n : StreamId) (t : Option Time) (r : Bool) (o : s.Opened n) : Tied s (s.hold n t r) :=
  (setState s n _ o).trans (retime _ n _)

theorem releaseHold (s : State) (n : StreamId) (a : Time) (o : s.Opened n) : Tied s (s.releaseHold n a) :=
  ((setState s n _ o).trans (retime _ n _)).trans (project _ n)

/-! ### Streams -/

theorem handOver (s : State) (n : StreamId) (e : Entry) (a : SentAs) (o : s.Opened n) : Tied s (s.handOver n e a) := by
  have begun : Tied s (s.setStream n ((s.stream n).begun e a)) := setStream s n _
  have given := begun.trans (ite (c := isSubstitute e a) (ofCalm (Calm.giveBack n _ e)) (refl _))
  exact (given.trans (setPresentation _ n _ (.inr (given.opened o)))).trans (ofCalm (Calm.transmit _ _))

theorem setShown (s : State) (n : StreamId) (e : Entry) : Tied s (s.setShown n e) := by
  unfold State.setShown
  split
  · exact setStream s n _
  · exact (setStream s n _).trans (ofCalm (Calm.draw _))

theorem evalTag (n : StreamId) (e : Entry) (s : State) (t : Tag) : Tied s (s.evalTag n e t) := by
  unfold State.evalTag
  split
  · exact ite ((setStream s n _).trans (ite (ofCalm (Calm.raise _ _)) (refl _))) (refl s)
  · exact refl s

theorem evalFetched (n : StreamId) (k : FrameKey) (d : Direction) (w : Word) (s : State) (i : Fin 8) :
    Tied s (s.evalFetched n k d w i) := by
  unfold State.evalFetched
  split
  · exact ite ((setStream s n _).trans (ite (ofCalm (Calm.raise _ _)) (refl _))) (refl s)
  · exact refl s

theorem fetchedMarks (s : State) (n : StreamId) (k : FrameKey) (d : Direction) (w : Word) :
    Tied s (s.fetchedMarks n k d w) := foldl (evalFetched n k d w) _ s

theorem parkAtEnd (s : State) (n : StreamId) (e : Entry) (w : ListEnd) (o : s.Opened n) :
    Tied s (s.parkAtEnd n e w) := by
  have parked := (setState s n { s.stream n with
    state := .parked, speed := 0, shown := false, slipEnd := none, releaseTime := none, releaseResume := false } o).trans
      (discard _ n)
  unfold State.parkAtEnd
  dsimp only
  split
  · exact parked.trans (ofCalm (Calm.raise _ _))
  · exact parked.trans (ofCalm ((Calm.raise _ _).trans (Calm.draw _)))

theorem finishLocate (s : State) (n : StreamId) (e : Entry) (l : Locate) (o : s.Opened n) :
    Tied s (s.finishLocate n e l) := by
  have told : Tied s (s.raise (.locd l.ref n e.locateResult l.cue l.offset)) := ofCalm (Calm.raise s _)
  refine told.trans ?_
  unfold State.finishLocate
  dsimp only
  split
  · exact setState _ n _ (told.opened o) ⟨rfl, by simp [Stream.runFromLocate]⟩
  · exact setState _ n _ (told.opened o)

theorem consequences (s : State) (n : StreamId) (e : Entry) (o : s.Opened n) : Tied s (s.consequences n e) := by
  unfold State.consequences
  split
  · exact parkAtEnd s n e _ o
  · split
    · exact ite (finishLocate s n e _ o) (refl s)
    · exact refl s

theorem holdByMark (s : State) (n : StreamId) (e : Entry) (f : Option (Fin 8)) (o : s.Opened n) :
    Tied s (s.holdByMark n e f) := by
  unfold State.holdByMark
  split
  · exact refl s
  · exact ite ((hold s n none true o).trans (ofCalm (Calm.raise _ _))) (refl s)

theorem leave (s : State) (n : StreamId) (e : Entry) (f : Option (Fin 8)) (o : s.Opened n) : Tied s (s.leave n e f) := by
  have freed := (setWindow s n ((s.stream n).window.filter fun y => y.stage != .sending)).trans
    (ofCalm (Calm.releaseRef _ e.ref))
  have moved := freed.trans (consequences _ n e (freed.opened o))
  have held := moved.trans (holdByMark _ n e f (moved.opened o))
  exact ((held.trans (project _ n)).trans (projectLocateIfDue _ n)).trans (ofCalm (Calm.markMirror _ n))

theorem finish (s : State) (n : StreamId) (i : Bool) (o : s.Opened n) : Tied s (s.finish n i) := by
  cases h : (s.stream n).sendingEntry with
  | none =>
    rw [State.finish_idle i h]
    exact refl s
  | some e =>
    rw [State.finish_sending i h]
    have shown := (setShown s n e).trans (foldl (evalTag n e) (e.tagsAtEnd i) _)
    exact shown.trans (leave _ n e _ (shown.opened o))

theorem endPresentation (s : State) (n : StreamId) (i : Bool) (o : s.Opened n) : Tied s (s.endPresentation n i) :=
  (setPresentation s n none (.inl rfl)).trans (finish _ n i o)

theorem begin (s : State) (n : StreamId) (e : Entry) (a : SentAs) (o : s.Opened n) : Tied s (s.begin n e a) :=
  (handOver s n e a o).trans (ite (refl _) (endPresentation _ n true ((handOver s n e a o).opened o)))

theorem applyLate (s : State) (n : StreamId) (e : Entry) (l : LateOutcome) (w : Time) : Tied s (s.applyLate n e l w) := by
  refine (setStream s n { s.stream n with lateCount := (s.stream n).lateCount + 1 }).trans ?_
  unfold State.applyLate
  dsimp only
  split
  · exact ofCalm (Calm.raise _ _)
  · exact refl _

theorem shift (s : State) (n : StreamId) (e : Entry) (t : Time) : Tied s (s.shift n e t) :=
  (setStream s n _).trans (retime _ n _)

theorem lateBegin (s : State) (n : StreamId) (e : Entry) (l : LateOutcome) (w : Time) (a : SentAs) (o : s.Opened n) :
    Tied s ((s.applyLate n e l w).begin n e a) :=
  (applyLate s n e l w).trans (begin _ n e a ((applyLate s n e l w).opened o))

theorem latePolicy (s : State) (n : StreamId) (e : Entry) (o : s.Opened n) : Tied s (s.latePolicy n e) := by
  unfold State.latePolicy
  dsimp only
  split
  · split
    · exact ite (lateBegin s n e _ _ _ o) (setStream s n _)
    · exact lateBegin s n e _ _ _ o
  · exact begin s n e _ o

theorem turn (s : State) (n : StreamId) (e : Entry) (o : s.Opened n) : Tied s (s.turn n e) := by
  unfold State.turn
  split
  · exact begin s n e _ o
  · exact begin s n e _ o
  · exact latePolicy s n e o

theorem turnIfDue (s : State) (n : StreamId) : Tied s (s.turnIfDue n) := by
  unfold State.turnIfDue
  split
  · exact refl s
  · next e due =>
    refine turn s n e fun closed => ?_
    simp [State.dueEntry, closed] at due

theorem endWait (s : State) (n : StreamId) (e : Entry) (o : s.Opened n) : Tied s (s.endWait n e) := by
  unfold State.endWait
  have shifted := (applyLate s n e .frameAfterWait (s.et - e.deliver)).trans (shift _ n e s.et)
  exact ite (lateBegin s n e _ _ _ o) (shifted.trans (begin _ n _ _ (shifted.opened o)))

theorem wake (s : State) (n : StreamId) (e : Entry) (o : s.Opened n) : Tied s (s.wake n e) := by
  unfold State.wake
  exact ite (begin s n _ _ o) (endWait s n e o)

/-- A stream that is about to begin sending is open. -/
theorem opened_of_wakeable {s : State} {n : StreamId} {e : Entry} (h : s.wakeable n = some e) : s.Opened n := by
  intro closed
  unfold State.wakeable at h
  dsimp only at h
  split at h
  · cases h
  · simp [closed, State.inWait] at h

theorem wakeAll (s : State) : Tied s s.wakeAll := by
  unfold State.wakeAll
  generalize 256 = fuel
  induction fuel generalizing s with
  | zero => exact refl s
  | succ fuel ih =>
    unfold wakeLoop
    split
    · exact refl s
    · next b hb =>
      obtain ⟨n, -, hn⟩ := List.exists_of_findSome?_eq_some hb
      obtain ⟨e, he, rfl⟩ : ∃ e, s.wakeable n = some e ∧ (n, e) = b := by simpa using hn
      exact (wake s n e (opened_of_wakeable he)).trans (ih _)

theorem startRun (s : State) (n : StreamId) (v : Int) (a : Time) (o : s.Opened n) : Tied s (s.startRun n v a) := by
  have kept := (discard s n).trans (unmarkSending _ n)
  exact (kept.trans (setState _ n _ (kept.opened o))).trans (project _ n)

theorem completeIfDone (s : State) (n : StreamId) (o : s.Opened n) : Tied s (s.completeIfDone n) :=
  ite ((endPresentation s n false o).trans (turnIfDue _ n)) (refl s)

theorem interrupt (p : Port) (s : State) (n : StreamId) : Tied s (s.interrupt p n) := by
  unfold State.interrupt
  dsimp only
  split
  · exact refl s
  · next h =>
    have o : s.Opened n := fun closed => h (.inl closed)
    refine ite (endPresentation s n true o) ?_
    split
    · exact begin s n _ _ o
    · exact refl s

/-! ### Allocation -/

theorem answer (s : State) (n : StreamId) (w : Word) (g : Stage) (d : Nat) : Tied s (s.answer n w g d) :=
  changeEntry s n w _

theorem answerHit (s : State) (n : StreamId) (w : Word) (d : Deadline) (c : Cls) (e : DirEntry) :
    Tied s (s.answerHit n w d c e) :=
  ((ofCalm (Calm.removeWaiters s _)).trans (answer _ n w _ _)).trans (ofCalm (Calm.hit _ e d c))

theorem answerSameKey (s : State) (k : FrameKey) : Tied s (s.answerSameKey k) := by
  refine foldl (fun s w => ?_) _ s
  split
  · split
    · split
      · exact answerHit s _ _ _ _ _
      · exact refl s
    · exact refl s
  · exact refl s

theorem addEntry (s : State) (e : DirEntry) : Tied s (s.addEntry e) := ofCalm (Calm.setBuffer s _)

theorem allocated (s : State) (n : StreamId) (w : Word) (e : DirEntry) : Tied s (s.allocated n w e) :=
  (((addEntry s e).trans (answer _ n w _ _)).trans (fetchedMarks _ n _ _ _)).trans (answerSameKey _ _)

theorem serveRequest (s : State) (n : StreamId) (w : Word) (k : FrameKey) (d : Deadline) (c : Cls) :
    Tied s (s.serveRequest n w k d c) := by
  have base : ∀ x t, Tied s ((s.removeWaiters fun y => y.isRequest n w).reclaimFor x t) := fun x t =>
    ofCalm ((Calm.removeWaiters s _).trans (Calm.reclaimFor _ x t))
  unfold State.serveRequest
  dsimp only
  split
  · exact (base _ _).trans ((allocated _ n w _).trans (ofCalm (Calm.produce _ _ _)))
  · exact (base _ _).trans ((ofCalm (Calm.setHold _ _)).trans (allocated _ n w _))
  · exact (base _ _).trans (((addEntry _ _).trans (ofCalm (Calm.raise _ _))).trans (answer _ n w _ _))

theorem consider (p : Pass) (w : Waiter) : Tied p.state (p.consider w).state := by
  unfold Pass.consider
  split
  · exact refl _
  · split
    · unfold Pass.request
      dsimp only
      split
      · exact answerHit _ _ _ _ _ _
      · split
        · exact refl _
        · split
          · exact serveRequest _ _ _ _ _ _
          · split <;> exact refl _
    · unfold Pass.frame
      dsimp only
      split
      · exact ofCalm ((Calm.removeWaiters _ _).trans (Calm.produce _ _ _))
      · exact refl _

theorem passLoop (fuel : Nat) (p : Pass) : Tied p.state (passLoop fuel p).state := by
  induction fuel generalizing p with
  | zero => exact refl _
  | succ fuel ih =>
    unfold Machine.passLoop
    split
    · exact refl _
    · exact (consider p _).trans (ih _)

theorem answerWaiting (s : State) (w : Waiter) : Tied s (s.answerWaiting w) := by
  unfold State.answerWaiting
  split
  · exact changeEntry s _ _ _
  · exact refl s

theorem servicePass (s : State) : Tied s s.servicePass :=
  ((ofCalm (Calm.setBuffer s { s.buffer with passWanted := false })).trans
    (passLoop _ ⟨_, false, false, []⟩)).trans (foldl answerWaiting _ _)

end Tied

end Sys2Proof.Machine
end

section
/-! SUPPORT. Moves: the kinds of change that commands are made of, and what each keeps of the machine's invariants. -/

namespace Sys2Proof.Machine

namespace Tied

theorem setMember (s : State) (m : MemberId) (x : Member) : Tied s (s.setMember m x) :=
  ⟨fun _ => .refl _, fun _ _ h => h, fun p => by cases p <;> rfl⟩

theorem setLink (s : State) (m : MemberId) (l : Link) : Tied s (s.setLink m l) := setMember s m _

theorem dropLink (s : State) (m : MemberId) (k : DropCause) : Tied s (s.dropLink m k) :=
  ((((setLink s m _).trans (foldl (fun s t => ofCalm (Calm.loseTag m s t)) _ _)).trans (setMember _ _ _)).trans
    (ofCalm (Calm.failQueue _ _ _))).trans (ofCalm (Calm.raise _ _))

theorem stallTest (s : State) (m : MemberId) : Tied s (s.stallTest m) := by
  unfold State.stallTest
  dsimp only
  split
  · exact ite ((setLink s m _).trans (ofCalm ((Calm.raise _ _).trans (Calm.failQueue _ _ _)))) (refl s)
  · exact ite ((setLink s m _).trans (ofCalm ((Calm.raise _ _).trans (Calm.opportunity _ _)))) (refl s)
  · exact refl s

end Tied

/-! ### Rates and viewers -/

/-- What stream record `x` holds of port `p`'s rate: E times its unmuted viewers, if it is open and sends on `p` (R145). -/
def Stream.share (x : Stream) (p : Port) : Nat := if x.state ≠ .closed ∧ x.port = p then x.egress * x.unmuted else 0

theorem Stream.unmuted_eq (x : Stream) :
    x.unmuted = (List.finRange 8).countP fun i => x.viewers[i].any fun v => !v.muted := by
  rw [List.countP_eq_length_filter]
  unfold Stream.unmuted allSlots
  congr 1
  refine List.filter_congr fun i _ => ?_
  cases x.viewers[i] <;> rfl

theorem Stream.Tied.share {x y : Stream} (h : x.Tied y) (p : Port) : y.share p = x.share p := by
  have count : y.unmuted = x.unmuted := by simp only [Stream.unmuted_eq, h.viewers]
  simp only [Stream.share, ne_eq, h.port, h.egress, h.closed, count]

/-- A CLOSED stream has no presentation record (R60, R150). -/
def State.Quiet (s : State) : Prop := ∀ n : StreamId, ¬ s.Opened n → s.presentation n = none

theorem State.admitted_iff (s : State) :
    s.Admitted ↔ (∀ p : Port, (s.port p).allocated = ∑ n : StreamId, (s.stream n).share p) ∧ s.Quiet := by
  constructor
  · rintro ⟨rates, closed⟩
    refine ⟨fun p => ?_, fun n o => closed n (not_not.1 o)⟩
    rw [rates p, Fin.sum_univ_def]
    simp only [Stream.share, Stream.unmuted_eq]
  · rintro ⟨rates, quiet⟩
    refine ⟨fun p => ?_, fun n o => quiet n (not_not.2 o)⟩
    rw [rates p, Fin.sum_univ_def]
    simp only [Stream.share, Stream.unmuted_eq]

theorem State.Admitted.quiet {s : State} (h : s.Admitted) : s.Quiet := (s.admitted_iff.1 h).2

theorem State.Admitted.tied {s t : State} (h : s.Admitted) (k : Tied s t) : t.Admitted := by
  obtain ⟨rates, quiet⟩ := s.admitted_iff.1 h
  refine t.admitted_iff.2 ⟨fun p => ?_, fun n o => ?_⟩
  · rw [k.same p, rates p]
    exact Finset.sum_congr rfl fun n _ => ((k.streams n).share p).symm
  · have closed : ¬ s.Opened n := fun p => o (k.opened p)
    exact k.quiet n closed (quiet n closed)

/-- One stream's share changes, and its port's rate with it. -/
theorem State.Admitted.change {s t : State} (h : s.Admitted) (n : StreamId)
    (others : ∀ k, k ≠ n → (s.stream k).Tied (t.stream k))
    (rates : ∀ p : Port, (s.stream n).share p ≤ (s.port p).allocated →
      (t.port p).allocated + (s.stream n).share p = (s.port p).allocated + (t.stream n).share p)
    (quiet : t.Quiet) : t.Admitted := by
  obtain ⟨was, -⟩ := s.admitted_iff.1 h
  refine t.admitted_iff.2 ⟨fun p => ?_, quiet⟩
  have rest : ∑ k ∈ Finset.univ.erase n, (t.stream k).share p = ∑ k ∈ Finset.univ.erase n, (s.stream k).share p :=
    Finset.sum_congr rfl fun k hk => (others k (Finset.ne_of_mem_erase hk)).share p
  have before := Finset.add_sum_erase Finset.univ (fun k => (s.stream k).share p) (Finset.mem_univ n)
  have after := Finset.add_sum_erase Finset.univ (fun k => (t.stream k).share p) (Finset.mem_univ n)
  have moved := rates p (by rw [was p, ← before]; exact Nat.le_add_right _ _)
  have sum := was p
  omega

theorem countP_finRange_update {α : Type} {n : Nat} (v : Vector α n) (i : Fin n) (y : α) (f : α → Bool) :
    (List.finRange n).countP (fun j => f (v.set i y)[j]) + (if f v[i] then 1 else 0) =
      (List.finRange n).countP (fun j => f v[j]) + (if f y then 1 else 0) := by
  have perm : (List.finRange n).Perm (i :: (List.finRange n).erase i) := List.perm_cons_erase (List.mem_finRange i)
  have rest : ((List.finRange n).erase i).countP (fun j => f (v.set i y)[j]) =
      ((List.finRange n).erase i).countP (fun j => f v[j]) := by
    refine List.countP_congr fun j hj => ?_
    have ne : j ≠ i := fun e => (List.nodup_finRange n).not_mem_erase (e ▸ hj)
    have off : (v.set i y)[j] = v[j] := by
      have : i.val ≠ j.val := fun e => ne (Fin.ext e.symm)
      simp [this]
    rw [off]
  rw [perm.countP_eq, perm.countP_eq, List.countP_cons, List.countP_cons, rest]
  simp
  omega

/-- The unmuted viewers once slot `v` has been replaced. -/
theorem Stream.unmuted_setViewer (x : Stream) (v : Fin 8) (y : Option Viewer) :
    (x.setViewer v y).unmuted + (if x.viewers[v].any (fun z => !z.muted) then 1 else 0) =
      x.unmuted + (if y.any (fun z => !z.muted) then 1 else 0) := by
  simp only [Stream.unmuted_eq, Stream.setViewer]
  exact countP_finRange_update x.viewers v y fun o => o.any fun z => !z.muted

/-! ### Moves -/

/-- A viewer slot replaced by an unmuted viewer where there was none, with E admitted on the stream's port (R145, R147). -/
structure State.Admits (s : State) (n : StreamId) (v : Fin 8) (y : Viewer) : Prop where
  opened : s.Opened n
  was : (s.stream n).viewers[v].any (fun z => !z.muted) = false
  unmuted : y.muted = false
  room : (s.port (s.stream n).port).admits (s.stream n).egress = true

/-- The record that opens a CLOSED stream: one unmuted viewer, and E admitted on its port (R44, R145). -/
structure State.Opens (s : State) (n : StreamId) (x : Stream) : Prop where
  was : (s.stream n).state = .closed
  open_ : x.state ≠ .closed
  viewer : x.unmuted = 1
  room : (s.port x.port).admits x.egress = true

/-- A port has lost its link, and nothing is sent on it (R144, R156). -/
def State.unplugged (s : State) (p : Port) : State :=
  let s := (s.setPort p { s.port p with up := false }).raise (.pdwn p)
  if s.halted then s else s.cutTransmission p

/-- A viewer slot emptied or muted, and E taken off the port's rate if the viewer was unmuted (R148, R149). -/
def State.dropped (s : State) (n : StreamId) (v : Fin 8) (y : Option Viewer) (unmuted : Bool) : State :=
  let x := s.stream n
  let s := s.setStream n (x.setViewer v y)
  if unmuted then s.withdrawRate x.port x.egress else s

/-- One change of the kinds that commands are made of. -/
inductive Move (s : State) : State → Prop where
  | outer {t : State} (h : Outer s t) : Move s t
  | inner {t : State} (h : Mild (fun _ => True) s t) (k : s.Quiet → Tied s t) : Move s t
  | decoder (d : Decoder) : Move s (s.setDecoder d)
  | reserve (r : Nat) : Move s (s.setBuffer { s.buffer with reserve := r })
  | store (l : List Host.Cell) (wf : Memory.wf s.buffer.store = true → Memory.wf l = true) :
    Move s (s.setBuffer { s.buffer with store := l })
  | settings (m : MemberId) (x : Member) (legal : x.Legal) : Move s (s.setMember m x)
  | opened (n : StreamId) (x : Stream) (h : s.Opens n x) : Move s ((s.setStream n x).allocate x.port x.egress)
  | added (n : StreamId) (v : Fin 8) (y : Viewer) (h : s.Admits n v y) : Move s (s.addViewer n v y)
  | dropped (n : StreamId) (v : Fin 8) (y : Option Viewer) (o : s.Opened n) (now : y.any (fun z => !z.muted) = false) :
    Move s (s.dropped n v y ((s.stream n).viewers[v].any fun z => !z.muted))
  | closed (n : StreamId) (o : s.Opened n) : Move s (s.closeStream n)
  | cut : Move s (s.setEgress { s.egress with presentations := Vector.replicate 64 none })
  | plugged (p : Port) (h : (s.port p).up = false) : Move s (s.setPort p { s.port p with up := true })
  | unplugged (p : Port) : Move s (s.unplugged p)
  | reset : Move s s.resetEngine

theorem Move.calm {s t : State} (h : Calm (fun _ => False) s t) : Move s t :=
  .inner (h.mono fun _ f => f.elim).toMild fun _ => .ofCalm h

/-- What a port change keeps of the silence of DOWN ports and of HALTED (R144, R21). -/
theorem State.Silent.setPort {s : State} (h : s.Silent) (p : Port) (x : PortState)
    (k : (x.up = false ∨ s.halted = true) → x.transmitting = none) : (s.setPort p x).Silent := by
  intro q hq
  have engine : (s.setPort p x).halted = s.halted := by simp [State.halted]
  rw [engine] at hq
  by_cases e : p = q
  · subst e
    rw [State.setPort_port] at hq ⊢
    exact k hq
  · rw [State.setPort_port_ne s x e] at hq ⊢
    exact h q hq

theorem State.withinRates_iff (s : State) : s.WithinRates ↔ ∀ p : Port, (s.port p).allocated ≤ Config.portLimit :=
  ⟨fun h p => match p with | .e0 => h.1 | .e1 => h.2, fun h => ⟨h .e0, h .e1⟩⟩

end Sys2Proof.Machine
end

section
/-! SUPPORT. What moves keep: Engine Time and the queue of commands, the sound machine, and what the ports have promised. -/

namespace Sys2Proof.Machine

/-! ### Resets -/

theorem foldl_set_get {α : Type} {n : Nat} (f : Fin n → α) (l : List (Fin n)) (v : Vector α n) (i : Fin n) :
    (l.foldl (fun v j => v.set j (f j)) v)[i] = if i ∈ l then f i else v[i] := by
  induction l generalizing v with
  | nil => simp
  | cons j rest ih =>
    rw [List.foldl_cons, ih]
    by_cases h : i ∈ rest
    · simp [h]
    · by_cases e : i = j
      · subst e
        simp
      · have off : j.val ≠ i.val := fun k => e (Fin.ext k.symm)
        simp [h, e, off]

@[simp] theorem State.resetEngine_member (s : State) (m : MemberId) :
    s.resetEngine.member m = (s.cutBoth.member m).afterReset := by
  have fold := foldl_set_get (fun k : MemberId => s.cutBoth.dispatcher.members[k].afterReset) allMembers
    s.cutBoth.dispatcher.members m
  rw [if_pos (show m ∈ allMembers from List.mem_finRange m)] at fold
  exact fold

@[simp] theorem State.cutTransmission_dispatcher (s : State) (p : Port) : (s.cutTransmission p).dispatcher = s.dispatcher := by
  unfold State.cutTransmission
  split <;> simp

@[simp] theorem State.cutBoth_dispatcher (s : State) : s.cutBoth.dispatcher = s.dispatcher := by simp [State.cutBoth]

theorem Member.afterReset_legal (x : Member) : x.afterReset.Legal := by
  constructor <;> simp [Member.afterReset, Member.reset]

theorem Region.afterReset_sound (r : Region) : r.afterReset.Sound := by
  constructor <;> simp [Region.afterReset, Region.reset]

@[simp] theorem State.resetEngine_up (s : State) (p : Port) : (s.resetEngine.port p).up = (s.port p).up := by
  have cut := (Outer.cutBoth s).up p
  cases p <;> exact cut

@[simp] theorem State.resetEngine_idle (s : State) (p : Port) : (s.resetEngine.port p).transmitting = none := by
  cases p <;> rfl

@[simp] theorem State.resetEngine_allocated (s : State) (p : Port) : (s.resetEngine.port p).allocated = 0 := by
  cases p <;> rfl

@[simp] theorem State.resetEngine_stream (s : State) (n : StreamId) : s.resetEngine.stream n = Stream.reset := by
  simp [State.resetEngine, State.stream]

@[simp] theorem State.resetEngine_presentation (s : State) (n : StreamId) : s.resetEngine.presentation n = none := by
  simp [State.resetEngine, State.presentation, Egress.afterReset]

/-! ### Engine Time and the queue -/

namespace Move

theorem et_pending {s t : State} (h : Move s t) : t.et = s.et ∧ t.pending = s.pending := by
  cases h with
  | outer h => exact ⟨h.et, h.pending⟩
  | inner h => exact ⟨h.et, h.pending⟩
  | closed n =>
    have h := Calm.closeStream (A := fun _ => True) s n
    exact ⟨h.et, h.pending⟩
  | unplugged p =>
    unfold State.unplugged
    dsimp only
    have cut := Outer.cutTransmission ((s.setPort p { s.port p with up := false }).raise (.pdwn p)) p
    split
    · simp
    · exact ⟨cut.et.trans (by simp), cut.pending.trans (by simp)⟩
  | reset =>
    have cut := Outer.cutBoth s
    exact ⟨cut.et, cut.pending⟩
  | dropped n v y =>
    unfold State.dropped
    dsimp only
    split <;> simp [State.withdrawRate]
  | opened n x => simp [State.allocate]
  | added n v y => simp [State.addViewer, State.allocate]
  | _ => simp

end Move

/-! ### The sound machine -/

theorem Member.SameSettings.legal {x y : Member} (h : x.SameSettings y) (k : x.Legal) : y.Legal := by
  obtain ⟨limit, reserve, timeout, window⟩ := h
  exact ⟨limit ▸ k.limitLow, limit ▸ k.limitHigh, by rw [reserve, limit]; exact k.reserve, timeout ▸ k.timeout,
    window ▸ k.window⟩

namespace State.Sound

theorem mild {A : StreamId → Prop} {s t : State} (h : s.Sound) (k : Mild A s t) : t.Sound where
  region := k.region.sound h.region
  members m := (k.settings m).legal (h.members m)
  rates := t.withinRates_iff.2 fun p => (k.rates p).trans (s.withinRates_iff.1 h.rates p)
  store := k.store ▸ h.store
  silent := k.silent h.silent

theorem outer {s t : State} (h : s.Sound) (k : Outer s t) : t.Sound := by
  obtain ⟨-, -, buffer, dispatcher, -⟩ := k.tables
  refine ⟨k.sound h.region, fun m => ?_, t.withinRates_iff.2 fun p => ?_, by rw [buffer]; exact h.store, k.silent h.silent⟩
  · have same : t.member m = s.member m := by simp [State.member, dispatcher]
    exact same ▸ h.members m
  · rw [k.allocated p]
    exact s.withinRates_iff.1 h.rates p

/-- A port changed: its rate within the limit, and it silent if it is DOWN or the engine HALTED. -/
theorem setPort {s : State} (h : s.Sound) (p : Port) (x : PortState) (rate : x.allocated ≤ Config.portLimit)
    (silent : (x.up = false ∨ s.halted = true) → x.transmitting = none) : (s.setPort p x).Sound where
  region := by simpa using h.region
  members m := by simpa [State.member] using h.members m
  rates := (s.setPort p x).withinRates_iff.2 fun q => by
    by_cases e : p = q
    · subst e
      simpa using rate
    · rw [State.setPort_port_ne s x e]
      exact s.withinRates_iff.1 h.rates q
  store := by simpa using h.store
  silent := h.silent.setPort p x silent

theorem allocate {s : State} (h : s.Sound) (p : Port) (e : Nat) (room : (s.port p).admits e = true) : (s.allocate p e).Sound :=
  h.setPort p _ (by simpa [PortState.admits] using room) (h.silent p)

theorem withdrawRate {s : State} (h : s.Sound) (p : Port) (e : Nat) : (s.withdrawRate p e).Sound :=
  h.mild (Calm.withdrawRate (A := fun _ => True) s p e)

theorem setStream {s : State} (h : s.Sound) (n : StreamId) (x : Stream) : (s.setStream n x).Sound :=
  h.mild (Calm.setStream (A := fun _ => True) s n x).toMild

end State.Sound

@[simp] theorem State.setStream_port (s : State) (n : StreamId) (x : Stream) (p : Port) :
    (s.setStream n x).port p = s.port p := by
  cases p <;> rfl

@[simp] theorem State.raise_port (s : State) (b : NoticeBody) (p : Port) : (s.raise b).port p = s.port p := by
  cases p <;> simp [State.port]

/-- A port that has lost its link is silent (R144, R156). -/
theorem State.unplugged_sound {s : State} (h : s.Sound) (p : Port) : (s.unplugged p).Sound := by
  have low := s.withinRates_iff.1 h.rates p
  unfold State.unplugged
  dsimp only
  split
  · next halted =>
    have was : s.halted = true := by simpa [State.halted] using halted
    exact (h.setPort p { s.port p with up := false } low fun _ => h.silent p (.inr was)).outer (.raise _ _)
  · next awake =>
    set u := (s.setPort p { s.port p with up := false }).raise (.pdwn p) with hu
    have cut := Outer.cutTransmission u p
    obtain ⟨-, -, buffer, dispatcher, -⟩ := cut.tables
    refine ⟨?_, fun m => ?_, State.withinRates_iff _ |>.2 fun q => ?_, ?_, fun q hq => ?_⟩
    · exact cut.sound ((State.raiseAt_near _ _ _).sound (by simpa using h.region))
    · have same : (u.cutTransmission p).member m = s.member m := by simp [State.member, hu]
      exact same ▸ h.members m
    · rw [cut.allocated q, hu, State.raise_port]
      by_cases e : p = q
      · subst e
        simpa using low
      · rw [State.setPort_port_ne s _ e]
        exact s.withinRates_iff.1 h.rates q
    · rw [buffer, hu]
      simpa using h.store
    · by_cases e : p = q
      · subst e
        exact State.cutTransmission_idle _ _
      · have engine : (u.cutTransmission p).halted = false := by simpa [State.halted] using awake
        rw [engine] at hq
        rw [State.cutTransmission_port_ne _ e, hu, State.raise_port, State.setPort_port_ne s _ e] at hq ⊢
        exact h.silent q (.inl (hq.resolve_right (by simp)))

theorem State.resetEngine_sound {s : State} (h : s.Sound) : s.resetEngine.Sound where
  region := Region.afterReset_sound _
  members m := by
    rw [State.resetEngine_member]
    exact Member.afterReset_legal _
  rates := State.withinRates_iff _ |>.2 fun p => by simp
  store := by
    obtain ⟨-, -, buffer, -, -⟩ := (Outer.cutBoth s).tables
    change Memory.wf s.cutBoth.buffer.store = true
    rw [buffer]
    exact h.store
  silent _ _ := by simp

theorem Move.sound {s t : State} (h : s.Sound) (k : Move s t) : t.Sound := by
  cases k with
  | outer k => exact h.outer k
  | inner k => exact h.mild k
  | decoder d => exact ⟨h.region, h.members, h.rates, h.store, h.silent⟩
  | reserve r => exact ⟨h.region, h.members, h.rates, h.store, h.silent⟩
  | store l wf => exact ⟨h.region, h.members, h.rates, wf h.store, h.silent⟩
  | settings m x legal =>
    refine ⟨h.region, fun k => ?_, h.rates, h.store, h.silent⟩
    by_cases e : m = k
    · subst e
      simpa using legal
    · rw [State.setMember_member_ne s x e]
      exact h.members k
  | opened n x k => exact (h.setStream n x).allocate _ _ (by simpa using k.room)
  | added n v y k => exact (h.setStream n _).allocate _ _ (by simpa using k.room)
  | dropped n v y o now =>
    unfold State.dropped
    dsimp only
    split
    · exact (h.setStream n _).withdrawRate _ _
    · exact h.setStream n _
  | closed n o => exact h.mild (Calm.closeStream (A := fun _ => True) s n)
  | cut =>
    exact ⟨h.region, h.members, h.rates, h.store, h.silent⟩
  | plugged p down =>
    exact h.setPort p _ (s.withinRates_iff.1 h.rates p) fun _ => h.silent p (.inl down)
  | unplugged p => exact s.unplugged_sound h p
  | reset => exact s.resetEngine_sound h

/-! ### What the ports have promised -/

theorem Stream.share_closed {x : Stream} (h : x.state = .closed) (p : Port) : x.share p = 0 := by
  simp [Stream.share, h]

theorem Stream.share_port {x : Stream} (h : x.state ≠ .closed) : x.share x.port = x.egress * x.unmuted := by
  simp [Stream.share, h]

theorem Stream.share_other (x : Stream) {p : Port} (h : x.port ≠ p) : x.share p = 0 := by
  simp [Stream.share, h]

@[simp] theorem State.setStream_presentation (s : State) (n k : StreamId) (x : Stream) :
    (s.setStream n x).presentation k = s.presentation k := rfl

@[simp] theorem State.setPort_stream (s : State) (p : Port) (x : PortState) (n : StreamId) :
    (s.setPort p x).stream n = s.stream n := by
  simp [State.stream]

@[simp] theorem State.setPort_presentation (s : State) (p : Port) (x : PortState) (n : StreamId) :
    (s.setPort p x).presentation n = s.presentation n := by
  cases p <;> rfl

namespace State.Admitted

theorem outer {s t : State} (h : s.Admitted) (k : Outer s t) : t.Admitted := by
  obtain ⟨-, streams, -, -, presentations⟩ := k.tables
  refine h.tied ⟨fun n => ?_, fun n _ q => ?_, k.allocated⟩
  · simp only [State.stream, streams]
    exact .refl _
  · simpa only [State.presentation, presentations] using q

/-- Only presentation records are dropped, and no port's rate changes. -/
theorem sameStreams {s t : State} (h : s.Admitted) (streams : t.streams = s.streams)
    (quiet : ∀ n, s.presentation n = none → t.presentation n = none)
    (rates : ∀ p : Port, (t.port p).allocated = (s.port p).allocated) : t.Admitted :=
  h.tied ⟨fun n => by simp only [State.stream, streams]; exact .refl _, fun n _ => quiet n, rates⟩

theorem opened {s : State} (h : s.Admitted) {n : StreamId} {x : Stream} (k : s.Opens n x) :
    ((s.setStream n x).allocate x.port x.egress).Admitted := by
  refine h.change n (fun j ne => ?_) (fun p _ => ?_) fun j o => ?_
  · simp only [State.allocate, State.setPort_stream, State.setStream_stream_ne s x ne.symm]
    exact .refl _
  · rw [Stream.share_closed k.was]
    simp only [State.allocate, State.setPort_stream, State.setStream_stream, State.setStream_port]
    by_cases e : x.port = p
    · subst e
      rw [Stream.share_port k.open_, k.viewer]
      simp
    · rw [State.setPort_port_ne _ _ e, Stream.share_other x e, State.setStream_port]
  · simp only [State.allocate, State.setPort_presentation, State.setStream_presentation]
    refine h.quiet j fun was => o ?_
    have ne : n ≠ j := fun e => was (e ▸ k.was)
    simpa only [State.Opened, State.allocate, State.setPort_stream, State.setStream_stream_ne s x ne] using was

/-- A viewer slot of an open stream replaced, and its port's rate with it. -/
theorem viewer {s t : State} (h : s.Admitted) {n : StreamId} (o : s.Opened n) (v : Fin 8) (y : Option Viewer)
    (streams : t.streams = (s.setStream n ((s.stream n).setViewer v y)).streams)
    (presentations : ∀ j, t.presentation j = s.presentation j)
    (others : ∀ p, p ≠ (s.stream n).port → (t.port p).allocated = (s.port p).allocated)
    (rate : (s.stream n).egress * (s.stream n).unmuted ≤ (s.port (s.stream n).port).allocated →
      (t.port (s.stream n).port).allocated + (s.stream n).egress * (s.stream n).unmuted =
        (s.port (s.stream n).port).allocated + (s.stream n).egress * ((s.stream n).setViewer v y).unmuted) : t.Admitted := by
  have stream : ∀ j, t.stream j = (s.setStream n ((s.stream n).setViewer v y)).stream j := fun j => by
    simp only [State.stream, streams]
  have open_ : t.Opened n := by
    rw [State.Opened, stream n, State.setStream_stream]
    exact o
  refine h.change n (fun j ne => ?_) (fun p low => ?_) fun j closed => ?_
  · rw [stream j, State.setStream_stream_ne s _ ne.symm]
    exact .refl _
  · rw [stream n, State.setStream_stream]
    have port : ((s.stream n).setViewer v y).port = (s.stream n).port := rfl
    by_cases e : (s.stream n).port = p
    · subst e
      have now := Stream.share_port (x := (s.stream n).setViewer v y) o
      rw [port] at now
      rw [Stream.share_port o] at low
      rw [now, Stream.share_port o]
      exact rate low
    · rw [Stream.share_other _ e, Stream.share_other _ (port ▸ e), others p fun k => e k.symm]
  · rw [presentations]
    refine h.quiet j fun was => closed ?_
    by_cases e : n = j
    · exact e ▸ open_
    · rw [State.Opened, stream j, State.setStream_stream_ne s _ e]
      exact was

theorem added {s : State} (h : s.Admitted) {n : StreamId} {v : Fin 8} {y : Viewer} (k : s.Admits n v y) :
    (s.addViewer n v y).Admitted := by
  have count := (s.stream n).unmuted_setViewer v (some y)
  simp only [k.was, Option.any_some, k.unmuted] at count
  refine h.viewer k.opened v (some y) (by simp [State.addViewer, State.allocate])
    (fun j => by simp [State.addViewer, State.allocate]) (fun p ne => ?_) fun _ => ?_
  · simp [State.addViewer, State.allocate, State.setPort_port_ne _ _ ne.symm]
  · simp only [State.addViewer, State.allocate, State.setPort_port, State.setStream_port]
    have one : ((s.stream n).setViewer v (some y)).unmuted = (s.stream n).unmuted + 1 := by simpa using count
    rw [one]
    ring

theorem dropped {s : State} (h : s.Admitted) {n : StreamId} (v : Fin 8) {y : Option Viewer} (o : s.Opened n)
    (now : y.any (fun z => !z.muted) = false) :
    (s.dropped n v y ((s.stream n).viewers[v].any fun z => !z.muted)).Admitted := by
  have count := (s.stream n).unmuted_setViewer v y
  unfold State.dropped
  dsimp only
  split
  · next unmuted =>
    have one : (s.stream n).unmuted = ((s.stream n).setViewer v y).unmuted + 1 := by
      rw [unmuted, now] at count
      simpa using count.symm
    refine h.viewer o v y (by simp [State.withdrawRate]) (fun j => by simp [State.withdrawRate]) (fun p ne => ?_) fun low => ?_
    · simp [State.withdrawRate, State.setPort_port_ne _ _ ne.symm]
    · simp only [State.withdrawRate, State.setPort_port, State.setStream_port]
      rw [one, Nat.mul_add] at *
      omega
  · next muted =>
    have same : ((s.stream n).setViewer v y).unmuted = (s.stream n).unmuted := by
      rw [Bool.not_eq_true _ |>.mp muted, now] at count
      simpa using count
    exact h.viewer o v y rfl (fun _ => rfl) (fun p _ => by simp) fun _ => by simp [same]

end State.Admitted

/-! ### Closing -/

/-- A stream cut off as it closes (R60): its presentation and its window are given up. -/
def State.emptied (s : State) (n : StreamId) : State :=
  let x := s.stream n
  let s := ((s.setPresentation n none).cutStream n x.port).discard n
  match x.sendingEntry with
  | some e => State.giveBack n s e
  | none => s

/-- The record of a stream that has been closed (R60). -/
def Stream.shut (y : Stream) : Stream :=
  { y with
    state := .closed, speed := 0, window := [], cues := [], marks := Vector.replicate 8 none,
    viewers := Vector.replicate 8 none, releaseTime := none, releaseResume := false, locate := none, slipEnd := none,
    proj := { y.proj with counters := [] } }

/-- LOCD ABANDONED, where the stream was SEEKING (R60). -/
def State.abandon (s : State) (n : StreamId) (x : Stream) : State :=
  match x.locate with
  | some l => if x.state = .seeking then s.raise (.locd l.ref n .abandoned l.cue l.offset) else s
  | none => s

theorem State.closeStream_eq (s : State) (n : StreamId) :
    s.closeStream n =
      ((((s.emptied n).withdrawRate (s.stream n).port ((s.stream n).egress * (s.stream n).unmuted)).setStream n
        ((s.emptied n).stream n).shut).markMirror n).abandon n (s.stream n) := by
  unfold State.closeStream State.emptied State.withdrawRate State.abandon
  simp only [State.setPort_stream]
  rfl

theorem Calm.abandon {A : StreamId → Prop} (s : State) (n : StreamId) (x : Stream) : Calm A s (s.abandon n x) := by
  unfold State.abandon
  split
  · exact .ite (.raise _ _) (.refl _)
  · exact .refl _

theorem Calm.emptiedEnd {A : StreamId → Prop} (n : StreamId) (s : State) (x : Option Entry) :
    Calm A s (match x with | some e => State.giveBack n s e | none => s) := by
  split
  · exact .giveBack n s _
  · exact .refl s

theorem Tied.emptied (s : State) (n : StreamId) : Tied s (s.emptied n) :=
  (((Tied.setPresentation s n none (.inl rfl)).trans (ofCalm (Calm.cutStream _ n _))).trans (discard _ n)).trans
    (ofCalm (Calm.emptiedEnd n _ _))

/-- A discard gives no stream a presentation (R97). -/
theorem State.discard_presentation {s : State} {n k : StreamId} (h : s.presentation k = none) :
    (s.discard n).presentation k = none := by
  have rest := Calm.foldl (A := fun _ => False) (Calm.giveBack n) (s.stream n).unsent.reverse
    (s.setStream n ({ s.stream n with
      window := (s.stream n).window.filter (fun e => e.stage == .sending), slipEnd := none } : Stream).resetProjection)
  exact rest.quiet k id h

theorem State.emptied_presentation (s : State) (n : StreamId) : (s.emptied n).presentation n = none := by
  have cut := (Calm.cutStream (A := fun _ => False) (s.setPresentation n none) n (s.stream n).port).quiet n id (by simp)
  exact (Calm.emptiedEnd (A := fun _ => False) n _ _).quiet n id (State.discard_presentation cut)

/-- A stream that has been closed promises nothing (R60, R145). -/
theorem State.Admitted.closed_ {s : State} (h : s.Admitted) {n : StreamId} (o : s.Opened n) : (s.closeStream n).Admitted := by
  rw [State.closeStream_eq]
  have tied := Tied.emptied s n
  have quiet := (h.tied tied).quiet
  have gone := s.emptied_presentation n
  set u := s.emptied n
  set x := s.stream n with hx
  suffices shut : (((u.withdrawRate x.port (x.egress * x.unmuted)).setStream n (u.stream n).shut).markMirror n).Admitted from
    shut.tied (.ofCalm (Calm.abandon _ n x))
  have stream : ∀ k, n ≠ k →
      (((u.withdrawRate x.port (x.egress * x.unmuted)).setStream n (u.stream n).shut).markMirror n).stream k = u.stream k :=
    fun k ne => (State.setStream_stream_ne _ _ ne).trans (by simp [State.withdrawRate])
  have self : (((u.withdrawRate x.port (x.egress * x.unmuted)).setStream n (u.stream n).shut).markMirror n).stream n =
      (u.stream n).shut := State.setStream_stream _ n _
  refine h.change n (fun k ne => ?_) (fun p low => ?_) fun k closed => ?_
  · rw [stream k ne.symm]
    exact tied.streams k
  · rw [self, Stream.share_closed (x := (u.stream n).shut) rfl]
    change x.share p ≤ _ at low
    change ((u.withdrawRate x.port (x.egress * x.unmuted)).port p).allocated + x.share p = _
    rw [← tied.same p]
    by_cases e : x.port = p
    · subst e
      rw [← tied.same, Stream.share_port (x := x) o] at low
      rw [Stream.share_port (x := x) o]
      simp only [State.withdrawRate, State.setPort_port]
      omega
    · simp [State.withdrawRate, State.setPort_port_ne u _ e, Stream.share_other x e]
  · change (u.withdrawRate x.port (x.egress * x.unmuted)).presentation k = none
    rw [State.withdrawRate, State.setPort_presentation]
    by_cases e : n = k
    · exact e ▸ gone
    · exact quiet k fun was => closed (by rw [State.Opened, stream k e]; exact was)

theorem Move.admitted {s t : State} (h : s.Admitted) (k : Move s t) : t.Admitted := by
  cases k with
  | outer k => exact h.outer k
  | inner _ k => exact h.tied (k h.quiet)
  | decoder d => exact h.sameStreams rfl (fun _ q => q) fun p => by cases p <;> rfl
  | reserve r => exact h.sameStreams rfl (fun _ q => q) fun p => by cases p <;> rfl
  | store l wf => exact h.sameStreams rfl (fun _ q => q) fun p => by cases p <;> rfl
  | settings m x legal => exact h.tied (.setMember s m x)
  | opened n x k => exact h.opened k
  | added n v y k => exact h.added k
  | dropped n v y o now => exact h.dropped v o now
  | closed n o => exact h.closed_ o
  | cut => exact h.sameStreams rfl (fun n _ => by simp [State.presentation]) fun p => by cases p <;> rfl
  | plugged p down =>
    refine h.sameStreams (by simp) (fun n q => by simpa using q) fun q => ?_
    by_cases e : p = q
    · subst e
      simp
    · rw [State.setPort_port_ne s _ e]
  | unplugged p =>
    have down : ((s.setPort p { s.port p with up := false }).raise (.pdwn p)).Admitted := by
      refine h.sameStreams (by simp) (fun n q => ?_) fun q => ?_
      · simpa only [State.presentation, State.raise_egress] using (State.setPort_presentation s p _ n).trans q
      rw [State.raise_port]
      by_cases e : p = q
      · subst e
        simp
      · rw [State.setPort_port_ne s _ e]
    unfold State.unplugged
    dsimp only
    split
    · exact down
    · exact down.outer (.cutTransmission _ p)
  | reset =>
    refine (State.admitted_iff _).2 ⟨fun p => ?_, fun n _ => by simp⟩
    simp [Stream.share, Stream.reset]

end Sys2Proof.Machine
end

section
/-! SUPPORT. Every command but power-on is a path of moves. -/

namespace Sys2Proof.Machine

/-- A sequence of moves. -/
def Path : State → State → Prop := Relation.ReflTransGen Move

namespace Path

theorem refl (s : State) : Path s s := Relation.ReflTransGen.refl

theorem trans {a b c : State} (h : Path a b) (k : Path b c) : Path a c := Relation.ReflTransGen.trans h k

theorem of {s t : State} (h : Move s t) : Path s t := Relation.ReflTransGen.single h

theorem outer {s t : State} (h : Outer s t) : Path s t := of (.outer h)

theorem calm {s t : State} (h : Calm (fun _ => False) s t) : Path s t := of (.calm h)

theorem inner {s t : State} (h : Mild (fun _ => True) s t) (k : Tied s t) : Path s t := of (.inner h fun _ => k)

theorem ite {c : Prop} [Decidable c] {s a b : State} (ha : c → Path s a) (hb : ¬ c → Path s b) :
    Path s (if c then a else b) := by
  split
  · exact ha ‹_›
  · exact hb ‹_›

theorem foldl {α : Type} {f : State → α → State} (h : ∀ s x, Path s (f s x)) (l : List α) (s : State) :
    Path s (l.foldl f s) := by
  induction l generalizing s with
  | nil => exact refl s
  | cons x rest ih => exact (h s x).trans (ih _)

theorem et_pending {s t : State} (h : Path s t) : t.et = s.et ∧ t.pending = s.pending := by
  induction h with
  | refl => exact ⟨rfl, rfl⟩
  | tail _ m ih =>
    obtain ⟨et, pending⟩ := m.et_pending
    exact ⟨et.trans ih.1, pending.trans ih.2⟩

theorem sound {s t : State} (h : Path s t) (k : s.Sound) : t.Sound := by
  induction h with
  | refl => exact k
  | tail _ m ih => exact m.sound ih

theorem admitted {s t : State} (h : Path s t) (k : s.Admitted) : t.Admitted := by
  induction h with
  | refl => exact k
  | tail _ m ih => exact m.admitted ih

theorem wakeAll (s : State) : Path s s.wakeAll := inner (Calm.wakeAll s).toMild (Tied.wakeAll s)

/-! ### Starting and stopping -/

theorem enterRunning (s : State) (h : List Byte) (since : Time) (taken fill : CountRead)
    (stopped : s.region.engine = .stopped) : Path s (s.enterRunning h since taken fill) := by
  unfold State.enterRunning
  dsimp only
  have entered : ∀ work orderTaken noticeFill noticeTaken marks timer, Outer s (s.setRegion { s.region with
      work := work, orderTaken := orderTaken, noticeFill := noticeFill, noticeTaken := noticeTaken, engine := .running,
      intake := .taking, marks := marks, startWaiting := none, timer := timer }) := fun _ _ _ _ _ _ => by
    refine .setRegion s _ (fun h => ⟨h.held, by simp, fun _ => rfl, fun scan => ?_, by simp⟩) (by simp)
    exact absurd (h.scan scan).1 (by simp [stopped])
  refine (Path.trans (?_ : Path s _) (of (.reserve (min (u32 h 0x20) 16384)))).trans ((outer (.startScan _ taken fill)).trans
    (foldl (fun s m => calm (Calm.opportunity s m)) _ _))
  split
  · exact outer (entered _ _ _ _ _ _)
  · exact outer (entered _ _ _ _ _ _)

theorem proceed (s : State) (since : Time) (header : HeaderRead) (taken fill : CountRead)
    (stopped : s.region.engine = .stopped) : Path s (s.proceed since header taken fill) := by
  have noted : ∀ base code, Outer s (s.setRegion { s.region with startFault := code, base := base }) := fun _ _ =>
    .setRegion s _ fun h => ⟨h.held, h.latch, h.timer, h.scan, h.waiting⟩
  unfold State.proceed
  dsimp only
  refine ite (fun _ => outer (noted _ _)) fun _ => ?_
  cases header with
  | failed => exact outer ((noted _ _).trans (.headerFault _))
  | bytes h =>
    dsimp only
    split
    · exact outer (noted _ _)
    · exact (outer (noted _ _)).trans (enterRunning _ h since taken fill stopped)

theorem stopRunning (s : State) (running : s.region.engine = .running) : Path s s.stopRunning := by
  have stopping : Outer s (s.setRegion { s.region with engine := .stopping, scan := none }) :=
    .setRegion s _ (fun h => ⟨h.held, by simp, fun _ => rfl, by simp, fun w => by simpa [running] using h.waiting w⟩) (by simp)
  refine ((((outer stopping).trans (of .cut)).trans (outer (.cutBoth _))).trans (foldl (fun s n => ?_) _ _)).trans
    ((calm (Calm.markStaleWhere _ _)).trans (foldl (fun s d => calm (Calm.freeEntry s d)) _ _))
  exact ite (fun _ => refl s) fun o => of (.closed n o)

theorem enterStopped (s : State) : Path s s.enterStopped := by
  have stopped : Outer s (s.setRegion { s.region with
      engine := .stopped, timer := none, scan := none, scanWanted := false }) :=
    .setRegion s _ (fun h => ⟨h.held, by simp, by simp, by simp, fun _ => .inl rfl⟩) (by simp)
  refine outer ((stopped.trans (.raise _ .stpd)).trans (.setRegion _ _ ?_))
  exact fun h => ⟨h.held, h.latch, h.timer, h.scan, h.waiting⟩

/-! ### Orders -/

theorem layoutTakesEffect (s : State) (e : Fin 16) (ref : Word) (op : PendingOp) :
    Path s (s.layoutTakesEffect e ref op) :=
  (of (.decoder _)).trans (calm (((Calm.raise _ _).trans (Calm.callPass _)).trans (Calm.replanHold _ _)))

theorem changeClip (s : State) (c : Fin 256) (x : Clip) : Path s (s.changeClip c x) :=
  (of (.decoder _)).trans (calm (Calm.markStaleWhere _ _))

theorem setMember (s : State) (m : MemberId) (x : Member) (h : (s.member m).SameSettings x := by exact ⟨rfl, rfl, rfl, rfl⟩) :
    Path s (s.setMember m x) :=
  inner (Mild.setMember s m x h) (Tied.setMember s m x)

theorem stallTest (s : State) (m : MemberId) : Path s (s.stallTest m) := inner (Calm.stallTest s m) (Tied.stallTest s m)

theorem dropLink (s : State) (m : MemberId) (k : DropCause) : Path s (s.dropLink m k) :=
  inner (Calm.dropLink s m k) (Tied.dropLink s m k)

theorem applySettings (s : State) (m : MemberId) (limit reserve timeout window : Nat)
    (ok : settingsOk limit reserve timeout window = true) : Path s (s.applySettings m limit reserve timeout window) := by
  obtain ⟨⟨⟨⟨low, high⟩, below⟩, code⟩, win⟩ : (((1 ≤ limit ∧ limit ≤ 32) ∧ reserve < limit) ∧ timeout ≤ 10) ∧ window ≤ 7 := by
    simpa [settingsOk] using ok
  refine ((of (.settings m { s.member m with
    limit := limit, reserve := reserve, timeoutCode := timeout, windowCode := window } ⟨low, high, below, code, win⟩)).trans ?_).trans (calm (Calm.opportunity _ m))
  exact ite (fun _ => stallTest _ m) fun _ => refl _

theorem setLink (s : State) (m : MemberId) (l : Link) : Path s (s.setLink m l) :=
  inner (Calm.setLink s m l) (Tied.setLink s m l)

theorem resetMember (s : State) (m : MemberId) : Path s (s.resetMember m) := by
  have dropped : Path s ((s.dropLink m .reset).setLink m .training) := (dropLink s m _).trans (setLink _ m _)
  unfold State.resetMember
  split
  · exact dropped
  · exact dropped
  · exact setLink s m _
  · exact refl s

theorem setStream (s : State) (n : StreamId) (x : Stream) (h : (s.stream n).Tied x := by exact ⟨rfl, rfl, rfl, .rfl⟩) :
    Path s (s.setStream n x) :=
  inner (Calm.setStream s n x).toMild (Tied.setStream s n x h)

theorem setState (s : State) (n : StreamId) (x : Stream) (o : s.Opened n)
    (h : (x.port, x.egress, x.viewers) = ((s.stream n).port, (s.stream n).egress, (s.stream n).viewers) ∧ x.state ≠ .closed :=
      by exact ⟨rfl, by simp⟩) : Path s (s.setStream n x) :=
  inner (Calm.setStream s n x).toMild (Tied.setState s n x o h)

theorem cleared (s : State) (n : StreamId) : Path s ((s.discard n).unmarkSending n) :=
  inner ((Calm.discard s n).trans (Calm.unmarkSending _ n)).toMild ((Tied.discard s n).trans (Tied.unmarkSending _ n))

theorem project (s : State) (n : StreamId) : Path s (s.project n) := inner (Calm.project s n).toMild (Tied.project s n)

theorem replaceCues (s : State) (n : StreamId) (cues : List Cue) (c o : Nat) : Path s (s.replaceCues n cues c o) := by
  unfold State.replaceCues
  dsimp only
  exact (((setStream s n { s.stream n with cues := cues, cue := c, offset := o, shown := false }).trans (cleared _ n)).trans
    (setStream _ n _)).trans (project _ n)

theorem appendCues (s : State) (n : StreamId) (cues : List Cue) : Path s (s.appendCues n cues) :=
  (setStream s n _).trans (project _ n)

theorem markMirror (s : State) (n : StreamId) : Path s (s.markMirror n) := calm (Calm.markMirror s n)

theorem raiseLocd (s : State) (n : StreamId) (l : Option Locate) (r : Result) : Path s (s.raiseLocd n l r) := by
  unfold State.raiseLocd
  split
  · exact calm (Calm.raise _ _)
  · exact refl s

theorem park (s : State) (n : StreamId) (o : s.Opened n) : Path s (s.park n) := by
  have open_ := ((Tied.discard s n).trans (Tied.unmarkSending _ n)).opened o
  exact (((cleared s n).trans (setState _ n _ open_)).trans (markMirror _ n)).trans (raiseLocd _ n _ _)

theorem beginSeek (s : State) (n : StreamId) (l : Locate) (o : s.Opened n) : Path s (s.beginSeek n l) := by
  have open_ := ((Tied.discard s n).trans (Tied.unmarkSending _ n)).opened o
  have seeking := (cleared s n).trans (setState _ n { State.stream ((s.discard n).unmarkSending n) n with
    state := .seeking, speed := 0, releaseTime := none, releaseResume := false, locate := some l } open_)
  refine ((seeking.trans (ite (c := ((s.stream n).state == .seeking) = true) (fun _ => refl _) fun _ => markMirror _ n)).trans
    (raiseLocd _ n (s.stream n).locate .superseded)).trans ?_
  exact inner (Calm.projectLocateIfDue _ n).toMild (Tied.projectLocateIfDue _ n)

theorem dropViewer (s : State) (n : StreamId) (v : Fin 8) (y : Option Viewer) (u : Bool) (o : s.Opened n)
    (was : u = (s.stream n).viewers[v].any fun z => !z.muted) (now : y.any (fun z => !z.muted) = false) :
    Path s (s.dropViewer n v y u) := by
  have still : (s.dropped n v y u).Opened n := by
    have stream : (s.dropped n v y u).stream n = (s.stream n).setViewer v y := by
      unfold State.dropped
      dsimp only
      split <;> simp [State.withdrawRate]
    rw [State.Opened, stream]
    exact o
  have cancelled := Tied.ofCalm (Calm.cancelViewer (A := fun _ => False) (s.dropped n v y u) n v)
  refine (was ▸ of (.dropped n v y o now) : Path s (s.dropped n v y u)).trans ((calm (Calm.cancelViewer _ n v)).trans ?_)
  exact inner (.ite ((Calm.endPresentation _ n false).trans (Calm.turnIfDue _ n)).toMild (.refl _))
    (Tied.completeIfDone _ n (cancelled.opened still))

end Path

/-- What a decision does to any state that has the streams and the ports that it was taken on is a path of moves. -/
def Decision.Lawful (s : State) (d : Decision) : Prop :=
  ∀ u : State, u.streams = s.streams → u.egress = s.egress → Path u (d.effect u)

namespace Decision.Lawful

theorem idle (s : State) (r : Result) (v : Nat) : Lawful s ⟨r, v, id⟩ := fun u _ _ => .refl u

theorem refuse (s : State) (r : Result) : Lawful s (refuse r) := idle s r 0

theorem always {s : State} {r : Result} {v : Nat} {f : State → State} (h : ∀ u, Path u (f u)) : Lawful s ⟨r, v, f⟩ :=
  fun u _ _ => h u

theorem ite {c : Prop} [Decidable c] {s : State} {a b : Decision} (ha : c → Lawful s a) (hb : ¬ c → Lawful s b) :
    Lawful s (if c then a else b) := by
  split
  · exact ha ‹_›
  · exact hb ‹_›

theorem dite {c : Prop} [Decidable c] {s : State} {a : c → Decision} {b : ¬ c → Decision} (ha : ∀ h, Lawful s (a h))
    (hb : ∀ h, Lawful s (b h)) : Lawful s (if h : c then a h else b h) := by
  split
  · exact ha _
  · exact hb _

/-- What an order does to a stream that was open as it was decided. -/
theorem onStream {s : State} {n : StreamId} {r : Result} {v : Nat} {f : State → State} (o : s.Opened n)
    (h : ∀ u, u.Opened n → Path u (f u)) : Lawful s ⟨r, v, f⟩ := fun u streams _ =>
  h u (by simpa only [State.Opened, State.stream, streams] using o)

theorem layoutOrder (s : State) (e : Fin 16) (x : LayoutEntry) (ref : Word) (op : PendingOp) :
    Lawful s (layoutOrder e x ref op) := by
  have takes : ∀ r v, Lawful s ⟨r, v, fun s => s.layoutTakesEffect e ref op⟩ := fun _ _ =>
    always fun u => .layoutTakesEffect u e ref op
  unfold Machine.layoutOrder
  split
  · exact ite (fun _ => refuse s _) fun _ => takes _ _
  · exact ite (fun _ => takes _ _) fun _ => always fun u => .of (.decoder _)
  · exact always fun u => Path.trans (.of (.decoder _)) (.calm (Calm.raise _ _))

theorem layd (s : State) (b : List Byte) : Lawful s (decideLayd s b) := by
  refine dite (fun _ => ite (fun _ => layoutOrder s _ _ _ _) fun _ => ?_) fun _ => refuse s _
  split
  · exact refuse s _
  · exact ite (fun _ => refuse s _) fun _ => layoutOrder s _ _ _ _

theorem clip (s : State) (b : List Byte) : Lawful s (decideClip s b) := by
  refine dite (fun h => ?_) fun _ => refuse s _
  have taken : ∀ x v, Lawful s
      (if s.clipInUse ⟨u16 b 4, h⟩ then Machine.refuse .inUse else ⟨.ok, v, fun s => s.changeClip ⟨u16 b 4, h⟩ x⟩) :=
    fun x _ => ite (fun _ => refuse s _) fun _ => always fun u => .changeClip u _ x
  refine ite (fun _ => ite (fun _ => taken _ _) fun _ => refuse s _) fun _ => ?_
  split
  · exact refuse s _
  · exact taken _ _

theorem memb (s : State) (b : List Byte) : Lawful s (decideMemb s b) :=
  dite (fun _ => ite (fun ok => always fun u => .applySettings u _ _ _ _ _ ok) fun _ => refuse s _) fun _ => refuse s _

theorem mrst (s : State) (b : List Byte) : Lawful s (decideMrst b) :=
  dite (fun _ => always fun u => .resetMember u _) fun _ => refuse s _

/-- The stream that OPEN makes has one viewer, unmuted (R44). -/
theorem openedStream_unmuted (old : Stream) (b : List Byte) (rate : Nat × Nat) (cues : List Cue) :
    (openedStream old b rate cues).unmuted = 1 := by
  rw [Stream.unmuted_eq]
  rfl

theorem opens (s : State) (b : List Byte) : Lawful s (decideOpen s b) := by
  refine dite (fun h => ite (fun _ => refuse s _) fun closed => ite (fun _ => refuse s _) fun _ =>
    ite (fun _ => refuse s _) fun _ => ?_) fun _ => refuse s _
  split
  · exact idle s _ _
  · split
    · exact refuse s _
    · next rate _ =>
      dsimp only
      split
      · exact idle s _ _
      · refine ite (fun room => fun u streams egress => ?_) fun _ => refuse s _
        refine Path.trans (.of (.opened _ _ ⟨?_, by simp [openedStream, Stream.resetProjection], openedStream_unmuted _ _ _ _, ?_⟩))
          (.markMirror _ _)
        · simpa only [State.stream, streams, not_not] using closed
        · have port : ∀ p, u.port p = s.port p := fun p => by cases p <;> simp [State.port, egress]
          rwa [port]

theorem cues (s : State) (b : List Byte) : Lawful s (decideCues s b) := by
  refine dite (fun h => ite (fun _ => refuse s _) fun _ => ite (fun _ => refuse s _) fun _ => ite (fun _ => refuse s _)
    fun _ => ite (fun _ => refuse s _) fun _ => ite (fun _ => ?_) fun _ => ?_) fun _ => refuse s _
  · unfold decideReplace
    split
    · exact idle s _ _
    · split
      · exact idle s _ _
      · exact always fun u => .replaceCues u _ _ _ _
  · refine ite (fun _ => idle s _ _) fun _ => ?_
    split
    · exact idle s _ _
    · split
      · exact idle s _ _
      · exact always fun u => .appendCues u _ _

theorem play (s : State) (n : StreamId) (b : List Byte) : Lawful s (decidePlay s n b) :=
  ite (fun _ => refuse s _) fun o => ite (fun _ => refuse s _) fun _ => ite (fun _ => refuse s _) fun _ =>
    onStream (fun closed => o (.inl closed)) fun u o =>
      .trans (.inner (Calm.startRun u n _ _).toMild (Tied.startRun u n _ _ o)) (.markMirror _ n)

theorem hold (s : State) (n : StreamId) (b : List Byte) : Lawful s (decideHold s n b) :=
  ite (fun _ => refuse s _) fun running => ite (fun _ => refuse s _) fun _ => ite (fun _ => refuse s _) fun _ =>
    onStream (fun closed => running (by simp [closed])) fun u o =>
      .trans (.inner (Calm.hold u n _ _).toMild (Tied.hold u n _ _ o)) (.markMirror _ n)

theorem resume (s : State) (n : StreamId) : Lawful s (decideResume s n) :=
  ite (fun _ => refuse s _) fun held => ite (fun _ => onStream (fun closed => held (by simp [closed])) fun u o =>
    .trans (.inner (Calm.releaseHold u n _).toMild (Tied.releaseHold u n _ o)) (.markMirror _ n)) fun _ => refuse s _

theorem park (s : State) (n : StreamId) : Lawful s (decidePark s n) := by
  unfold decidePark
  split
  · exact refuse s _
  · exact idle s _ _
  · next closed _ => exact onStream closed fun u o => .park u n o

theorem locate (s : State) (n : StreamId) (b : List Byte) : Lawful s (decideLocate s n b) :=
  ite (fun _ => refuse s _) fun o => ite (fun _ => refuse s _) fun _ => onStream o fun u o => .beginSeek u n _ o

theorem step (s : State) (n : StreamId) (b : List Byte) : Lawful s (decideStep s n b) :=
  ite (fun _ => refuse s _) fun parked => ite (fun _ => refuse s _) fun _ =>
    onStream (fun closed => parked (by simp [closed])) fun u o => .beginSeek u n _ o

theorem xprt (s : State) (b : List Byte) : Lawful s (decideXprt s b) := by
  refine dite (fun h => ?_) fun _ => refuse s _
  split
  · exact play s _ b
  · exact hold s _ b
  · exact resume s _
  · exact park s _
  · exact locate s _ b
  · exact step s _ b
  · exact refuse s _

theorem mark (s : State) (b : List Byte) : Lawful s (decideMark s b) := by
  refine dite (fun h => ite (fun _ => refuse s _) fun _ => ite (fun _ => refuse s _) fun _ => ?_) fun _ => refuse s _
  unfold decideSlot
  refine ite (fun _ => dite (fun _ => ite (fun _ => always fun u => .setStream u _ _) fun _ => refuse s _)
    fun _ => refuse s _) fun _ => ite (fun _ => always fun u => .setStream u _ _) fun _ => refuse s _

theorem shut (s : State) (b : List Byte) : Lawful s (decideShut s b) :=
  dite (fun _ => ite (fun _ => refuse s _) fun o => onStream o fun _ o => .of (.closed _ o)) fun _ => refuse s _

/-- A viewer added or unmuted on an open stream, E being admitted (R147, R149). -/
theorem addViewer {s : State} {n : StreamId} {v : Fin 8} {y : Viewer} {r : Result} {k : Nat} (h : s.Admits n v y) :
    Lawful s ⟨r, k, fun s => s.addViewer n v y⟩ := fun u streams egress => by
  have stream : u.stream n = s.stream n := by simp only [State.stream, streams]
  have port : ∀ p, u.port p = s.port p := fun p => by cases p <;> simp [State.port, egress]
  exact .of (.added n v y ⟨by rw [State.Opened, stream]; exact h.opened, by rw [stream]; exact h.was, h.unmuted,
    by rw [stream, port]; exact h.room⟩)

/-- A viewer removed or muted on an open stream (R148, R149). -/
theorem dropViewer {s : State} {n : StreamId} {v : Fin 8} {y : Option Viewer} {unmuted : Bool} {r : Result} {k : Nat}
    (o : s.Opened n) (was : unmuted = (s.stream n).viewers[v].any fun z => !z.muted)
    (now : y.any (fun z => !z.muted) = false) : Lawful s ⟨r, k, fun s => s.dropViewer n v y unmuted⟩ := fun u streams _ => by
  have stream : u.stream n = s.stream n := by simp only [State.stream, streams]
  exact .dropViewer u n v y unmuted (by rw [State.Opened, stream]; exact o) (by rw [stream]; exact was) now

theorem shar (s : State) (b : List Byte) : Lawful s (decideShar s b) := by
  refine dite (fun h => ite (fun _ => refuse s _) fun _ => ite (fun _ => refuse s _) fun o => ?_) fun _ => refuse s _
  split
  · refine ite (fun _ => refuse s _) fun _ => ite (fun _ => refuse s _) fun free => ite (fun room => ?_) fun _ => refuse s _
    exact addViewer ⟨o, by simp [Option.not_isSome_iff_eq_none.1 free], rfl, room⟩
  · refine ite (fun _ => refuse s _) fun _ => ?_
    split
    · exact refuse s _
    · next y held => exact dropViewer o (by rw [held]; rfl) rfl
  · unfold decideMute
    dsimp only
    split
    · exact refuse s _
    · next y held =>
      exact ite (fun _ => idle s _ _) fun muted => dropViewer o (by rw [held]; simpa using muted) rfl
  · unfold decideUnmute
    dsimp only
    split
    · exact refuse s _
    · next y held =>
      refine ite (fun _ => idle s _ _) fun muted => ite (fun room => ?_) fun _ => refuse s _
      exact addViewer ⟨o, by rw [held]; simpa using muted, rfl, room⟩

theorem record {s : State} {tag : Word} {b : List Byte} {d : Decision} (h : decideRecord s tag b = some d) : Lawful s d := by
  unfold decideRecord at h
  dsimp only at h
  split at h
  · cases h
  · split at h
    · cases h
      exact refuse s _
    · split at h
      · cases h
        exact refuse s _
      · cases h
        split
        · exact layd s b
        · exact clip s b
        · exact memb s b
        · exact mrst s b
        · exact opens s b
        · exact cues s b
        · exact xprt s b
        · exact mark s b
        · exact shut s b
        · exact shar s b
        · exact refuse s _
        · exact refuse s _

end Decision.Lawful

namespace Path

theorem carryOut {s : State} {d : Decision} (h : d.Lawful s) (tag : Word) (b : List Byte) (position : Nat) :
    Path s (s.carryOut tag b position d) := by
  have effect := h (s.raise (.answ (reference b) tag position d.result d.value)) (by simp) (by simp)
  exact ((calm (Calm.raise _ _)).trans effect).trans (wakeAll _)

theorem takeRecord (s : State) (tag : Word) (r : Record) : Path s (s.takeRecord tag r) := by
  unfold State.takeRecord
  split
  · exact refl s
  · next fill takes =>
    split
    · exact outer (.structuralFault s _)
    · have passed := outer (.passRecord s fill r.len.toNat takes)
      dsimp only
      split
      · exact passed
      · next d decided => exact passed.trans (carryOut (.record decided) tag r.body _)

/-! ### Member links -/

theorem loseLink (s : State) (m : MemberId) : Path s (s.loseLink m) := by
  refine ite (fun _ => refl s) fun _ => ?_
  split
  · exact ((setLink s m _).trans (calm (Calm.failQueue _ m _))).trans (wakeAll _)
  · exact (dropLink s m _).trans (wakeAll _)
  · exact (dropLink s m _).trans (wakeAll _)
  · exact refl s

theorem opportunity (s : State) (m : MemberId) : Path s (s.opportunity m).wakeAll :=
  (calm (Calm.opportunity s m)).trans (wakeAll _)

theorem receiveAttach (s : State) (m : MemberId) (c : Nat) : Path s (s.receiveAttach m c) :=
  ite (fun _ => ((setMember s m { s.member m with link := .up, capacity := c }).trans (calm (Calm.raise _ _))).trans
    (opportunity _ m)) fun _ => refl s

theorem storeBlock (s : State) (d place : Nat) (block : List Byte) : Path s (s.storeBlock d place block) := by
  unfold State.storeBlock
  split
  · exact refl s
  · split
    · exact refl s
    · next a _ => exact of (.store _ fun wf => writeBytes_wf _ a block wf)

theorem setTag (s : State) (m : MemberId) (t : Fin 32) (v : TagState) : Path s (s.setMember m ((s.member m).setTag t v)) :=
  setMember s m _

theorem receiveData (s : State) (m : MemberId) (t : Fin 32) (offset : Nat) (block : List Byte) :
    Path s (s.receiveData m t offset block) := by
  unfold State.receiveData
  split
  · split
    · exact refl s
    · exact ite (fun _ => (setTag s m t _).trans (storeBlock _ _ _ _)) fun _ => refl s
  · exact refl s

end Path

theorem Calm.answerChunk {A : StreamId → Prop} (s : State) (m : MemberId) (c : Chunk) (arrived : List Nat) (status : Nat) :
    Calm A s (s.answerChunk m c arrived status) := by
  unfold State.answerChunk
  split
  · exact .ite (.settleDone s c) (.failOn s c _)
  · exact .ite (.join s _) (.failOn s c _)
  · exact .failOn s c _
  · exact .settleFailed s c _

namespace Path

theorem receiveDone (s : State) (m : MemberId) (t : Fin 32) (status : Nat) : Path s (s.receiveDone m t status) := by
  have freed := setTag s m t .free
  unfold State.receiveDone
  split
  · exact refl s
  · exact (freed.trans (stallTest _ m)).trans (opportunity _ m)
  · refine freed.trans (.trans ?_ (opportunity _ m))
    split
    · exact refl _
    · exact calm (Calm.answerChunk _ m _ _ _)

theorem receive (s : State) (m : MemberId) (message : List Byte) : Path s (s.receive m message) := by
  refine ite (fun _ => refl s) fun _ => ?_
  split
  · exact receiveAttach s m _
  · exact receiveData s m _ _ _
  · exact receiveDone s m _ _
  · exact refl s

theorem expire (s : State) (m : MemberId) (t : Fin 32) : Path s (s.expire m t) := by
  refine ite (fun _ => refl s) fun _ => ?_
  split
  · refine ite (fun _ => (setTag s m t .abandoned).trans ?_) fun _ => refl s
    refine Path.trans ?_ ((stallTest _ m).trans (wakeAll _))
    split
    · exact refl _
    · exact calm (Calm.failOn _ _ _)
  · exact refl s

/-! ### Ports -/

theorem messageEnds (s : State) (p : Port) : Path s (s.messageEnds p) := by
  refine ite (fun _ => refl s) fun _ => ?_
  split
  · exact refl s
  · next t _ =>
    have free := outer (.setPort s p { s.port p with transmitting := none } rfl rfl rfl)
    refine free.trans (.trans (.trans ?_ (wakeAll _)) (calm (Calm.transmit _ p)))
    refine of (.inner (.ite ((Calm.endPresentation _ t.stream false).trans (Calm.turnIfDue _ t.stream)).toMild (.refl _))
      fun quiet => ?_)
    unfold State.completeIfDone
    split
    · next complete =>
      refine (Tied.endPresentation _ _ false fun closed => ?_).trans (.turnIfDue _ _)
      simp [State.complete, quiet _ (not_not.2 closed)] at complete
    · exact .refl _

theorem interrupt (p : Port) (s : State) (n : StreamId) : Path s (s.interrupt p n) := by
  have calm : Calm (fun _ => True) s (s.interrupt p n) := by
    unfold State.interrupt
    dsimp only
    refine .ite (.refl s) (.ite (.endPresentation s n true) ?_)
    split
    · exact .begin s n _ _
    · exact .refl s
  exact inner calm.toMild (Tied.interrupt p s n)

theorem portDown (s : State) (p : Port) : Path s (s.portDown p) := by
  have lost := of (.unplugged (s := s) p)
  unfold State.portDown
  unfold State.unplugged at lost
  dsimp only at lost ⊢
  split
  · next halted => rwa [if_pos halted] at lost
  · next awake =>
    rw [if_neg awake] at lost
    exact (lost.trans (foldl (interrupt p) _ _)).trans (wakeAll _)

/-! ### Streams -/

theorem timeRelease (s : State) (n : StreamId) : Path s (s.timeRelease n) := by
  refine ite (fun _ => refl s) fun held => ?_
  split
  · exact refl s
  · next t _ =>
    have o : s.Opened n := fun closed => held (by simp [closed])
    refine ite (fun _ => ?_) fun _ => refl s
    have released := inner (Calm.releaseHold s n t).toMild (Tied.releaseHold s n t o)
    exact (released.trans (calm ((Calm.raiseAt _ _ _).trans (Calm.markMirror _ n)))).trans (wakeAll _)

theorem endSlip (s : State) (n : StreamId) : Path s (s.endSlip n) := by
  refine ite (fun _ => refl s) fun running => ?_
  have o : s.Opened n := fun closed => running (by simp [closed])
  split
  · refine ite (fun _ => ?_) fun _ => refl s
    exact (inner ((Calm.applyLate s n _ _ _).trans (Calm.begin _ n _ _)).toMild (Tied.lateBegin s n _ _ _ _ o)).trans (wakeAll _)
  · exact refl s

theorem completeLayout (s : State) (e : Fin 16) : Path s (s.completeLayout e) := by
  refine ite (fun _ => refl s) fun _ => ?_
  split
  · exact ite (fun _ => (layoutTakesEffect s e _ _).trans (wakeAll _)) fun _ => refl s
  · exact refl s

end Path

namespace Outer

/-- An expiry moves a scan timer that is running (R9). -/
theorem scanTimer (s : State) (t e : Time) (taken fill : CountRead) (h : s.region.timer = some t) :
    Outer s ((s.setRegion { s.region with timer := some e }).startScan taken fill) := by
  refine .trans (.setRegion s _ ?_) (.startScan _ taken fill)
  exact fun k => ⟨k.held, k.latch, fun _ => k.timer (by simp [h]), k.scan, k.waiting⟩

theorem noticeLevel (s : State) (v : BitVec 3) (b : Bool) :
    Outer s ((s.setRegion { s.region with noticeLevel := v }).signalIf b) :=
  .trans (.setRegion s { s.region with noticeLevel := v } fun k => ⟨k.held, k.latch, k.timer, k.scan, k.waiting⟩) (.signalIf _ _)

theorem resumeIntake (s : State) (write : WriteResult) (taken fill : CountRead) :
    Outer s
      (match write with
       | .failed => s.hostFault .orderTakenWrite offOrderTaken
       | .ok =>
         let s := s.hostWrite offOrderTaken (le 4 s.region.orderTaken.toNat)
         (s.setRegion { s.region with intake := .taking }).startScan taken fill) := by
  cases write with
  | failed => exact .hostFault s _ _
  | ok =>
    have opened : Outer (s.hostWrite offOrderTaken (le 4 s.region.orderTaken.toNat)) _ :=
      .setRegion _ { s.region with intake := .taking } fun k =>
        ⟨k.held, k.latch, k.timer, fun scan => ⟨(k.scan scan).1, rfl⟩, k.waiting⟩
    exact ((Outer.hostWrite s _ _).trans opened).trans (.startScan _ taken fill)

end Outer

namespace Path

theorem execStart (s : State) (header : HeaderRead) (taken fill : CountRead) :
    Path s (if s.region.engine = .stopped then
      if s.region.writersBusy then s.setRegion { s.region with startWaiting := some (s.region.startWaiting.getD s.et) }
      else s.proceed s.et header taken fill
     else s) :=
  ite (fun stopped => ite (fun _ => outer (.setRegion s _ fun h =>
    ⟨h.held, h.latch, h.timer, h.scan, fun _ => .inl stopped⟩)) fun _ => proceed s _ header taken fill stopped) fun _ => refl s

end Path

/-- What every command but power-on does is a path of moves. -/
theorem exec_path (c : Instr) (s : State) (h : c ≠ .powerOn) : ∃ t, exec c s = .next t ∧ Path s t := by
  cases c with
  | powerOn => exact absurd rfl h
  | start header taken fill => exact ⟨_, rfl, .execStart s header taken fill⟩
  | startDeferred header taken fill =>
    refine ⟨_, rfl, ?_⟩
    split
    · exact .refl s
    · refine .ite (fun _ => .refl s) fun _ => ?_
      have done : Outer s (s.setRegion { s.region with startWaiting := none }) :=
        .setRegion s _ fun h => ⟨h.held, h.latch, h.timer, h.scan, by simp⟩
      exact .ite (fun stopped => .trans (.outer done) (.proceed _ _ header taken fill stopped)) fun _ => .outer done
  | stop => exact ⟨_, rfl, .ite (.stopRunning s) fun _ => .refl s⟩
  | stopComplete => exact ⟨_, rfl, .ite (fun _ => .enterStopped s) fun _ => .refl s⟩
  | reset => exact ⟨_, rfl, .of .reset⟩
  | scan taken fill => exact ⟨_, rfl, .ite (fun _ => .outer (.startScan s taken fill)) fun _ => .refl s⟩
  | resumeIntake write taken fill =>
    exact ⟨_, rfl, .ite (fun _ => .outer (.resumeIntake s write taken fill)) fun _ => .refl s⟩
  | clearFault =>
    refine ⟨_, rfl, .ite (fun _ => .refl s) fun awake => .outer (.setRegion s _ fun h => ?_)⟩
    exact ⟨h.held, fun halted => absurd (show s.halted = true by simpa [State.halted] using halted) awake, h.timer, h.scan,
      h.waiting⟩
  | clearLost =>
    refine ⟨_, rfl, .ite (fun _ => .refl s) fun _ => .outer (.setRegion s _ fun h => ?_)⟩
    exact ⟨h.held, h.latch, h.timer, h.scan, h.waiting⟩
  | noticeLevelWrite v => exact ⟨_, rfl, .outer (.noticeLevel s _ _)⟩
  | registerWrite reg v =>
    refine ⟨_, rfl, ?_⟩
    cases reg with
    | regionLo => exact .outer (.setRegion s _ fun h => ⟨h.held, h.latch, h.timer, h.scan, h.waiting⟩)
    | regionHi => exact .outer (.setRegion s _ fun h => ⟨h.held, h.latch, h.timer, h.scan, h.waiting⟩)
    | _ => exact .refl s
  | scanTimerExpiry taken fill =>
    refine ⟨_, rfl, ?_⟩
    split
    · exact .refl s
    · next t timer => exact .ite (fun _ => .outer (.scanTimer s t _ taken fill timer)) fun _ => .refl s
  | furtherScan taken fill =>
    refine ⟨_, rfl, .ite (fun _ => .outer (.trans (.setRegion s _ ?_) (.scanPass _ taken fill))) fun _ => .refl s⟩
    exact fun h => ⟨h.held, h.latch, h.timer, h.scan, h.waiting⟩
  | layc e => exact ⟨_, rfl, .completeLayout s e⟩
  | hostAccessFault a o => exact ⟨_, rfl, .ite (fun _ => .outer (.accessFails s a o)) fun _ => .refl s⟩
  | noticeBatchWrite reads failAt => exact ⟨_, rfl, .outer (.writeBatch s reads failAt)⟩
  | noticeFillAdvance w => exact ⟨_, rfl, .outer (.advanceFill s w)⟩
  | mirrorRecordWrite failAt => exact ⟨_, rfl, .outer (.writeMirror s failAt)⟩
  | tickTurn n =>
    exact ⟨_, rfl, .ite (fun _ => .refl s) fun _ =>
      .trans (.inner (Calm.turnIfDue s n).toMild (Tied.turnIfDue s n)) (.wakeAll _)⟩
  | rlsd n => exact ⟨_, rfl, .timeRelease s n⟩
  | slipWaitEnd n => exact ⟨_, rfl, .endSlip s n⟩
  | servicePass =>
    exact ⟨_, rfl, .ite (fun _ => .refl s) fun _ =>
      .trans (.inner (Calm.servicePass s).toMild (Tied.servicePass s)) (.wakeAll _)⟩
  | linkPartnerDetected m => exact ⟨_, rfl, .ite (fun _ => .refl s) fun _ => .setLink s m _⟩
  | attach m b => exact ⟨_, rfl, .receive s m b⟩
  | memberLinkLost m => exact ⟨_, rfl, .loseLink s m⟩
  | data m b => exact ⟨_, rfl, .receive s m b⟩
  | memberDone m b => exact ⟨_, rfl, .receive s m b⟩
  | memberMessageDiscard m b => exact ⟨_, rfl, .receive s m b⟩
  | tagExpiry m t => exact ⟨_, rfl, .expire s m t⟩
  | holdoffEnd m => exact ⟨_, rfl, .ite (fun _ => .refl s) fun _ => .opportunity s m⟩
  | fragmentEligible p => exact ⟨_, rfl, .calm (Calm.transmit s p)⟩
  | messageSent p => exact ⟨_, rfl, .messageEnds s p⟩
  | portLinkUp p =>
    exact ⟨_, rfl, .ite (fun _ => .refl s) fun down =>
      .trans (.of (.plugged p (by simpa using down))) (.calm (Calm.raise _ _))⟩
  | portLinkDown p => exact ⟨_, rfl, .ite (fun _ => .portDown s p) fun _ => .refl s⟩
  | portFrameReceived p f => exact ⟨_, rfl, .refl s⟩
  | _ => exact ⟨_, exec_eq_takeRecord _ rfl, .takeRecord s _ _⟩

end Sys2Proof.Machine
end

section
/-! SUPPORT. The machine as a whole, its registers and its resets: what the statements about every command, the register
window, power-on and RESET rest on. -/

namespace Sys2Proof.Machine

/-! ### Every command -/

theorem reset_sound : State.reset.Sound where
  region := by constructor <;> simp [State.reset, Region.reset]
  members m := by constructor <;> simp [State.reset, State.member, Dispatcher.reset, Member.reset]
  rates := by simp [State.WithinRates, State.reset, Egress.reset, PortState.reset]
  store := rfl
  silent p _ := by cases p <;> rfl

theorem reset_admitted : State.reset.Admitted := by
  refine (State.admitted_iff _).2 ⟨fun p => ?_, fun n _ => ?_⟩
  · cases p <;> simp [State.reset, State.stream, State.port, Egress.reset, PortState.reset, Stream.share, Stream.reset]
  · simp [State.reset, State.presentation, Egress.reset]

/-- Power-on leaves a state that has forgotten the one before, but for the model's own fields. -/
theorem exec_powerOn (s : State) :
    exec .powerOn s = .next { State.reset with sent := s.cutBoth.sent, drawn := s.drawn, pending := s.pending } := rfl

theorem step_of_pending {c : Instr} {rest : List Instr} {s : State} (h : s.pending = c :: rest) :
    step s = exec c { s with pending := rest } := by
  unfold step
  rw [h]

theorem step_of_idle {s : State} (h : s.pending = []) : step s = .next s.tick := by
  unfold step
  rw [h]

theorem exec_next {c : Instr} {s t : State} (h : exec c s = .next t) :
    (c = .powerOn ∧ t = { State.reset with sent := s.cutBoth.sent, drawn := s.drawn, pending := s.pending }) ∨ Path s t := by
  by_cases power : c = .powerOn
  · subst power
    cases h
    exact .inl ⟨rfl, rfl⟩
  · obtain ⟨t', eq, path⟩ := exec_path c s power
    cases h.symm.trans eq
    exact .inr path

theorem exec_sound {c : Instr} {s t : State} (h : s.Sound) (k : exec c s = .next t) : t.Sound := by
  rcases exec_next k with ⟨-, rfl⟩ | path
  · exact ⟨reset_sound.region, reset_sound.members, reset_sound.rates, reset_sound.store, reset_sound.silent⟩
  · exact path.sound h

theorem exec_admitted {c : Instr} {s t : State} (h : s.Admitted) (k : exec c s = .next t) : t.Admitted := by
  rcases exec_next k with ⟨-, rfl⟩ | path
  · exact ⟨reset_admitted.rates, reset_admitted.closed⟩
  · exact path.admitted h

end Sys2Proof.Machine

open Sys2Proof Sys2Proof.Machine

/-- Settles O4: every command but power-on is a path of moves, and each move keeps both invariants. -/
theorem stepKeepsTheMachineSound : Obligations.StepKeepsTheMachineSound := by
  refine ⟨fun s t sound stepped => ?_, fun s t admitted stepped => ?_⟩
  · cases queue : s.pending with
    | nil =>
      cases (step_of_idle queue).symm.trans stepped
      exact ⟨sound.region, sound.members, sound.rates, sound.store, sound.silent⟩
    | cons c rest =>
      rw [step_of_pending queue] at stepped
      refine exec_sound ?_ stepped
      exact ⟨sound.region, sound.members, sound.rates, sound.store, sound.silent⟩
  · cases queue : s.pending with
    | nil =>
      cases (step_of_idle queue).symm.trans stepped
      exact ⟨admitted.rates, admitted.closed⟩
    | cons c rest =>
      rw [step_of_pending queue] at stepped
      refine exec_admitted ?_ stepped
      exact ⟨admitted.rates, admitted.closed⟩

/-- Settles O5: a path of moves keeps Engine Time and the queue. -/
theorem everyCommandGoesOn : Obligations.EveryCommandGoesOn := by
  intro c s
  by_cases power : c = .powerOn
  · subst power
    exact ⟨_, rfl, rfl, fun h => absurd rfl h⟩
  · obtain ⟨t, eq, path⟩ := exec_path c s power
    exact ⟨t, eq, path.et_pending.2, fun _ => path.et_pending.1⟩

/-- Settles O1. -/
theorem stepTakesTheFrontCommand : Obligations.StepTakesTheFrontCommand := fun _ _ _ h => step_of_pending h

/-- Settles O2. -/
theorem idleStepAdvancesEngineTime : Obligations.IdleStepAdvancesEngineTime := fun _ h => step_of_idle h

/-- Settles O3. -/
theorem resetStateIsSound : Obligations.ResetStateIsSound := ⟨reset_sound, reset_admitted⟩

end

section
/-! SUPPORT. HALTED, the register window, power-on and RESET: what each leaves (R1, R2, R8, R17, R21). -/

namespace Sys2Proof.Machine

/-! ### HALTED -/

/-- Nothing has changed but notices, the notices-lost flag, the registers that are written in HALTED and port links. -/
structure Kept (s t : State) : Prop where
  tables : s.SameTables t
  engine : t.region.engine = s.region.engine
  timer : t.region.timer = s.region.timer
  scan : t.region.scan = s.region.scan
  sent : t.sent = s.sent

namespace Kept

theorem refl (s : State) : Kept s s := ⟨⟨rfl, rfl, rfl, rfl, rfl⟩, rfl, rfl, rfl, rfl⟩

theorem trans {a b c : State} (h : Kept a b) (k : Kept b c) : Kept a c := by
  obtain ⟨⟨h1, h2, h3, h4, h5⟩, h6, h7, h8, h9⟩ := h
  obtain ⟨⟨k1, k2, k3, k4, k5⟩, k6, k7, k8, k9⟩ := k
  exact ⟨⟨k1.trans h1, k2.trans h2, k3.trans h3, k4.trans h4, k5.trans h5⟩, k6.trans h6, k7.trans h7, k8.trans h8, k9.trans h9⟩

theorem setRegion (s : State) (r : Region)
    (h : r.engine = s.region.engine ∧ r.timer = s.region.timer ∧ r.scan = s.region.scan := by exact ⟨rfl, rfl, rfl⟩) :
    Kept s (s.setRegion r) := ⟨⟨rfl, rfl, rfl, rfl, rfl⟩, h.1, h.2.1, h.2.2, rfl⟩

theorem raise (s : State) (b : NoticeBody) : Kept s (s.raise b) := by
  refine ⟨⟨by simp, by simp, by simp, by simp, by simp⟩, by simp, ?_, ?_, by simp⟩ <;>
  · rcases s.raiseAt_region_cases s.et b with h | ⟨-, -, h⟩ <;> rw [State.raise, h]

theorem setPort (s : State) (p : Port) (x : PortState) : Kept s (s.setPort p x) :=
  ⟨⟨by simp, by simp, by simp, by simp, by cases p <;> rfl⟩, by simp, by simp, by simp, by simp⟩

end Kept

theorem Region.takes_of_halted {r : Region} (h : r.engine = .halted) : r.takes = none := by
  simp [Region.takes, h]

theorem State.takeRecord_halted {s : State} (h : s.region.engine = .halted) (tag : Word) (r : Record) :
    s.takeRecord tag r = s := by
  unfold State.takeRecord
  rw [Region.takes_of_halted h]

theorem State.writeBatch_halted {s : State} (h : s.region.engine = .halted) (reads : List CountRead) (failAt : Option Nat) :
    s.writeBatch reads failAt = s := by
  have none_ : s.region.writable = 0 := by simp [Region.writable, h]
  unfold State.writeBatch
  split
  · rfl
  · simp [none_, batchLoop]

theorem State.writeMirror_halted {s : State} (h : s.region.engine = .halted) (failAt : Option (Fin 3)) :
    s.writeMirror failAt = s := by
  simp [State.writeMirror, Region.markedStream, Region.servedMarks, h]

/-- What a command other than RESET and power-on does in HALTED (R21). -/
theorem exec_halted {c : Instr} {s t : State} (h : s.halted = true) (timer : s.region.timer = none) (reset : c ≠ .reset)
    (power : c ≠ .powerOn) (level : ∀ v, c ≠ .noticeLevelWrite v) (k : exec c s = .next t) : Kept s t := by
  have engine : s.region.engine = .halted := by simpa [State.halted] using h
  have idle : s.region.engine.works = false := by simp [engine, EngineState.works]
  have same : ∀ u : State, exec c s = .next u → Kept s u → Kept s t := fun u hu kept => by
    cases hu.symm.trans k
    exact kept
  cases c with
  | powerOn => exact absurd rfl power
  | reset => exact absurd rfl reset
  | noticeLevelWrite v => exact absurd rfl (level v)
  | start header taken fill => exact same s (by simp [exec, execStart, engine]) (.refl s)
  | startDeferred header taken fill =>
    refine same _ rfl ?_
    split
    · exact .refl s
    · split
      · exact .refl s
      · dsimp only
        rw [if_neg (by simp [engine])]
        exact .setRegion s _
  | stop => exact same s (by simp [exec, execStop, engine]) (.refl s)
  | stopComplete => exact same s (by simp [exec, execStopComplete, engine]) (.refl s)
  | scan taken fill => exact same s (by simp [exec, execScan, idle]) (.refl s)
  | resumeIntake w taken fill => exact same s (by simp [exec, execResumeIntake, engine]) (.refl s)
  | clearFault => exact same s (by simp [exec, execClearFault, h]) (.refl s)
  | clearLost => exact same s (by simp [exec, execClearLost, h]) (.refl s)
  | registerWrite reg v =>
    refine same _ rfl ?_
    cases reg with
    | regionLo => exact .setRegion s _
    | regionHi => exact .setRegion s _
    | _ => exact .refl s
  | scanTimerExpiry taken fill => exact same s (by simp [exec, execScanTimerExpiry, timer]) (.refl s)
  | furtherScan taken fill => exact same s (by simp [exec, execFurtherScan, idle]) (.refl s)
  | layc e => exact same s (by simp [exec, execLayc, State.completeLayout, h]) (.refl s)
  | hostAccessFault a o =>
    exact same s (by simp [exec, execHostAccessFault, Region.accesses, engine, EngineState.works]) (.refl s)
  | noticeBatchWrite reads failAt =>
    exact same s (by simp [exec, execNoticeBatchWrite, State.writeBatch_halted engine]) (.refl s)
  | noticeFillAdvance w => exact same s (by simp [exec, execNoticeFillAdvance, State.advanceFill, h]) (.refl s)
  | mirrorRecordWrite failAt =>
    exact same s (by simp [exec, execMirrorRecordWrite, State.writeMirror_halted engine]) (.refl s)
  | tickTurn n => exact same s (by simp [exec, execTickTurn, h]) (.refl s)
  | rlsd n => exact same s (by simp [exec, execRlsd, State.timeRelease, h]) (.refl s)
  | slipWaitEnd n => exact same s (by simp [exec, execSlipWaitEnd, State.endSlip, h]) (.refl s)
  | servicePass => exact same s (by simp [exec, execServicePass, h]) (.refl s)
  | linkPartnerDetected m => exact same s (by simp [exec, execLinkPartnerDetected, h]) (.refl s)
  | attach m b => exact same s (by simp [exec, execAttach, State.receive, h]) (.refl s)
  | memberLinkLost m => exact same s (by simp [exec, execMemberLinkLost, State.loseLink, h]) (.refl s)
  | data m b => exact same s (by simp [exec, execData, State.receive, h]) (.refl s)
  | memberDone m b => exact same s (by simp [exec, execMemberDone, State.receive, h]) (.refl s)
  | memberMessageDiscard m b => exact same s (by simp [exec, execMemberMessageDiscard, State.receive, h]) (.refl s)
  | tagExpiry m g => exact same s (by simp [exec, execTagExpiry, State.expire, h]) (.refl s)
  | holdoffEnd m => exact same s (by simp [exec, execHoldoffEnd, h]) (.refl s)
  | fragmentEligible p => exact same s (by simp [exec, execFragmentEligible, State.transmit, h]) (.refl s)
  | messageSent p => exact same s (by simp [exec, execMessageSent, State.messageEnds, h]) (.refl s)
  | portLinkUp p =>
    refine same _ rfl ?_
    split
    · exact .refl s
    · exact (Kept.setPort s p _).trans (.raise _ _)
  | portLinkDown p =>
    refine same _ rfl ?_
    split
    · have lost := (Kept.setPort s p { s.port p with up := false }).trans (.raise _ (.pdwn p))
      have still : ((s.setPort p { s.port p with up := false }).raise (.pdwn p)).halted = true := by
        simpa [State.halted] using lost.engine.trans engine
      simp only [State.portDown, still, if_true]
      exact lost
    · exact .refl s
  | portFrameReceived p f => exact same s rfl (.refl s)
  | _ => exact same s (by rw [exec_eq_takeRecord s rfl, State.takeRecord_halted engine]) (.refl s)

theorem exec_noticeLevelWrite (v : Word) (s : State) :
    exec (.noticeLevelWrite v) s =
      .next ((s.setRegion { s.region with noticeLevel := v.setWidth 3 }).signalIf
        (decide (v.setWidth 3 < s.region.noticeLevel) && s.region.faultLatch)) := rfl

/-- Settles O6. -/
theorem haltedEngineKeepsItsTables : Obligations.HaltedEngineKeepsItsTables := by
  intro c s t sound halted reset power next
  have engine : s.region.engine = .halted := by simpa [State.halted] using halted
  have timer : s.region.timer = none := by
    by_contra running
    simpa [engine, EngineState.works] using sound.region.timer running
  have scan : s.region.scan = none := by
    by_contra inProgress
    simpa [engine] using (sound.region.scan inProgress).1
  by_cases level : ∃ v, c = .noticeLevelWrite v
  · obtain ⟨v, rfl⟩ := level
    cases (exec_noticeLevelWrite v s).symm.trans next
    unfold State.signalIf
    split
    · next lowered =>
      have lower : v.setWidth 3 < s.region.noticeLevel := by
        simpa [sound.region.latch engine] using lowered
      exact ⟨⟨rfl, rfl, rfl, rfl, rfl⟩, halted, timer, scan, .inr ⟨v, rfl, lower, rfl⟩⟩
    · exact ⟨⟨rfl, rfl, rfl, rfl, rfl⟩, halted, timer, scan, .inl rfl⟩
  · have kept := exec_halted halted timer reset power (fun v e => level ⟨v, e⟩) next
    exact ⟨kept.tables, by simpa [State.halted] using kept.engine.trans engine, kept.timer.trans timer, kept.scan.trans scan,
      .inl kept.sent⟩

/-! ### Power-on and RESET -/

/-- Settles O7. -/
theorem powerOnLeavesTheseValues : Obligations.PowerOnLeavesTheseValues := by
  intro s
  refine ⟨_, exec_powerOn s, rfl, rfl, rfl, rfl, rfl, rfl, rfl, rfl, rfl, rfl, rfl, fun n => ?_, fun e => ?_, fun c => ?_, rfl,
    rfl, rfl, rfl, fun m => ?_, fun p => ?_⟩
  · simp [State.reset, Region.reset, State.stream, Stream.reset, State.presentation, Egress.reset]
  · simp [State.reset, Decoder.reset, LayoutEntry.reset]
  · simp [State.reset, Decoder.reset, State.clip, Clip.reset]
  · simp [State.reset, State.member, Dispatcher.reset, Member.reset]
  · cases p <;> simp [State.reset, State.port, Egress.reset, PortState.reset]

/-- Settles O8. -/
theorem resetLeavesTheseValues : Obligations.ResetLeavesTheseValues := by
  intro s
  have region : s.resetEngine.region = s.region.afterReset := by
    change s.cutBoth.region.afterReset = _
    rw [State.cutBoth_region]
  refine ⟨s.resetEngine, rfl, ?_⟩
  simp only [region]
  refine ⟨rfl, rfl, rfl, (Outer.cutBoth s).et, rfl, rfl, rfl, rfl, rfl, rfl, rfl, rfl, rfl, rfl, rfl, rfl, fun n => ?_,
    fun e => ?_, fun c => ?_, rfl, rfl, rfl, rfl, fun m => ?_, fun p => ?_⟩
  · simp [Region.afterReset, Region.reset, Stream.reset]
  · simp [State.resetEngine, Decoder.reset, LayoutEntry.reset]
  · simp [State.resetEngine, State.clip, Decoder.reset, Clip.reset]
  · rw [State.resetEngine_member]
    simp [Member.afterReset, Member.reset, State.member]
  · simp

/-! ### The register window -/

theorem EngineState.code_lt (e : EngineState) : e.code < 4 := by cases e <;> decide

theorem boolCode_lt (b : Bool) : boolCode b < 2 := by cases b <;> decide

/-- The fields of STATUS are apart from each other (10.2). -/
theorem Region.status_toNat (r : Region) : r.status.toNat =
    r.engine.code + 4 * boolCode (r.intake == .blocked) + 8 * boolCode r.faultLatch + 16 * boolCode r.noticesLost
      + 256 * r.startFault.toNat := by
  have engine := r.engine.code_lt
  have intake := boolCode_lt (r.intake == .blocked)
  have latch := boolCode_lt r.faultLatch
  have lost := boolCode_lt r.noticesLost
  have fault := r.startFault.isLt
  exact Nat.mod_eq_of_lt (by omega)

theorem Region.status_shows (r : Region) : r.ShowsStatus r.status := by
  have engine := r.engine.code_lt
  have intake := boolCode_lt (r.intake == .blocked)
  have latch := boolCode_lt r.faultLatch
  have lost := boolCode_lt r.noticesLost
  have fault := r.startFault.isLt
  unfold Region.ShowsStatus
  rw [r.status_toNat]
  refine ⟨?_, ?_, ?_, ?_, by omega, by omega, by omega⟩
  · trans r.engine.code
    · omega
    · cases r.engine <;> rfl
  · have blocked : boolCode (r.intake == .blocked) = if r.intake = .blocked then 1 else 0 := by simp [boolCode]
    omega
  · have set_ : boolCode r.faultLatch = if r.faultLatch = true then 1 else 0 := rfl
    omega
  · have set_ : boolCode r.noticesLost = if r.noticesLost = true then 1 else 0 := rfl
    omega

/-- One MSI goes out if the condition holds, and nothing else happens (R17). -/
theorem State.signalIf_eq (s : State) (b : Bool) :
    s.signalIf b = if b then { s with sent := s.sent ++ [.msi] } else s := rfl

theorem readRegister_noticeLevel (r : Region) :
    ∃ w, readRegister r 0x14 = some w ∧ w.toNat = r.noticeLevel.toNat := by
  refine ⟨r.noticeLevel.setWidth 32, rfl, ?_⟩
  have level := r.noticeLevel.isLt
  rw [BitVec.toNat_setWidth]
  omega

/-- Settles O9. -/
theorem controlActionsAndRegisters : Obligations.ControlActionsAndRegisters := by
  have awake : ∀ s : State, s.region.engine ≠ .halted → s.halted = false := fun s h => by simpa [State.halted] using h
  refine ⟨⟨fun h a b w v s => ⟨?_, ?_, ?_, ?_, ?_, fun _ => rfl, rfl, rfl⟩, fun v s => ⟨fun h => ?_, rfl, rfl⟩⟩, fun v s => ?_,
    fun r => ⟨rfl, rfl, rfl, rfl, ⟨_, rfl, r.status_shows⟩, readRegister_noticeLevel r⟩, fun v s => ⟨⟨_, rfl, rfl⟩, ⟨_, rfl, rfl⟩, ?_⟩⟩
  · intro engine
    simp [exec, execStart, engine]
  · intro engine
    simp [exec, execStop, engine]
  · intro engine
    have idle : s.region.engine.works = false := by
      rcases engine with e | e <;> simp [e, EngineState.works]
    simp [exec, execScan, idle]
  · intro off
    have idle : ¬ (s.region.engine = .running ∧ s.region.intake = .blocked) := by
      rintro ⟨running, blocked⟩
      rcases off with e | e
      · exact e running
      · simp [blocked] at e
    simp only [exec, execResumeIntake, if_neg idle]
  · intro engine
    have halted : s.halted = true := by simp [State.halted, engine]
    simp [exec, execClearFault, execClearLost, halted]
  · simp only [exec, execClearFault, execClearLost, awake s h]
    exact ⟨rfl, rfl⟩
  · refine ⟨_, exec_noticeLevelWrite v s, ?_⟩
    have low : (v.setWidth 3).toNat = v.toNat % 8 := by simp
    rw [State.signalIf_eq]
    by_cases lowered : s.region.faultLatch = true ∧ v.toNat % 8 < s.region.noticeLevel.toNat
    · obtain ⟨latch, below⟩ := lowered
      have below' : v.setWidth 3 < s.region.noticeLevel := by
        rw [BitVec.lt_def]
        omega
      simp only [latch, below', decide_true, Bool.and_self, if_true]
      refine ⟨low, rfl, fun _ => by rfl, fun other => absurd other ?_⟩
      simp only [reduceCtorEq, false_or]
      omega
    · have quiet : (decide (v.setWidth 3 < s.region.noticeLevel) && s.region.faultLatch) = false := by
        rw [Bool.and_eq_false_iff, decide_eq_false_iff_not, BitVec.lt_def, low]
        cases latch : s.region.faultLatch with
        | false => exact .inr rfl
        | true => exact .inl fun below => lowered ⟨latch, below⟩
      rw [quiet]
      exact ⟨low, rfl, fun signal => absurd signal lowered, fun _ => rfl⟩
  · refine ⟨_, (v.setWidth 3).setWidth 32, exec_noticeLevelWrite v s, ?_, ?_⟩
    · rw [State.signalIf_eq]
      split <;> rfl
    · simp
      omega

end Sys2Proof.Machine
end

section
/-! SUPPORT. Starting, scans, structural faults and host-access faults (R4, R5, R9 to R11, R14, R19, R20): what each
operation of the Region Interface does, said once, and the statements about them. -/

namespace Sys2Proof.Machine

/-! ### Raising, faults and HALTED -/

/-- A notice that the writer has room for is held (R15). -/
theorem State.raise_held {s : State} (b : NoticeBody) (awake : s.region.engine ≠ .halted)
    (room : s.region.notices.length < Config.heldNotices) :
    s.raise b = { s with region := { s.region with notices := s.region.notices ++ [⟨b, s.et⟩] } } := by
  have held : ¬ (s.halted || decide (Config.heldNotices ≤ s.region.notices.length)) = true := by
    simpa [State.halted, awake] using room
  unfold State.raise State.raiseAt
  rw [if_neg held]
  rfl

/-- The first host-access fault (R19). -/
theorem State.hostFault_clear {s : State} (a : Access) (o : Nat) (clear : s.region.faultLatch = false)
    (awake : s.region.engine ≠ .halted) (room : s.region.notices.length < Config.heldNotices) :
    s.hostFault a o =
      { s with
        region :=
          ({ s.region with
              faultLatch := true, notices := s.region.notices ++ [⟨.hacc a (BitVec.ofNat 32 o), s.et⟩] } : Region).giveUp a } := by
  unfold State.hostFault
  rw [if_neg (by simp [clear])]
  dsimp only
  rw [State.raise_held _ (by simpa using awake) (by simpa using room)]
  rfl

/-- The second host-access fault (R20). -/
theorem State.hostFault_set {s : State} (a : Access) (o : Nat) (set_ : s.region.faultLatch = true) : s.hostFault a o = s.halt := by
  unfold State.hostFault
  rw [if_pos set_]

/-- `t` is `s` with the engine HALTED, everything else kept but what the ports were sending (R20, R21). -/
structure Halts (s t : State) : Prop where
  region : t.region = { s.region with engine := .halted, timer := none, scan := none }
  tables : s.SameTables t
  ports : ∀ p : Port, (t.port p).transmitting = none ∧ (t.port p).up = (s.port p).up ∧
    (t.port p).allocated = (s.port p).allocated

theorem State.halt_halts (s : State) : Halts s s.halt := by
  have cut := Outer.cutBoth (s.setRegion { s.region with engine := .halted, timer := none, scan := none })
  exact ⟨by simp [State.halt], cut.tables, fun p =>
    ⟨State.cutBoth_idle _ p, (cut.up p).trans (by simp), (cut.allocated p).trans (by simp)⟩⟩

/-! ### START -/

theorem logSizes_iff (n : Nat) : logSizes.contains n = true ↔ ∃ k, 12 ≤ k ∧ k ≤ 20 ∧ n = 2 ^ k := by
  constructor
  · intro h
    have cases_ : n = 4096 ∨ n = 8192 ∨ n = 16384 ∨ n = 32768 ∨ n = 65536 ∨ n = 131072 ∨ n = 262144 ∨ n = 524288 ∨
        n = 1048576 := by simpa [logSizes] using h
    rcases cases_ with h | h | h | h | h | h | h | h | h
    exacts [⟨12, by omega⟩, ⟨13, by omega⟩, ⟨14, by omega⟩, ⟨15, by omega⟩, ⟨16, by omega⟩, ⟨17, by omega⟩,
      ⟨18, by omega⟩, ⟨19, by omega⟩, ⟨20, by omega⟩]
  · rintro ⟨k, low, high, rfl⟩
    interval_cases k <;> decide

/-- The test that headerRefusal makes for a check of R4. -/
def headerFails (h : List Byte) : Nat → Prop
  | 3 => u32 h 0x00 ≠ 1
  | 4 => u32 h 0x04 % 4096 ≠ 0 ∨ u32 h 0x04 = 0 ∨ 67108864 < u32 h 0x04
  | 5 => (!logSizes.contains (u32 h 0x0C)) = true
  | 6 => (!logSizes.contains (u32 h 0x14)) = true
  | 7 =>
    let orders := (u32 h 0x08, u32 h 0x0C)
    let notices := (u32 h 0x10, u32 h 0x14)
    let mirror := (u32 h 0x18, 4096)
    let header := (0, 256)
    (!(placed (u32 h 0x04) orders && placed (u32 h 0x04) notices && placed (u32 h 0x04) mirror && apart orders notices
      && apart orders mirror && apart notices mirror && apart orders header && apart notices header
      && apart mirror header)) = true
  | 8 => u32 h 0x44 % 8 ≠ 0 ∨ u32 h 0x48 % 8 ≠ 0 ∨ u32 h 0x14 < (w32 h 0x48 - w32 h 0x4C).toNat
  | _ => False

theorem headerFails_iff (h : List Byte) : ∀ k, headerFails h k ↔ ¬ HeaderCheck h k
  | 3 => Iff.rfl
  | 4 => by
    change (_ ∨ _ ∨ _) ↔ ¬ (u32 h 0x04 % 4096 = 0 ∧ u32 h 0x04 ≠ 0 ∧ u32 h 0x04 ≤ 64 * 1048576)
    omega
  | 5 => by
    change (!logSizes.contains _) = true ↔ ¬ ∃ k, _
    rw [Bool.not_eq_true', ← Bool.not_eq_true, logSizes_iff]
  | 6 => by
    change (!logSizes.contains _) = true ↔ ¬ ∃ k, _
    rw [Bool.not_eq_true', ← Bool.not_eq_true, logSizes_iff]
  | 7 => by
    unfold headerFails HeaderCheck
    simp only [placed, apart, Bool.not_eq_true', ← Bool.not_eq_true, not_iff_not]
    simp
    omega
  | 8 => by
    change (_ ∨ _ ∨ _) ↔
      ¬ (u32 h 0x44 % 8 = 0 ∧ u32 h 0x48 % 8 = 0 ∧ (w32 h 0x48 - w32 h 0x4C).toNat ≤ u32 h 0x14)
    omega
  | 0 => by simp [headerFails, HeaderCheck]
  | 1 => by simp [headerFails, HeaderCheck]
  | 2 => by simp [headerFails, HeaderCheck]
  | n + 9 => by simp [headerFails, HeaderCheck]

/-- The first check of R4 that fails gives its code. -/
theorem headerRefusal_first {h : List Byte} {code : Nat} (low : 3 ≤ code) (high : code ≤ 8) (fails : ¬ HeaderCheck h code)
    (earlier : ∀ k, k < code → HeaderCheck h k) : headerRefusal h = some (BitVec.ofNat 4 code) := by
  have here := (headerFails_iff h code).2 fails
  have passes : ∀ k, k < code → ¬ headerFails h k := fun k hk bad => (headerFails_iff h k).1 bad (earlier k hk)
  have p3 := passes 3
  have p4 := passes 4
  have p5 := passes 5
  have p6 := passes 6
  have p7 := passes 7
  unfold headerRefusal
  interval_cases code
  · exact if_pos here
  · exact (if_neg (p3 (by omega))).trans (if_pos here)
  · exact (if_neg (p3 (by omega))).trans ((if_neg (p4 (by omega))).trans (if_pos here))
  · exact (if_neg (p3 (by omega))).trans ((if_neg (p4 (by omega))).trans ((if_neg (p5 (by omega))).trans (if_pos here)))
  · exact (if_neg (p3 (by omega))).trans ((if_neg (p4 (by omega))).trans ((if_neg (p5 (by omega))).trans
      ((if_neg (p6 (by omega))).trans (if_pos here))))
  · exact (if_neg (p3 (by omega))).trans ((if_neg (p4 (by omega))).trans ((if_neg (p5 (by omega))).trans
      ((if_neg (p6 (by omega))).trans ((if_neg (p7 (by omega))).trans (if_pos here)))))

/-- A header that passes every check of R4 is not refused. -/
theorem headerRefusal_none {h : List Byte} (ok : ∀ k, HeaderCheck h k) : headerRefusal h = none := by
  have passes : ∀ k, ¬ headerFails h k := fun k bad => (headerFails_iff h k).1 bad (ok k)
  exact (if_neg (passes 3)).trans ((if_neg (passes 4)).trans ((if_neg (passes 5)).trans ((if_neg (passes 6)).trans
    ((if_neg (passes 7)).trans (if_neg (passes 8))))))

/-- A START that is refused by its base or its header (R4). -/
theorem State.proceed_refused {s : State} {since : Time} {header : HeaderRead} {a b : CountRead} {code : Nat}
    (h : (code = 1 ∧ (s.region.regionHi ++ s.region.regionLo : BitVec 64).toNat % 4096 ≠ 0) ∨
      ∃ h, header = .bytes h ∧ (s.region.regionHi ++ s.region.regionLo : BitVec 64).toNat % 4096 = 0 ∧ 3 ≤ code ∧ code ≤ 8 ∧
        ¬ HeaderCheck h code ∧ ∀ k, k < code → HeaderCheck h k) :
    s.proceed since header a b =
      { s with
        region :=
          { s.region with base := s.region.regionHi ++ s.region.regionLo, startFault := BitVec.ofNat 4 code } } := by
  unfold State.proceed
  rcases h with ⟨rfl, base⟩ | ⟨h, rfl, base, low, high, fails, earlier⟩
  · dsimp only
    rw [if_pos base]
    rfl
  · dsimp only
    rw [if_neg (by simpa using base), headerRefusal_first low high fails earlier]
    rfl

/-- A START whose read of the header fails (R4, R19, R20). -/
theorem State.proceed_failed {s : State} {since : Time} {a b : CountRead}
    (base : (s.region.regionHi ++ s.region.regionLo : BitVec 64).toNat % 4096 = 0) :
    s.proceed since .failed a b =
      (s.setRegion
        { s.region with startFault := 2, base := s.region.regionHi ++ s.region.regionLo }).headerFault := by
  unfold State.proceed
  dsimp only
  rw [if_neg (by simpa using base)]
  rfl

theorem exec_start {s : State} (header : HeaderRead) (a b : CountRead) (stopped : s.region.engine = .stopped)
    (rest : s.region.writersBusy = false) : exec (.start header a b) s = .next (s.proceed s.et header a b) := by
  simp [exec, execStart, stopped, rest]

/-- A START that waited, in STOPPED with the writers at rest (R4). -/
theorem exec_startDeferred {s : State} {since : Time} (header : HeaderRead) (a b : CountRead)
    (waiting : s.region.startWaiting = some since) (stopped : s.region.engine = .stopped)
    (rest : s.region.writersBusy = false) :
    exec (.startDeferred header a b) s =
      .next ((s.setRegion { s.region with startWaiting := none }).proceed since header a b) := by
  simp [exec, execStartDeferred, stopped, rest, waiting]

/-- Settles O10. -/
theorem startIsRefusedOrWaits : Obligations.StartIsRefusedOrWaits := by
  refine ⟨fun header a b s code stopped rest => ?_, fun a b s stopped rest base => ?_,
    fun h a b s => ⟨fun stopped busy => ?_, fun busy => ?_, fun waiting rest engine => ?_⟩⟩
  · dsimp only
    refine fun refused => ⟨?_, fun waits => ?_⟩
    · rw [exec_start header a b stopped rest, State.proceed_refused refused]
    · obtain ⟨since, waiting⟩ := Option.ne_none_iff_exists'.1 waits
      rw [exec_startDeferred header a b waiting stopped rest]
      exact congrArg _ (State.proceed_refused refused)
  · refine ⟨_, exec_start .failed a b stopped rest, ?_⟩
    rw [State.proceed_failed base]
    unfold State.headerFault
    split
    · next latch =>
      have halts := State.halt_halts
        (s.setRegion { s.region with startFault := 2, base := s.region.regionHi ++ s.region.regionLo })
      have set_ : s.region.faultLatch = true := by simpa using latch
      rw [halts.region]
      exact ⟨rfl, latch, rfl, rfl, rfl, halts.tables, fun clear => by simp [set_] at clear,
        fun _ => ⟨rfl, rfl, fun p => (halts.ports p).1⟩⟩
    · next latch =>
      exact ⟨rfl, rfl, rfl, rfl, rfl, ⟨rfl, rfl, rfl, rfl, rfl⟩, fun _ => stopped, fun set_ => absurd set_ latch⟩
  · simp [exec, execStart, stopped, busy, State.setRegion]
  · simp only [exec, execStartDeferred]
    split
    · rfl
    · rw [if_pos busy]
  · obtain ⟨since, waiting⟩ := Option.ne_none_iff_exists'.1 waiting
    simp [exec, execStartDeferred, waiting, rest, engine, State.setRegion]

/-! ### Scans -/

theorem Region.usable_iff (r : Region) (v : Word) : r.usable v = true ↔ r.Usable v := by
  simp [Region.usable, Region.Usable]

theorem State.readTaken_usable {s : State} {v : Word} (h : s.region.Usable v) :
    s.readTaken (.value v) = { s with region := { s.region with noticeTaken := v } } := by
  simp only [State.readTaken, (s.region.usable_iff v).2 h, if_true]
  rfl

theorem State.readTaken_unusable {s : State} {v : Word} (h : ¬ s.region.Usable v) : s.readTaken (.value v) = s := by
  have bad : s.region.usable v = false := by
    rw [← Bool.not_eq_true, s.region.usable_iff]
    exact h
  simp only [State.readTaken, bad, Bool.false_eq_true, if_false]

/-- A scan that begins without a fault (R10). -/
theorem State.scanPass_ok {s : State} {v f : Word} (usable : s.region.Usable v) (count : s.region.CountOk f) :
    s.scanPass (.value v) (.value f) = { s with region := s.region.scanned v f } := by
  obtain ⟨whole, near⟩ := count
  unfold State.scanPass Region.scanned
  rw [State.readTaken_usable usable]
  by_cases takes : s.region.engine = .running ∧ s.region.intake = .taking
  · dsimp only
    rw [if_pos takes, if_neg (by omega), if_neg (by omega)]
    by_cases same : f = s.region.orderTaken
    · rw [if_pos same, if_neg fun h => h.2.2 same]
    · rw [if_neg same, if_pos ⟨takes.1, takes.2, same⟩]
      rfl
  · dsimp only
    rw [if_neg takes, if_neg fun h => takes ⟨h.1, h.2.1⟩]

/-- A scan whose order fill value fails the count check (R10, R11). -/
theorem State.scanPass_fault {s : State} {v f : Word} (running : s.region.engine = .running) (open_ : s.region.intake = .taking)
    (idle : s.region.scan = none) (usable : s.region.Usable v) (count : ¬ s.region.CountOk f) :
    s.scanPass (.value v) (.value f) =
      ({ s with region := { s.region with noticeTaken := v, intake := .blocked } } : State).raise
        (.rgnf (if f.toNat % 8 = 0 then 4 else 5) (s.region.orderTaken.toNat % s.region.work.orderSize)) := by
  have blocked : ∀ kind, ({ s with region := { s.region with noticeTaken := v } } : State).structuralFault kind =
      ({ s with region := { s.region with noticeTaken := v, intake := .blocked } } : State).raise
        (.rgnf kind (s.region.orderTaken.toNat % s.region.work.orderSize)) := fun kind => by
    unfold State.structuralFault
    rw [← idle]
    rfl
  unfold State.scanPass
  rw [State.readTaken_usable usable]
  dsimp only
  rw [if_pos ⟨running, open_⟩]
  by_cases whole : f.toNat % 8 = 0
  · have far : s.region.work.orderSize < (f - s.region.orderTaken).toNat := by
      by_contra near
      exact count ⟨whole, by omega⟩
    rw [if_neg (by omega), if_pos far, if_pos whole]
    exact blocked 4
  · rw [if_pos whole, if_neg whole]
    exact blocked 5

theorem State.startScan_idle {s : State} (taken fill : CountRead) (h : s.region.scan = none) :
    s.startScan taken fill = s.scanPass taken fill := by
  unfold State.startScan
  rw [h]

theorem State.startScan_busy {s : State} {g : Word} (taken fill : CountRead) (h : s.region.scan = some g) :
    s.startScan taken fill = { s with region := { s.region with scanWanted := true } } := by
  unfold State.startScan
  rw [h]
  rfl

theorem State.reached_of {s : State} {t : Time} (h : t.toNat ≤ s.et.toNat) : s.reached t = true := by
  simpa [State.reached, BitVec.ule] using h

theorem State.not_reached_of {s : State} {t : Time} (h : s.et.toNat < t.toNat) : s.reached t = false := by
  simp [State.reached, BitVec.ule]
  omega

theorem EngineState.works_iff (e : EngineState) : e.works = true ↔ e = .running ∨ e = .stopping := by
  cases e <;> simp [EngineState.works]

theorem exec_scan {s : State} (taken fill : CountRead) (h : s.region.engine.works = true) :
    exec (.scan taken fill) s = .next (s.startScan taken fill) := by
  simp [exec, execScan, h]

theorem exec_scanTimerExpiry {s : State} {e : Time} (taken fill : CountRead) (timer : s.region.timer = some e)
    (reached : e.toNat ≤ s.et.toNat) :
    exec (.scanTimerExpiry taken fill) s =
      .next ((s.setRegion { s.region with timer := some (later e s.region.work.periodNs) }).startScan taken fill) := by
  simp [exec, execScanTimerExpiry, timer, State.reached_of reached]

/-- Settles O13. -/
theorem scansStartOrAreNoted : Obligations.ScansStartOrAreNoted := by
  refine ⟨⟨fun v f s engine idle usable count => ⟨?_, fun e timer due => ?_, fun wanted => ?_⟩,
    fun a b s g engine scan => ⟨?_, fun e timer due => ?_, ?_⟩⟩, fun v f s running blocked idle usable count => ?_⟩
  · rw [exec_scan _ _ ((EngineState.works_iff _).2 engine), State.startScan_idle _ _ idle, State.scanPass_ok usable count]
  · rw [exec_scanTimerExpiry _ _ timer due, State.startScan_idle _ _ (by exact idle),
      State.scanPass_ok (by exact usable) (by exact count)]
    rfl
  · have works := (EngineState.works_iff _).2 engine
    simp only [exec, execFurtherScan, wanted, idle, works, and_self, if_true]
    rw [State.scanPass_ok (by exact usable) (by exact count)]
    rfl
  · rw [exec_scan _ _ ((EngineState.works_iff _).2 engine), State.startScan_busy _ _ scan]
  · rw [exec_scanTimerExpiry _ _ timer due, State.startScan_busy (g := g) _ _ (by exact scan)]
    rfl
  · simp [exec, execFurtherScan, scan]
  · change execResumeIntake .ok (.value v) (.value f) s = _
    unfold execResumeIntake
    rw [if_pos ⟨running, blocked⟩]
    dsimp only
    rw [State.startScan_idle _ _ (by exact idle), State.scanPass_ok (by exact usable) (by exact count)]
    rfl

/-- Settles O14: the checks of R10 on order fill, and those of R11 on a record, in their order. -/
theorem structuralFaultsBlockIntake : Obligations.StructuralFaultsBlockIntake := by
  refine ⟨fun v f s running open_ idle usable count => ?_, fun c tag f r s kind order running open_ scan differs => ?_⟩
  · rw [exec_scan _ _ ((EngineState.works_iff _).2 (.inl running)), State.startScan_idle _ _ idle,
      State.scanPass_fault running open_ idle usable count]
  · dsimp only
    intro faulty
    have takes : s.region.takes = some f := by simp [Region.takes, running, open_, scan, differs]
    have fault : recordFault s.region f r.len.toNat = some kind := by
      unfold recordFault logPosition
      rcases faulty with ⟨rfl, bad⟩ | ⟨rfl, ok, bad⟩ | ⟨rfl, ok, inLog, bad⟩
      · rw [if_pos (by omega)]
      · rw [if_neg (by omega), if_pos (by omega)]
      · rw [if_neg (by omega), if_neg (by omega), if_pos (by omega)]
    rw [exec_eq_takeRecord s order]
    unfold State.takeRecord
    rw [takes]
    dsimp only
    rw [fault]
    rfl

/-! ### Host-access faults -/

theorem Region.accesses_awake {r : Region} (h : r.accesses = true) : r.engine ≠ .halted := by
  intro e
  simp [Region.accesses, e, EngineState.works] at h

/-- The marks that the mirror writer serves, unless the engine is HALTED (R18). -/
theorem Region.servedMarks_awake {r : Region} (h : r.engine ≠ .halted) :
    r.servedMarks = some (if r.engine = .stopped then r.stopMarks else r.marks) := by
  unfold Region.servedMarks
  cases e : r.engine with
  | halted => exact absurd e h
  | _ => simp

/-- The held notices that the writer may write, unless the engine is HALTED (R15). -/
theorem Region.writable_awake {r : Region} (h : r.engine ≠ .halted) :
    r.writable = if r.engine = .stopped then min r.stopNotices r.notices.length else r.notices.length := by
  unfold Region.writable
  cases e : r.engine with
  | halted => exact absurd e h
  | _ => simp

theorem find?_finRange_eq_some {n : Nat} {p : Fin n → Bool} {i : Fin n} (h : p i = true) (first : ∀ k, k < i → p k = false) :
    (List.finRange n).find? p = some i := by
  refine List.find?_eq_some_iff_getElem.2 ⟨h, i.val, by simp, by simp, fun j hj => ?_⟩
  simp [first ⟨j, by omega⟩ hj]

/-- The lowest marked stream is the one that the mirror writer serves (R18). -/
theorem Region.markedStream_some {r : Region} {n : StreamId} (awake : r.engine ≠ .halted)
    (marked : (if r.engine = .stopped then r.stopMarks else r.marks)[n] = true)
    (lowest : ∀ k : StreamId, k < n → (if r.engine = .stopped then r.stopMarks else r.marks)[k] = false) :
    r.markedStream = some n := by
  unfold Region.markedStream
  rw [r.servedMarks_awake awake]
  exact find?_finRange_eq_some marked lowest

theorem Region.markedStream_none {r : Region} (awake : r.engine ≠ .halted)
    (clear : ∀ k : StreamId, (if r.engine = .stopped then r.stopMarks else r.marks)[k] = false) : r.markedStream = none := by
  unfold Region.markedStream
  rw [r.servedMarks_awake awake]
  exact List.find?_eq_none.2 fun k _ => by simp [clear k]

/-- The offset at which a host-access that PCIe reports as failed was aimed (R19). -/
def Region.aimed (r : Region) (o : Word) : Access → Nat
  | .orderFillRead => offOrderFill
  | .orderRecordRead => r.work.orderOffset + logPosition r.orderTaken r.work.orderSize
  | .orderTakenWrite => offOrderTaken
  | .noticeTakenRead => offNoticeTaken
  | .noticeFillWrite => offNoticeFill
  | .noticeWrite => o.toNat
  | .statusWrite => o.toNat

/-- The notices lost with a batch whose write failed before it was covered (R17, R19). -/
def Region.lostNotices (r : Region) (a : Access) : Nat :=
  if a ≠ .noticeWrite ∨ r.batch ≠ none then 0
  else if r.engine = .stopped then min r.stopNotices r.notices.length
  else r.notices.length

theorem State.popNotices_zero (s : State) : s.popNotices 0 = s := by simp [State.popNotices, State.setRegion]

/-- A failed access, but for a failed write of a status record that the mirror writer serves (R19). -/
theorem State.accessFails_eq {s : State} {a : Access} {o : Word} (awake : s.region.engine ≠ .halted)
    (h : a ≠ .statusWrite ∨ s.region.markedStream = none) :
    s.accessFails a o = (s.popNotices (s.region.lostNotices a)).hostFault a (s.region.aimed o a) := by
  cases a with
  | statusWrite =>
    have none_ : s.region.markedStream = none := h.resolve_left (by simp)
    simp [State.accessFails, none_, Region.lostNotices, State.popNotices_zero, Region.aimed]
  | noticeWrite =>
    unfold State.accessFails Region.lostNotices
    dsimp only
    cases batch : s.region.batch with
    | some b => simp [State.popNotices_zero, Region.aimed]
    | none => simp [Region.writable_awake awake, Region.aimed]
  | _ => simp [State.accessFails, Region.lostNotices, State.popNotices_zero, Region.aimed]

/-- The writing of a status record that fails (R18, R19). -/
theorem State.writeMirror_fails {s : State} {n : StreamId} (k : Fin 3) (h : s.region.markedStream = some n) :
    s.writeMirror (some k) =
      ((s.setRegion
          { s.region with
            marks := s.region.marks.set n false, stopMarks := s.region.stopMarks.set n false
            changeCounts := s.region.changeCounts.set n (s.region.changeCounts[n] + 2) }).hostWrites
        ((mirrorWrites (s.region.work.mirrorOffset + 64 * n) s.region.changeCounts[n] (s.stream n)).take k)).hostFault
          .statusWrite (s.region.work.mirrorOffset + 64 * n + if k = 1 then 4 else 0) := by
  unfold State.writeMirror
  rw [h]

theorem State.accessFails_status {s : State} {n : StreamId} {o : Word} (h : s.region.markedStream = some n) :
    s.accessFails .statusWrite o =
      s.writeMirror (some (if o.toNat = s.region.work.mirrorOffset + 64 * n + 4 then 1 else 0)) := by
  unfold State.accessFails
  rw [h]

theorem exec_hostAccessFault {s : State} (a : Access) (o : Word) (h : s.region.accesses = true) :
    exec (.hostAccessFault a o) s = .next (s.accessFails a o) := by
  simp [exec, execHostAccessFault, h]

end Sys2Proof.Machine
end

section
/-! SUPPORT. Host-access faults, START and STOP: the statements about them. -/

namespace Sys2Proof.Machine

/-- What is left in the state by a first fault, by the kind of access (R19). -/
theorem Region.giveUp_eq (q : Region) (a : Access) : q.giveUp a =
    if a = .orderFillRead ∨ a = .orderRecordRead ∨ a = .orderTakenWrite then { q with intake := .blocked, scan := none }
    else if a = .noticeWrite ∨ a = .noticeFillWrite then { q with batch := none }
    else q := by
  cases a <;> rfl

/-- A first fault of an access other than a served status record's write (R19). -/
theorem State.accessFails_clear {s : State} {a : Access} {o : Word} (awake : s.region.engine ≠ .halted)
    (h : a ≠ .statusWrite ∨ s.region.markedStream = none) (clear : s.region.faultLatch = false)
    (room : s.region.notices.length < Config.heldNotices) :
    s.accessFails a o =
      { s with
        region :=
          ({ s.region with
              faultLatch := true
              notices := s.region.notices.drop (s.region.lostNotices a) ++
                [⟨.hacc a (BitVec.ofNat 32 (s.region.aimed o a)), s.et⟩]
              stopNotices := s.region.stopNotices - s.region.lostNotices a } : Region).giveUp a } := by
  have fewer : (s.region.notices.drop (s.region.lostNotices a)).length < Config.heldNotices := by
    rw [List.length_drop]
    omega
  rw [State.accessFails_eq awake h, State.hostFault_clear _ _ (by exact clear) (by exact awake) (by exact fewer)]
  rfl

/-- Settles O15. -/
theorem hostAccessFaults : Obligations.HostAccessFaults := by
  intro a o s accesses
  have awake := Region.accesses_awake accesses
  rw [exec_hostAccessFault a o accesses]
  dsimp only
  refine ⟨fun h => ?_, fun n status marked lowest => ?_⟩
  · have unserved := h.imp_right (Region.markedStream_none awake)
    refine ⟨fun clear room => ?_, fun latch => ⟨_, rfl, ?_⟩⟩
    · rw [State.accessFails_clear awake unserved clear room, Region.giveUp_eq]
      cases a <;> simp [Region.aimed, offOrderFill, offOrderTaken, offNoticeTaken, offNoticeFill, logPosition, Region.lostNotices]
    · rw [State.accessFails_eq awake unserved, State.hostFault_set _ _ (by exact latch)]
      have halts := State.halt_halts (s.popNotices (s.region.lostNotices a))
      exact ⟨halts.region, halts.tables, halts.ports⟩
  · subst status
    have served := Region.markedStream_some awake marked lowest
    rw [State.accessFails_status served, State.writeMirror_fails _ served, State.hostWrites_eq]
    refine ⟨fun clear room => ?_, fun latch => ⟨_, rfl, ?_⟩⟩
    · rw [State.hostFault_clear _ _ (by exact clear) (by exact awake) (by exact room)]
      split
      · simp [mirrorWrites, Region.giveUp, Region.writeAt, State.setRegion]
      · simp [mirrorWrites, Region.giveUp, Region.writeAt, State.setRegion]
    · rw [State.hostFault_set _ _ (by exact latch)]
      have halts := State.halt_halts
      exact ⟨(halts _).region, (halts _).tables, (halts _).ports⟩

/-! ### START takes effect -/

/-- The Region Interface that a header gives, but for notice taken, the scan and the scan timer (R4, R5). -/
def Region.started (r : Region) (h : List Byte) : Region :=
  { r with
    work := workingOf h, orderTaken := w32 h 0x44, noticeFill := w32 h 0x48, engine := .running, intake := .taking
    marks := Vector.replicate 64 true, startWaiting := none }

/-- A scan that begins takes its own value of notice taken into use, and has nothing to do with the timer. -/
theorem Region.scanned_setTimer (r : Region) (x v f : Word) (t : Option Time) :
    ({ r with noticeTaken := x, timer := t } : Region).scanned v f = { r.scanned v f with timer := t } := by
  unfold Region.scanned
  split <;> rfl

theorem State.enterRunning_eq {s : State} {h : List Byte} {since : Time} {v f : Word} (idle : s.region.scan = none)
    (usable : (s.region.started h).Usable v) (count : (s.region.started h).CountOk f) :
    s.enterRunning h since (.value v) (.value f) =
      allMembers.foldl State.opportunity
        { s with
          region :=
            { (s.region.started h).scanned v f with
              timer := some (firstExpiry since s.et (s.region.started h).work.periodNs) }
          buffer := { s.buffer with reserve := min (u32 h 0x20) 16384 } } := by
  have scans : ∀ x : Word,
      (((s.setRegion { s.region.started h with
          noticeTaken := x, timer := some (firstExpiry since s.et (s.region.started h).work.periodNs) }).setBuffer
        { s.buffer with reserve := min (u32 h 0x20) 16384 }).startScan (.value v) (.value f)) =
      { s with
        region :=
          { (s.region.started h).scanned v f with
            timer := some (firstExpiry since s.et (s.region.started h).work.periodNs) }
        buffer := { s.buffer with reserve := min (u32 h 0x20) 16384 } } := fun x => by
    rw [State.startScan_idle _ _ (by exact idle), State.scanPass_ok (by exact usable) (by exact count),
      ← Region.scanned_setTimer (x := x)]
    rfl
  unfold State.enterRunning
  dsimp only
  split
  · rw [← scans (w32 h 0x4C)]
    rfl
  · rw [← scans s.region.noticeTaken]
    rfl

theorem State.proceed_starts {s : State} {since : Time} {h : List Byte} {a b : CountRead}
    (base : (s.region.regionHi ++ s.region.regionLo : BitVec 64).toNat % 4096 = 0) (ok : ∀ k, HeaderCheck h k) :
    s.proceed since (.bytes h) a b =
      (s.setRegion { s.region with startFault := 0, base := s.region.regionHi ++ s.region.regionLo }).enterRunning h since a b := by
  unfold State.proceed
  dsimp only
  rw [if_neg (by simpa using base), headerRefusal_none ok]

/-- Settles O11. -/
theorem startRunsTheEngine : Obligations.StartRunsTheEngine := by
  intro h v f s c since stopped rest idle command base ok
  dsimp only
  intro usable count
  set period := 1000 * min (max (u32 h 0x1C) 20) 1000 with hperiod
  have positive : 0 < period := by omega
  have ran : ∀ w : Option Time, ∃ t,
      (s.setRegion { s.region with startWaiting := w }).proceed since (.bytes h) (.value v) (.value f) = t ∧
        Calm (fun _ => False)
          { s with
            region :=
              { (({ s.region with
                    startWaiting := none, startFault := 0, base := s.region.regionHi ++ s.region.regionLo } : Region).started
                  h).scanned v f with
                timer := some (firstExpiry since s.et period) }
            buffer := { s.buffer with reserve := min (u32 h 0x20) 16384 } } t := fun w => by
    refine ⟨_, State.proceed_starts base ok, ?_⟩
    rw [State.enterRunning_eq (by exact idle) (by exact usable) (by exact count)]
    exact Calm.foldl Calm.opportunity _ _
  have taken : ∃ w, exec c s =
      .next ((s.setRegion { s.region with startWaiting := w }).proceed since (.bytes h) (.value v) (.value f)) := by
    rcases command with ⟨rfl, rfl⟩ | ⟨rfl, waiting⟩
    · exact ⟨s.region.startWaiting, exec_start _ _ _ stopped rest⟩
    · exact ⟨none, exec_startDeferred _ _ _ waiting stopped rest⟩
  obtain ⟨w, taken⟩ := taken
  obtain ⟨t, rfl, calm⟩ := ran w
  refine ⟨_, (s.et - since).toNat / period + 1, taken, Nat.le_add_left 1 _, ?_, ?_, calm⟩
  · exact Nat.div_mul_le_self _ _
  · rw [Nat.mul_comm]
    exact Nat.lt_mul_div_succ _ positive

/-! ### STOP -/

/-- Nothing is sent on any port, and no stream has a presentation. -/
structure State.Quiescent (s : State) : Prop where
  idle : ∀ p : Port, (s.port p).transmitting = none
  none_ : ∀ n : StreamId, s.presentation n = none

namespace State.Quiescent

theorem mild {s t : State} (h : s.Quiescent) (k : Mild (fun _ => False) s t) : t.Quiescent := by
  refine ⟨fun p => ?_, fun n => k.quiet n id (h.none_ n)⟩
  by_contra busy
  obtain ⟨x, hx⟩ := Option.ne_none_iff_exists'.1 busy
  rcases k.sending p x hx with before | record | impossible
  · simp [h.idle p] at before
  · exact record (h.none_ _)
  · exact impossible

theorem setStream {s : State} (h : s.Quiescent) (n : StreamId) (x : Stream) : (s.setStream n x).Quiescent :=
  ⟨fun p => by simpa using h.idle p, fun k => by simpa using h.none_ k⟩

theorem setPresentation {s : State} (h : s.Quiescent) (n : StreamId) : (s.setPresentation n none).Quiescent := by
  refine ⟨fun p => by cases p <;> [exact h.idle .e0; exact h.idle .e1], fun k => ?_⟩
  by_cases e : n = k
  · subst e
    simp
  · rw [State.setPresentation_presentation_ne s _ e]
    exact h.none_ k

theorem discard {s : State} (h : s.Quiescent) (n : StreamId) : (s.discard n).Quiescent :=
  (h.setStream n _).mild (Calm.foldl (Calm.giveBack n) _ _).toMild

theorem closeStream {s : State} (h : s.Quiescent) (n : StreamId) : (s.closeStream n).Quiescent := by
  rw [State.closeStream_eq]
  have emptied : (s.emptied n).Quiescent :=
    (((h.setPresentation n).mild (Calm.cutStream _ n _).toMild).discard n).mild (Calm.emptiedEnd n _ _).toMild
  exact ((((emptied.mild (Calm.withdrawRate _ _ _)).setStream n _).mild (Calm.markMirror _ n).toMild).mild
    (Calm.abandon _ n _).toMild)

end State.Quiescent

/-- Stream `n` has been closed if it was open in `s` (R60). -/
structure State.ClosedBy (s : State) (n : StreamId) (t : State) : Prop where
  closed : (t.stream n).state = .closed
  emptied : s.Opened n → (t.stream n).window = [] ∧ (t.stream n).cues = [] ∧ t.region.marks[n] = true

theorem Region.Near.marks {r q : Region} (h : r.Near q) {n : StreamId} (k : r.marks[n] = true) : q.marks[n] = true := by
  obtain ⟨_, _, _, rfl, -, marks, -, -⟩ := h
  exact marks n k

theorem Stream.Like.state {x y : Stream} (h : x.Like y) : y.state = x.state := by rw [h.1]

theorem Stream.Like.cues {x y : Stream} (h : x.Like y) : y.cues = x.cues := by rw [h.1]

theorem State.ClosedBy.mild {s t u : State} {n : StreamId} {A : StreamId → Prop} (h : s.ClosedBy n t) (k : Mild A t u)
    (off : ¬ A n) : s.ClosedBy n u := by
  have like := k.others n off
  refine ⟨like.state.trans h.closed, fun o => ?_⟩
  obtain ⟨window, cues, mark⟩ := h.emptied o
  refine ⟨?_, like.cues.trans cues, k.region.marks mark⟩
  simpa [window] using like.2

theorem Mild.of_streams {A : StreamId → Prop} {s t : State} (h : Mild A s t) {n : StreamId} (off : ¬ A n) :
    (t.stream n).state = (s.stream n).state := (h.others n off).state

theorem State.closeStream_closedBy (s : State) (n : StreamId) : s.ClosedBy n (s.closeStream n) := by
  rw [State.closeStream_eq]
  have shut : s.ClosedBy n
      ((((s.emptied n).withdrawRate (s.stream n).port ((s.stream n).egress * (s.stream n).unmuted)).setStream n
        ((s.emptied n).stream n).shut).markMirror n) := by
    have self : ((((s.emptied n).withdrawRate (s.stream n).port ((s.stream n).egress * (s.stream n).unmuted)).setStream n
        ((s.emptied n).stream n).shut).markMirror n).stream n = ((s.emptied n).stream n).shut := State.setStream_stream _ n _
    refine ⟨by rw [self]; rfl, fun _ => ⟨by rw [self]; rfl, by rw [self]; rfl, by simp [State.markMirror]⟩⟩
  exact shut.mild (Calm.abandon (A := fun _ => False) _ n _).toMild id

/-- The streams of a list closed one after another, as STOP closes them (R6). -/
structure State.Closing (s : State) (u : State) (l : List StreamId) (t : State) : Prop where
  mild : Mild s.Opened u t
  quiescent : t.Quiescent
  done : ∀ n ∈ l, s.ClosedBy n t
  todo : ∀ n, n ∉ l → (t.stream n).state = (s.stream n).state

namespace State.Closing

theorem step {s u t : State} {l : List StreamId} (h : s.Closing u l t) (n : StreamId) (fresh : n ∉ l) :
    s.Closing u (n :: l) (if (t.stream n).state = .closed then t else t.closeStream n) := by
  have same := h.todo n fresh
  split
  · next closed =>
    refine ⟨h.mild, h.quiescent, fun k hk => ?_, fun k hk => h.todo k fun m => hk (List.mem_cons_of_mem n m)⟩
    rcases List.mem_cons.1 hk with rfl | m
    · exact ⟨closed, fun o => absurd (same.symm.trans closed) o⟩
    · exact h.done k m
  · next open_ =>
    have o : s.Opened n := fun closed => open_ (same.trans closed)
    have close := Calm.closeStream (A := fun k => k = n) t n rfl
    refine ⟨h.mild.trans (Calm.closeStream t n o), h.quiescent.closeStream n, fun k hk => ?_, fun k hk => ?_⟩
    · by_cases e : k = n
      · subst e
        have now := t.closeStream_closedBy k
        exact ⟨now.closed, fun _ => now.emptied open_⟩
      · exact (h.done k ((List.mem_cons.1 hk).resolve_left e)).mild close e
    · obtain ⟨e, m⟩ : k ≠ n ∧ k ∉ l := by simpa using hk
      exact (close.of_streams e).trans (h.todo k m)

theorem foldl {s u t : State} {l : List StreamId} (h : s.Closing u l t) (rest : List StreamId) (nodup : rest.Nodup)
    (fresh : ∀ n ∈ rest, n ∉ l) :
    s.Closing u (rest.reverse ++ l)
      (rest.foldl (fun s n => if (s.stream n).state = .closed then s else s.closeStream n) t) := by
  induction rest generalizing t l with
  | nil => exact h
  | cons n rest ih =>
    obtain ⟨notMem, nodup⟩ := List.nodup_cons.1 nodup
    have next := ih (h.step n (fresh n List.mem_cons_self)) nodup fun k hk => by
      simp only [List.mem_cons, not_or]
      exact ⟨fun e => notMem (e ▸ hk), fresh k (List.mem_cons_of_mem n hk)⟩
    simpa using next

end State.Closing

theorem freeEntry_hold (l : List Nat) (s : State) :
    (l.foldl State.freeEntry s).decoder.hold = s.decoder.hold.filter fun d => !l.contains d := by
  induction l generalizing s with
  | nil => simp
  | cons d rest ih =>
    rw [List.foldl_cons, ih]
    simp only [State.freeEntry, State.setDecoder_decoder, List.filter_filter]
    refine List.filter_congr fun x _ => ?_
    simp only [List.contains_cons, Bool.not_or, bne]
    rw [Bool.and_comm]

theorem State.Closing.calm {s u t t' : State} {l : List StreamId} (h : s.Closing u l t) (k : Calm (fun _ => False) t t') :
    s.Closing u l t' :=
  ⟨h.mild.trans (k.mono fun _ f => f.elim).toMild, h.quiescent.mild k.toMild, fun n hn => (h.done n hn).mild k.toMild id,
    fun n hn => (k.of_streams id).trans (h.todo n hn)⟩

/-- Every presentation record dropped. -/
theorem Mild.cut {A : StreamId → Prop} (s : State) :
    Mild A s (s.setEgress { s.egress with presentations := Vector.replicate 64 none }) :=
  ⟨rfl, rfl, .refl _, rfl, rfl, fun _ => ⟨rfl, rfl, rfl, rfl⟩, rfl, fun _ => rfl, fun p => by cases p <;> exact le_rfl,
    fun p => by cases p <;> rfl, id, ⟨[], by simp, by simp⟩, fun n _ _ => by simp [State.presentation],
    fun p _ h => .inl (by cases p <;> exact h), fun _ _ => .refl _⟩

/-- STOP before it closes any stream (R6). -/
theorem State.Closing.start (s u : State) (same : u.streams = s.streams) :
    s.Closing u [] (u.setEgress { u.egress with presentations := Vector.replicate 64 none }).cutBoth := by
  set v := u.setEgress { u.egress with presentations := Vector.replicate 64 none } with hv
  have cut : Calm (fun _ => False) v v.cutBoth := (Calm.cutTransmission _ .e0).trans (Calm.cutTransmission _ .e1)
  refine ⟨(Mild.cut u).trans (cut.mono fun _ f => f.elim).toMild, ⟨State.cutBoth_idle _, fun n => cut.quiet n id ?_⟩,
    fun n hn => absurd hn List.not_mem_nil, fun n _ => (cut.of_streams id).trans ?_⟩
  · simp [hv, State.presentation]
  · simp [hv, State.stream, same]

/-- What STOP leaves (R6). -/
theorem State.stopRunning_closing (s : State) :
    s.stopRunning.decoder.hold = [] ∧
      s.Closing { s with region := { s.region with engine := .stopping, scan := none } } allStreams.reverse s.stopRunning := by
  have closed := (State.Closing.start s { s with region := { s.region with engine := .stopping, scan := none } } rfl).foldl
    allStreams (List.nodup_finRange 64) fun n _ => List.not_mem_nil
  rw [List.append_nil] at closed
  refine ⟨?_, (closed.calm (Calm.markStaleWhere _ _)).calm (Calm.foldl Calm.freeEntry _ _)⟩
  unfold State.stopRunning
  dsimp only
  rw [freeEntry_hold]
  simp

theorem State.enterStopped_eq {s : State}
    (room : s.region.notices.length < Config.heldNotices) :
    s.enterStopped =
      { s with
        region :=
          { s.region with
            engine := .stopped, timer := none, scan := none, scanWanted := false
            notices := s.region.notices ++ [⟨.stpd, s.et⟩], stopNotices := s.region.notices.length + 1
            stopMarks := s.region.marks } } := by
  unfold State.enterStopped
  dsimp only
  rw [State.raise_held _ (by simp) (by exact room)]
  simp [State.setRegion]

/-- Settles O12. -/
theorem stopClosesEveryStream : Obligations.StopClosesEveryStream := by
  refine ⟨fun s running => ?_, fun s stopping room => ⟨fun rest => ?_, fun m g d o e l issued => ?_⟩⟩
  · obtain ⟨hold, closing⟩ := s.stopRunning_closing
    refine ⟨s.stopRunning, by simp [exec, execStop, running], closing.mild, fun n => ?_, closing.quiescent.idle, hold,
      fun m b sent => ?_⟩
    · have done := closing.done n (by simp [allStreams])
      exact ⟨done.closed, closing.quiescent.none_ n, done.emptied⟩
    · obtain ⟨l, hl, inner⟩ := closing.mild.outputs
      rw [hl, List.mem_append] at sent
      refine sent.resolve_right fun new => ?_
      have bad := (inner _ new).2 rfl
      simp at bad
  · have none_ : s.anyIssued = false := by
      simp only [State.anyIssued, List.any_eq_false, Bool.not_eq_true]
      intro m _ g _
      rcases rest m g with h | h <;> rw [h] <;> rfl
    rw [← State.enterStopped_eq room]
    simp [exec, execStopComplete, stopping, none_]
  · have some_ : s.anyIssued = true := by
      simp only [State.anyIssued, List.any_eq_true]
      exact ⟨m, List.mem_finRange m, g, List.mem_finRange g, by rw [issued]; rfl⟩
    simp [exec, execStopComplete, some_]

end Sys2Proof.Machine
end

section
/-! SUPPORT. The byte layouts (10): reading a little-endian field back, and the notices (10.5). -/

namespace Sys2Proof.Machine

/-! ### Fields -/

theorem u8_field {b : List Byte} {i v : Nat} (h : bytesAt b i 1 = le 1 v) : u8 b i = v % 256 := by
  have byte : b.getD i 0 = BitVec.ofNat 8 (v % 256) := List.cons.inj h |>.1
  rw [u8, byte]
  simp

theorem bytesAt_add (b : List Byte) (i m n : Nat) : bytesAt b i (m + n) = bytesAt b i m ++ bytesAt b (i + m) n := by
  induction m generalizing i with
  | zero => simp [bytesAt]
  | succ m ih =>
    rw [Nat.succ_add, bytesAt, bytesAt, ih]
    simp [Nat.add_assoc, Nat.add_comm 1 m]

theorem le_add (m n v : Nat) : le (m + n) v = le m v ++ le n (v / 256 ^ m) := by
  induction m generalizing v with
  | zero => simp [le]
  | succ m ih =>
    rw [Nat.succ_add, le, le, ih]
    simp [Nat.div_div_eq_div_mul, Nat.pow_succ, Nat.mul_comm]

@[simp] theorem le_length (n v : Nat) : (le n v).length = n := by
  induction n generalizing v with
  | zero => rfl
  | succ n ih => simp [le, ih]

@[simp] theorem bytesAt_length (b : List Byte) (i n : Nat) : (bytesAt b i n).length = n := by
  induction n generalizing i with
  | zero => rfl
  | succ n ih => simp [bytesAt, ih]

/-- A field of `m + n` bytes is one of `m` bytes and, above it, one of `n` bytes. -/
theorem field_split {b : List Byte} {i m n v : Nat} (h : bytesAt b i (m + n) = le (m + n) v) :
    bytesAt b i m = le m v ∧ bytesAt b (i + m) n = le n (v / 256 ^ m) := by
  rw [bytesAt_add, le_add] at h
  exact List.append_inj h (by simp)

theorem u16_field {b : List Byte} {i v : Nat} (h : bytesAt b i 2 = le 2 v) : u16 b i = v % 65536 := by
  obtain ⟨low, high⟩ := field_split (m := 1) (n := 1) h
  rw [u16, u8_field low, u8_field high]
  omega

theorem u32_field {b : List Byte} {i v : Nat} (h : bytesAt b i 4 = le 4 v) : u32 b i = v % 2 ^ 32 := by
  obtain ⟨low, high⟩ := field_split (m := 2) (n := 2) h
  rw [u32, u16_field low, u16_field high]
  omega

theorem u64_field {b : List Byte} {i v : Nat} (h : bytesAt b i 8 = le 8 v) : u64 b i = v % 2 ^ 64 := by
  obtain ⟨low, high⟩ := field_split (m := 4) (n := 4) h
  rw [u64, u32_field low, u32_field high]
  omega

theorem u32_word {b : List Byte} {i : Nat} {v : Word} (h : bytesAt b i 4 = le 4 v.toNat) : u32 b i = v.toNat :=
  (u32_field h).trans (Nat.mod_eq_of_lt v.isLt)

theorem u64_word {b : List Byte} {i : Nat} {v : BitVec 64} (h : bytesAt b i 8 = le 8 v.toNat) : u64 b i = v.toNat :=
  (u64_field h).trans (Nat.mod_eq_of_lt v.isLt)

/-- A field of one byte that is wide enough for its value. -/
theorem u8_small {b : List Byte} {i v : Nat} (h : bytesAt b i 1 = le 1 v) (small : v < 256 := by omega) : u8 b i = v :=
  (u8_field h).trans (Nat.mod_eq_of_lt small)

theorem u16_small {b : List Byte} {i v : Nat} (h : bytesAt b i 2 = le 2 v) (small : v < 65536 := by omega) : u16 b i = v :=
  (u16_field h).trans (Nat.mod_eq_of_lt small)

/-! ### Reading concatenations -/

@[simp] theorem bytesAt_append_right (a b : List Byte) {i n : Nat} (h : a.length ≤ i) :
    bytesAt (a ++ b) i n = bytesAt b (i - a.length) n := by
  induction n generalizing i with
  | zero => rfl
  | succ n ih =>
    have next : i + 1 - a.length = i - a.length + 1 := by omega
    rw [bytesAt, bytesAt, ih (by omega), next]
    simp [List.getElem?_append_right h]

@[simp] theorem bytesAt_append_left (a b : List Byte) {i n : Nat} (h : i + n ≤ a.length) :
    bytesAt (a ++ b) i n = bytesAt a i n := by
  induction n generalizing i with
  | zero => rfl
  | succ n ih =>
    rw [bytesAt, bytesAt, ih (by omega)]
    simp [List.getElem?_append_left (show i < a.length by omega)]

@[simp] theorem bytesAt_cons (x : Byte) (b : List Byte) (i n : Nat) : bytesAt (x :: b) (i + 1) n = bytesAt b i n := by
  simpa using bytesAt_append_right [x] b (i := i + 1) (n := n) (by simp)

theorem bytesAt_self (l : List Byte) : bytesAt l 0 l.length = l := by
  have drop : ∀ (p : List Byte), bytesAt (p ++ l) p.length l.length = l := by
    induction l with
    | nil => intro p; rfl
    | cons x rest ih =>
      intro p
      have next := ih (p ++ [x])
      simp only [List.append_assoc, List.cons_append, List.nil_append, List.length_append, List.length_cons, List.length_nil] at next
      simp only [List.length_cons, bytesAt]
      rw [next]
      simp
  exact drop []

@[simp] theorem bytesAt_le (n v : Nat) : bytesAt (le n v) 0 n = le n v := by
  simpa using bytesAt_self (le n v)

@[simp] theorem bytesAt_res (n : Nat) : bytesAt (res n) 0 n = List.replicate n 0 := by
  simpa [res] using bytesAt_self (res n)

@[simp] theorem res_length (n : Nat) : (res n).length = n := by simp [res]

/-! ### Codes -/

theorem codesOk : CodesOk := by
  refine ⟨rfl, rfl, rfl, rfl, rfl, rfl, rfl, rfl, rfl, rfl⟩

theorem Result.code_lt (r : Result) : r.code < 256 := by cases r <;> decide
theorem Direction.code_lt (d : Direction) : d.code < 256 := by cases d <;> decide
theorem Policy.code_lt (d : Policy) : d.code < 256 := by cases d <;> decide
theorem LateOutcome.code_lt (d : LateOutcome) : d.code < 256 := by cases d <;> decide
theorem ListEnd.code_lt (d : ListEnd) : d.code < 256 := by cases d <;> decide
theorem Link.code_lt (d : Link) : d.code < 256 := by cases d <;> decide
theorem DropCause.code_lt (d : DropCause) : d.code < 256 := by cases d <;> decide
theorem Cause.code_lt (d : Cause) : d.code < 256 := by cases d <;> decide
theorem accessCode_lt (d : Access) : accessCode d < 256 := by cases d <;> decide
theorem portCode_lt (d : Port) : portCode d < 256 := by cases d <;> decide

/-! ### Notices -/

/-- The body length of a notice record counts every byte after byte 7 (10.5). -/
theorem Notice.bytes_length (n : Notice) : n.bytes.length = 24 + n.body.bytes.length := by
  simp [Notice.bytes]
  omega

theorem NoticeBody.bytes_length_le (b : NoticeBody) : b.bytes.length ≤ 32 := by
  cases b <;> simp [NoticeBody.bytes]

theorem NoticeBody.level_lt (b : NoticeBody) : b.level < 256 := by cases b <;> simp [NoticeBody.level]

/-- The tag, the level and the length of a notice record (1.6, 10.5). -/
theorem Notice.head {n : Notice} {a b c d level length : Nat} {l : List Byte} (tag : n.body.tag = tagWord a b c d)
    (spelt : le 4 (tagWord a b c d).toNat = l) (ofLevel : n.body.level = level) (ofLength : n.body.bytes.length = length) :
    n.bytes.take 4 = l ∧ u8 n.bytes 8 = level ∧ n.bytes.length = 24 + length := by
  refine ⟨?_, ofLevel ▸ u8_small (by simp [Notice.bytes]) n.body.level_lt, ofLength ▸ n.bytes_length⟩
  rw [← spelt, ← tag]
  simp [Notice.bytes]

/-- The body length, the reserved bytes and the ET of a notice record (10.5). -/
theorem Notice.frame (n : Notice) :
    u32 n.bytes 4 + 8 = n.bytes.length ∧ bytesAt n.bytes 9 7 = List.replicate 7 0 ∧ u64 n.bytes 16 = n.et.toNat := by
  have length : u32 n.bytes 4 = (16 + n.body.bytes.length) % 2 ^ 32 := u32_field (by simp [Notice.bytes])
  have small := n.body.bytes_length_le
  refine ⟨?_, by simp [Notice.bytes], u64_word (by simp [Notice.bytes])⟩
  rw [length, n.bytes_length]
  omega

/-- The fields of FAIL (10.5). -/
theorem Notice.fail_laidOut (key : FrameKey) (cause : Cause) (chunk : Option (MemberId × Nat)) (total unsettled users : Nat)
    (et : Time) : (⟨.fail key cause chunk total unsettled users, et⟩ : Notice).LaidOut := by
  obtain ⟨length, reserved, time⟩ := Notice.frame ⟨.fail key cause chunk total unsettled users, et⟩
  cases chunk with
  | none =>
    refine ⟨length, reserved, time, Notice.head rfl (by decide) rfl ?_, u8_small ?_, u8_small ?_ cause.code_lt,
      u8_small (v := 255) ?_, ?_, u32_word ?_, u32_field ?_, ?_, (u64_field (v := 0) ?_).trans rfl, u16_field ?_, u16_field ?_,
      u16_field ?_, ?_⟩ <;>
      simp [Notice.bytes, NoticeBody.bytes]
  | some c =>
    refine ⟨length, reserved, time, Notice.head rfl (by decide) rfl ?_, u8_small ?_, u8_small ?_ cause.code_lt,
      u8_small ?_ (c.1.isLt.trans (by omega)), ?_, u32_word ?_, u32_field ?_, ?_, u64_field ?_, u16_field ?_, u16_field ?_,
      u16_field ?_, ?_⟩ <;>
      simp [Notice.bytes, NoticeBody.bytes]

/-- Every kind of notice is laid out as 10.5 says. -/
theorem Notice.laidOut (n : Notice) : n.LaidOut := by
  obtain ⟨body, et⟩ := n
  obtain ⟨length, reserved, time⟩ := Notice.frame ⟨body, et⟩
  cases body with
  | answ ref tag position result value =>
    refine ⟨length, reserved, time, Notice.head rfl (by decide) rfl ?_, u32_word ?_, u32_word ?_, u32_field ?_,
      u16_small ?_ (result.code_lt.trans (by omega)), ?_, u32_field ?_, ?_⟩ <;>
      simp [Notice.bytes, NoticeBody.bytes]
  | layc ref entry result deleted =>
    refine ⟨length, reserved, time, Notice.head rfl (by decide) rfl ?_, u32_word ?_, u8_small ?_,
      u8_small ?_ result.code_lt, u8_small ?_ (by split <;> omega), ?_⟩ <;>
      simp [Notice.bytes, NoticeBody.bytes, boolCode]
  | locd ref stream result cue offset =>
    refine ⟨length, reserved, time, Notice.head rfl (by decide) rfl ?_, u32_word ?_, u8_small ?_,
      u8_small ?_ result.code_lt, u8_field ?_, ?_, u32_field ?_, ?_⟩ <;>
      simp [Notice.bytes, NoticeBody.bytes]
  | rlsd stream =>
    refine ⟨length, reserved, time, Notice.head rfl (by decide) rfl ?_, u8_small ?_, ?_⟩ <;>
      simp [Notice.bytes, NoticeBody.bytes]
  | shwn stream slot direction clip serial frame tick =>
    refine ⟨length, reserved, time, Notice.head rfl (by decide) rfl ?_, u8_small ?_, u8_small ?_,
      u8_small ?_ direction.code_lt, u8_small ?_, u32_word ?_, u32_field ?_, u32_word ?_, ?_⟩ <;>
      simp [Notice.bytes, NoticeBody.bytes]
  | ftch stream slot clip serial frame tick =>
    refine ⟨length, reserved, time, Notice.head rfl (by decide) rfl ?_, u8_small ?_, u8_small ?_, u8_small ?_, u32_word ?_,
      u32_field ?_, u32_word ?_, ?_⟩ <;>
      simp [Notice.bytes, NoticeBody.bytes]
  | hldn stream slot tick =>
    refine ⟨length, reserved, time, Notice.head rfl (by decide) rfl ?_, u8_small ?_, u8_small ?_, ?_, u32_word ?_⟩ <;>
      simp [Notice.bytes, NoticeBody.bytes]
  | endl stream which cue offset tick picture clip frame =>
    refine ⟨length, reserved, time, Notice.head rfl (by decide) rfl ?_, u8_small ?_, u8_small ?_ which.code_lt, u8_field ?_,
      u8_small ?_ (by split <;> omega), u32_field ?_, u32_word ?_, u8_small ?_ clip.isLt, ?_, u32_word ?_, ?_⟩ <;>
      simp [Notice.bytes, NoticeBody.bytes, boolCode]
  | late stream policy outcome clip tick frame waited deliver =>
    refine ⟨length, reserved, time, Notice.head rfl (by decide) rfl ?_, u8_small ?_, u8_small ?_ policy.code_lt,
      u8_small ?_ outcome.code_lt, u8_small ?_, u32_word ?_, u32_field ?_, u32_field ?_, u64_word ?_⟩ <;>
      simp [Notice.bytes, NoticeBody.bytes]
  | mbup member cameFrom capacity =>
    refine ⟨length, reserved, time, Notice.head rfl (by decide) rfl ?_, u8_small ?_, u8_small ?_ cameFrom.code_lt, ?_,
      u64_field ?_⟩ <;>
      simp [Notice.bytes, NoticeBody.bytes]
  | mdwn member cause outstanding =>
    refine ⟨length, reserved, time, Notice.head rfl (by decide) rfl ?_, u8_small ?_, u8_small ?_ cause.code_lt, u8_field ?_,
      ?_⟩ <;>
      simp [Notice.bytes, NoticeBody.bytes]
  | mstl member abandoned limit =>
    refine ⟨length, reserved, time, Notice.head rfl (by decide) rfl ?_, u8_small ?_, u8_field ?_, u8_field ?_, ?_⟩ <;>
      simp [Notice.bytes, NoticeBody.bytes]
  | ptup port =>
    refine ⟨length, reserved, time, Notice.head rfl (by decide) rfl ?_, u8_small ?_ (portCode_lt port), ?_⟩ <;>
      simp [Notice.bytes, NoticeBody.bytes]
  | pdwn port =>
    refine ⟨length, reserved, time, Notice.head rfl (by decide) rfl ?_, u8_small ?_ (portCode_lt port), ?_⟩ <;>
      simp [Notice.bytes, NoticeBody.bytes]
  | stpd => exact ⟨length, reserved, time, Notice.head rfl (by decide) rfl rfl⟩
  | fail key cause chunk total unsettled users => exact Notice.fail_laidOut key cause chunk total unsettled users et
  | hacc access offset =>
    refine ⟨length, reserved, time, Notice.head rfl (by decide) rfl ?_, u8_small ?_ (accessCode_lt access), ?_,
      u32_word ?_⟩ <;>
      simp [Notice.bytes, NoticeBody.bytes]
  | rgnf kind position =>
    refine ⟨length, reserved, time, Notice.head rfl (by decide) rfl ?_, u8_field ?_, ?_, u32_field ?_⟩ <;>
      simp [Notice.bytes, NoticeBody.bytes]

end Sys2Proof.Machine
end

section
/-! SUPPORT. Status records (10.6) and the two writers of the Region Interface (R15 to R18). -/

namespace Sys2Proof.Machine

/-! ### Status records (10.6) -/

theorem s16_leSpeed {b : List Byte} {i : Nat} {v : Int} (h : bytesAt b i 2 = leSpeed v) (low : -32768 ≤ v) (high : v ≤ 32767) :
    s16 b i = v := by
  have field : u16 b i = (v % 65536).toNat := (u16_field h).trans (by omega)
  rw [s16, field, signed]
  split <;> omega

@[simp] theorem leSpeed_length (v : Int) : (leSpeed v).length = 2 := le_length _ _

@[simp] theorem bytesAt_leSpeed (v : Int) : bytesAt (leSpeed v) 0 2 = leSpeed v := bytesAt_le _ _

theorem Stream.shownSpeed_eq (x : Stream) : x.shownSpeed = if x.state = .running ∨ x.state = .held then x.speed else 0 := by
  unfold Stream.shownSpeed
  cases x.state <;> rfl

/-- The speed of a status record is one that its field holds, when the stream's is. -/
theorem Stream.shownSpeed_bounds {x : Stream} (low : -32768 ≤ x.speed) (high : x.speed ≤ 32767) :
    -32768 ≤ x.shownSpeed ∧ x.shownSpeed ≤ 32767 := by
  rw [x.shownSpeed_eq]
  split <;> omega

theorem Stream.nextDeliver_running {x : Stream} {e : Entry} {rest : List Entry} (running : x.state = .running)
    (first : x.unsent = e :: rest) : x.nextDeliver = e.deliver := by
  simp [Stream.nextDeliver, running, first]

theorem Stream.nextDeliver_none {x : Stream} (h : x.state ≠ .running ∨ x.unsent = []) : x.nextDeliver = 0 := by
  unfold Stream.nextDeliver
  split
  · next running => simp [h.resolve_left (not_not.2 running)]
  · rfl

theorem Stream.laidOut (x : Stream) (c : Word) : x.LaidOut c := by
  have deliver : u64 (le 4 c.toNat ++ x.statusBytes) 24 = x.nextDeliver.toNat := u64_word (by simp [Stream.statusBytes])
  have speed (low : -32768 ≤ x.speed) (high : x.speed ≤ 32767) :
      s16 (le 4 c.toNat ++ x.statusBytes) 6 = if x.state = .running ∨ x.state = .held then x.speed else 0 := by
    obtain ⟨low, high⟩ := Stream.shownSpeed_bounds low high
    exact (s16_leSpeed (by simp [Stream.statusBytes]) low high).trans x.shownSpeed_eq
  have state : u8 (le 4 c.toNat ++ x.statusBytes) 4 = x.state.code :=
    u8_small (by simp [Stream.statusBytes]) (by cases x.state <;> decide)
  have codes : x.state.code = match x.state with | .closed => 0 | .parked => 1 | .running => 2 | .held => 3 | .seeking => 4 := by
    cases x.state <;> rfl
  have reserved : u8 (le 4 c.toNat ++ x.statusBytes) 5 = 0 ∧ u16 (le 4 c.toNat ++ x.statusBytes) 10 = 0 :=
    ⟨u8_small (by simp [Stream.statusBytes]; rfl), u16_small (by simp [Stream.statusBytes]; rfl)⟩
  refine ⟨by simp [Stream.statusBytes], u32_word (by simp), state.trans codes, reserved.1, speed, u8_field ?_, u8_small ?_,
    reserved.2, u32_field ?_, u32_word ?_, u32_word ?_, ?_, ?_, u32_word ?_, ?_⟩
  case refine_6 => exact fun e rest running first => deliver.trans (by rw [Stream.nextDeliver_running running first])
  case refine_7 => exact fun h => deliver.trans (by rw [Stream.nextDeliver_none h]; rfl)
  all_goals simp [Stream.statusBytes]

/-! ### The mirror writer (R18) -/

/-- Settles O18. -/
theorem mirrorWriterServesTheLowestMark : Obligations.MirrorWriterServesTheLowestMark := by
  unfold Obligations.MirrorWriterServesTheLowestMark
  refine ⟨Stream.laidOut, fun n s => ?_⟩
  dsimp only
  intro awake marked lowest
  have served := Region.markedStream_some awake marked lowest
  refine ⟨?_, fun k clear room => ?_⟩
  · change Host.Outcome.next (s.writeMirror none) = _
    unfold State.writeMirror
    rw [served]
    dsimp only
    rw [State.hostWrites_eq]
    rfl
  · change Host.Outcome.next (s.writeMirror (some k)) = _
    rw [State.writeMirror_fails k served, State.hostWrites_eq,
      State.hostFault_clear _ _ (by exact clear) (by exact awake) (by exact room)]
    simp only [Region.giveUp, List.map_take]
    have place : s.region.work.mirrorOffset + 64 * n.val + (if k = 1 then 4 else 0) =
        if k = 1 then s.region.work.mirrorOffset + 64 * n.val + 4 else s.region.work.mirrorOffset + 64 * n.val := by
      split <;> rfl
    rw [place]
    rfl

/-! ### Notice fill (R17) -/

theorem State.halted_false {s : State} (awake : s.region.engine ≠ .halted) : s.halted = false := by
  simpa [State.halted] using awake

theorem State.signalIf_true {s : State} {b : Bool} (h : b = true) : s.signalIf b = s.emit .msi := by simp [State.signalIf, h]

theorem State.signalIf_false {s : State} {b : Bool} (h : b = false) : s.signalIf b = s := by simp [State.signalIf, h]

theorem State.signalIf_quiet (s : State) (b : Bool) : (s.signalIf b).region = s.region ∧ s.SameTables (s.signalIf b) := by
  cases b with
  | false => exact ⟨rfl, rfl, rfl, rfl, rfl, rfl⟩
  | true => exact ⟨rfl, rfl, rfl, rfl, rfl, rfl⟩

theorem signals_iff (level : BitVec 3) (l : Nat) : signals level l = true ↔ level.toNat < l ∨ l = 7 := by
  simp [signals]

/-- Settles O17. -/
theorem noticeFillAdvances : Obligations.NoticeFillAdvances := by
  unfold Obligations.NoticeFillAdvances
  intro b s awake written
  dsimp only
  have advance : s.advanceFill .ok =
      ({ s with
          region := { s.region with noticeFill := s.region.noticeFill + BitVec.ofNat 32 b.bytes, batch := none }
          sent := s.sent ++ [s.region.writeAt 0x48 (le 4 (s.region.noticeFill + BitVec.ofNat 32 b.bytes).toNat)] } :
        State).signalIf (b.levels.any (signals s.region.noticeLevel)) := by
    unfold State.advanceFill
    rw [if_neg (by simp [State.halted_false awake]), written]
    rfl
  refine ⟨⟨_, congrArg Host.Outcome.next advance, by exact (State.signalIf_quiet _ _).1, by exact (State.signalIf_quiet _ _).2, fun called => ?_,
    fun quiet => ?_⟩, fun clear room => ?_⟩
  · obtain ⟨l, covered, calls⟩ := called
    rw [State.signalIf_true (List.any_eq_true.2 ⟨l, covered, (signals_iff _ _).2 calls⟩)]
    simp [State.emit]
  · rw [State.signalIf_false (List.any_eq_false.2 fun l covered => ?_)]
    obtain ⟨low, notTop⟩ := quiet l covered
    rw [signals_iff]
    omega
  · change Host.Outcome.next (s.advanceFill .failed) = _
    unfold State.advanceFill
    rw [if_neg (by simp [State.halted_false awake]), written]
    exact congrArg Host.Outcome.next (State.hostFault_clear _ _ (by exact clear) (by exact awake) (by exact room))

/-! ### Batches of notices (R15 to R17) -/

theorem Region.writesOf_eq (r : Region) (p : Word) (n : Notice) :
    (r.writesOf p n).map (fun w => r.writeAt w.1 w.2) = r.noticeWrites p n := by
  unfold Region.writesOf Region.noticeWrites Region.tail logPosition
  dsimp only
  split
  · rfl
  · rfl

/-- A notice is written where the room suffices for it, which is the span that 1.6 gives it (R16). -/
theorem Writer.fits_of_span {w : Writer} {size : Nat}
    (room : (w.position - w.state.region.noticeTaken).toNat + w.state.region.span w.position size ≤
      w.state.region.work.noticeSize) : w.fits size = true := by
  refine decide_eq_true (?_ : w.state.region.span w.position size ≤
    w.state.region.work.noticeSize - (w.position - w.state.region.noticeTaken).toNat)
  omega

theorem Writer.fits_false {w : Writer} {size : Nat} (positive : 0 < size)
    (short : w.state.region.work.noticeSize <
      (w.position - w.state.region.noticeTaken).toNat + w.state.region.span w.position size) : w.fits size = false := by
  refine decide_eq_false (fun room : w.state.region.span w.position size ≤
    w.state.region.work.noticeSize - (w.position - w.state.region.noticeTaken).toNat => ?_)
  have : 0 < w.state.region.span w.position size := by
    unfold Region.span
    dsimp only
    split <;> omega
  omega

/-- A notice that fits, with no failure ahead, is written as it stands. -/
theorem batchLoop_write {w : Writer} {k : Nat} {n : Notice} {rest : List Notice} (held : w.state.region.notices = n :: rest)
    (awake : w.state.region.engine ≠ .halted) (fits : w.fits n.size = true) (sound : w.failAt = none) :
    batchLoop (k + 1) w = batchLoop k (w.write n) := by
  have stay : w.seekRoom n.size = w := by simp [Writer.seekRoom, fits]
  rw [batchLoop, held]
  dsimp only
  rw [stay, if_neg (by simp [State.halted_false awake]), if_pos fits]
  simp [Writer.failing, sound]

/-- The state in which a writer has written every held notice. -/
def State.written (s : State) (p : Word) : State :=
  { s with
    region := { s.region with notices := [], stopNotices := s.region.stopNotices - s.region.notices.length }
    sent := s.sent ++ s.region.batchWrites p s.region.notices }

theorem State.written_nil {s : State} (p : Word) (empty : s.region.notices = []) : s.written p = s := by
  rcases s with ⟨region⟩
  rcases region with ⟨⟩
  cases empty
  simp [State.written, Region.batchWrites]

theorem State.written_cons {s : State} {p : Word} {n : Notice} {rest : List Notice} (held : s.region.notices = n :: rest) :
    s.written p =
      ({ s with
          region := { s.region with notices := s.region.notices.drop 1, stopNotices := s.region.stopNotices - 1 }
          sent := s.sent ++ s.region.noticeWrites p n } : State).written (p + BitVec.ofNat 32 (s.region.span p n.size)) := by
  have writes (q : Word) (l : List Notice) :
      ({ s.region with notices := rest, stopNotices := s.region.stopNotices - 1 } : Region).batchWrites q l =
        s.region.batchWrites q l := by
    induction l generalizing q with
    | nil => rfl
    | cons m l ih => exact congrArg (s.region.noticeWrites q m ++ ·) (ih _)
  simp only [State.written, held, List.drop_one, List.tail_cons, writes]
  simp [Region.batchWrites, Nat.sub_sub, Nat.add_comm]

theorem Region.spans_congr {r q : Region} (h : q.work = r.work) (p : Word) (l : List Notice) : q.spans p l = r.spans p l := by
  induction l generalizing p with
  | nil => rfl
  | cons n rest ih => simp [Region.spans, Region.span, h, ih]

theorem Writer.write_state {w : Writer} {n : Notice} :
    (w.write n).state =
      { w.state with
        region :=
          { w.state.region with
            notices := w.state.region.notices.drop 1, stopNotices := w.state.region.stopNotices - 1 }
        sent := w.state.sent ++ w.state.region.noticeWrites w.position n } := by
  rw [← Region.writesOf_eq]
  exact State.hostWrites_eq _ _

theorem Writer.write_position {w : Writer} {n : Notice} :
    (w.write n).position = w.position + BitVec.ofNat 32 (w.state.region.span w.position n.size) := rfl

theorem word_advance {p taken : Word} {k : Nat} (h : (p - taken).toNat + k < 4294967296) :
    (p + BitVec.ofNat 32 k - taken).toNat = (p - taken).toNat + k := by
  bv_omega

/-- Everything that a batch does whose notices all find room (R16). -/
theorem batchLoop_all (l : List Notice) : ∀ w : Writer, w.state.region.notices = l → w.state.region.engine ≠ .halted →
    w.failAt = none → w.state.region.work.noticeSize < 4294967296 →
    (w.position - w.state.region.noticeTaken).toNat + w.state.region.spans w.position l ≤ w.state.region.work.noticeSize →
    batchLoop l.length w =
      { w with
        state := w.state.written w.position
        position := w.position + BitVec.ofNat 32 (w.state.region.spans w.position l)
        levels := w.levels ++ l.map fun n => n.body.level } := by
  induction l with
  | nil =>
    intro w held _ _ _ _
    simp [batchLoop, State.written_nil w.position held, Region.spans]
  | cons n rest ih =>
    intro w held awake sound small room
    have room : (w.position - w.state.region.noticeTaken).toNat + (w.state.region.span w.position n.size +
      w.state.region.spans (w.position + BitVec.ofNat 32 (w.state.region.span w.position n.size)) rest) ≤
        w.state.region.work.noticeSize := room
    have next : (w.write n).state.region.notices = rest := by rw [Writer.write_state]; simp [held]
    have position := word_advance (p := w.position) (taken := w.state.region.noticeTaken)
      (k := w.state.region.span w.position n.size) (by omega)
    have same : (w.write n).state.region.spans = w.state.region.spans := by
      funext p l
      exact Region.spans_congr (by rw [Writer.write_state]) p l
    rw [List.length_cons, batchLoop_write held awake (Writer.fits_of_span (by omega)) sound,
      ih (w.write n) next (by rw [Writer.write_state]; exact awake) (by simp [Writer.write, sound])
        (by rw [Writer.write_state]; exact small) ?_, same, Writer.write_state, Writer.write_position,
      ← State.written_cons held]
    · simp [Writer.write, Region.spans, BitVec.add_assoc, BitVec.ofNat_add, sound]
    · rw [same, Writer.write_state, Writer.write_position, position]
      exact (Nat.add_assoc _ _ _).trans_le room

/-- The notice writer at the start of a batch. -/
def State.writer (s : State) (reads : List CountRead) (failAt : Option Nat) : Writer :=
  ⟨s, s.region.noticeFill, reads, failAt, [], false⟩

theorem Region.writable_all {r : Region} (works : r.engine = .running ∨ r.engine = .stopping) :
    r.writable = r.notices.length := by
  rcases works with works | works
  · simp [Region.writable, works]
  · simp [Region.writable, works]

theorem State.awake_of_works {s : State} (works : s.region.engine = .running ∨ s.region.engine = .stopping) :
    s.region.engine ≠ .halted := by
  rcases works with works | works
  · simp [works]
  · simp [works]

/-- A batch, for a writer that may write every held notice. -/
theorem State.writeBatch_of {s : State} {reads : List CountRead} {failAt : Option Nat} {w : Writer}
    (works : s.region.engine = .running ∨ s.region.engine = .stopping) (idle : s.region.batch = none)
    (ends : batchLoop s.region.notices.length (s.writer reads failAt) = w) :
    s.writeBatch reads failAt =
      if w.failed || w.state.halted || w.levels.isEmpty then w.state
      else w.state.setRegion
        { w.state.region with batch := some ⟨w.levels, (w.position - w.state.region.noticeFill).toNat⟩ } := by
  subst ends
  unfold State.writeBatch
  rw [if_neg (by simp [idle]), Region.writable_all works]
  rfl

theorem word_distance (p : Word) {k : Nat} (h : k < 4294967296) : (p + BitVec.ofNat 32 k - p).toNat = k := by
  bv_omega

/-- A batch all of whose notices find room (R15 to R17). -/
theorem State.writeBatch_all {s : State} (reads : List CountRead)
    (works : s.region.engine = .running ∨ s.region.engine = .stopping) (idle : s.region.batch = none)
    (held : s.region.notices ≠ []) (small : s.region.work.noticeSize < 4294967296)
    (room : (s.region.noticeFill - s.region.noticeTaken).toNat + s.region.spans s.region.noticeFill s.region.notices ≤
      s.region.work.noticeSize) :
    s.writeBatch reads none =
      (s.written s.region.noticeFill).setRegion
        { (s.written s.region.noticeFill).region with
          batch :=
            some ⟨s.region.notices.map fun n => n.body.level, s.region.spans s.region.noticeFill s.region.notices⟩ } := by
  rw [State.writeBatch_of works idle
    (batchLoop_all s.region.notices (s.writer reads none) rfl (State.awake_of_works works) rfl small room), if_neg ?_]
  · exact congrArg (fun k => (s.written s.region.noticeFill).setRegion
      { (s.written s.region.noticeFill).region with batch := some ⟨s.region.notices.map fun n => n.body.level, k⟩ })
      (word_distance _ (show s.region.spans s.region.noticeFill s.region.notices < _ by omega))
  · have awake : (s.written s.region.noticeFill).halted = false := State.halted_false (State.awake_of_works works)
    simpa [State.writer, awake] using held

/-- When the room is short, what notice taken is read as decides whether the only held notice is written (R16). -/
theorem batchLoop_short {s : State} {n : Notice} {v : Word} {reads : List CountRead}
    (works : s.region.engine = .running ∨ s.region.engine = .stopping) (held : s.region.notices = [n])
    (short : (s.writer (.value v :: reads) none).fits n.size = false) :
    batchLoop s.region.notices.length (s.writer (.value v :: reads) none) =
      if ((s.readTaken (.value v)).writer reads none).fits n.size then
        ((s.readTaken (.value v)).writer reads none).write n
      else ((s.readTaken (.value v)).writer reads none).discard := by
  have awake : (s.readTaken (.value v)).halted = false := by
    unfold State.readTaken
    dsimp only
    split
    · exact State.halted_false (State.awake_of_works works)
    · exact State.halted_false (State.awake_of_works works)
  have fill : (s.readTaken (.value v)).region.noticeFill = s.region.noticeFill := by
    unfold State.readTaken
    dsimp only
    split <;> rfl
  have again : (s.writer (.value v :: reads) none).seekRoom n.size = (s.readTaken (.value v)).writer reads none := by
    rw [Writer.seekRoom, if_neg (by simp [short])]
    simp only [State.writer, fill]
  rw [held, List.length_singleton, batchLoop]
  change (match s.region.notices with | [] => _ | n :: _ => _) = _
  rw [held]
  dsimp only
  rw [again, if_neg (by exact ne_true_of_eq_false awake)]
  split
  · rfl
  · rfl

/-- A writer that has discarded its only notice has written nothing (R16). -/
theorem State.writeBatch_discards {s : State} {n : Notice} {v : Word} {reads : List CountRead}
    (works : s.region.engine = .running ∨ s.region.engine = .stopping) (idle : s.region.batch = none)
    (held : s.region.notices = [n]) (short : (s.writer (.value v :: reads) none).fits n.size = false)
    (still : ((s.readTaken (.value v)).writer reads none).fits n.size = false) :
    s.writeBatch (.value v :: reads) none = ((s.readTaken (.value v)).writer reads none).discard.state := by
  rw [State.writeBatch_of works idle ((batchLoop_short works held short).trans (if_neg (by simp [still])))]
  exact if_pos (by simp [Writer.discard, State.writer])

theorem State.writeBatch_rereads {s : State} {n : Notice} {v : Word} {reads : List CountRead}
    (works : s.region.engine = .running ∨ s.region.engine = .stopping) (idle : s.region.batch = none)
    (held : s.region.notices = [n]) (short : (s.writer (.value v :: reads) none).fits n.size = false)
    (fits : ((s.readTaken (.value v)).writer reads none).fits n.size = true) (usable : s.region.Usable v)
    (small : s.region.span s.region.noticeFill n.size < 4294967296) :
    s.writeBatch (.value v :: reads) none =
      { s with
        region :=
          { s.region with
            noticeTaken := v, notices := [], stopNotices := s.region.stopNotices - 1
            batch := some ⟨[n.body.level], s.region.span s.region.noticeFill n.size⟩ }
        sent := s.sent ++ s.region.noticeWrites s.region.noticeFill n } := by
  rw [State.writeBatch_of works idle ((batchLoop_short works held short).trans (if_pos fits)), if_neg ?_, Writer.write_state,
    Writer.write_position, State.readTaken_usable usable]
  · simp only [State.setRegion, State.writer, held]
    exact congrArg (fun k => ({ s with
      region :=
        { s.region with
          noticeTaken := v, notices := [], stopNotices := s.region.stopNotices - 1, batch := some ⟨[n.body.level], k⟩ }
      sent := s.sent ++ s.region.noticeWrites s.region.noticeFill n } : State)) (word_distance _ small)
  · rw [State.readTaken_usable usable]
    have awake : (((({ s with region := { s.region with noticeTaken := v } } : State).writer reads none).write n).state).halted =
        false := by
      rw [Writer.write_state]
      exact State.halted_false (State.awake_of_works works)
    rw [awake]
    simp [Writer.write, State.writer]

/-- What a failed write of a notice leaves (R17, R19, R20): the notices of the batch are lost, and it is a fault. -/
structure State.BatchFails (s t : State) (place : Nat) (writes : List Output) : Prop where
  fill : t.region.noticeFill = s.region.noticeFill
  batch : t.region.batch = none
  tables : s.SameTables t
  first : s.region.faultLatch = false →
    t.region.faultLatch = true ∧ t.region.engine = s.region.engine ∧ t.sent = s.sent ++ writes ∧
      t.region.notices = [⟨.hacc .noticeWrite (BitVec.ofNat 32 place), s.et⟩]
  second : s.region.faultLatch = true → t.region.engine = .halted ∧ t.region.notices = []

/-- The `i`-th write of the oldest notice fails (R17, R19, log 35). -/
theorem State.writeBatch_fails {s : State} {n : Notice} {rest : List Notice} {i place : Nat} {bytes : List Byte}
    (reads : List CountRead) (works : s.region.engine = .running ∨ s.region.engine = .stopping)
    (idle : s.region.batch = none) (held : s.region.notices = n :: rest)
    (room : (s.region.noticeFill - s.region.noticeTaken).toNat + s.region.span s.region.noticeFill n.size ≤
      s.region.work.noticeSize)
    (aimed : (s.region.writesOf s.region.noticeFill n)[i]? = some (place, bytes)) :
    s.BatchFails (s.writeBatch reads (some i)) place ((s.region.noticeWrites s.region.noticeFill n).take i) := by
  have awake := State.awake_of_works works
  have fits : (s.writer reads (some i)).fits n.size = true := Writer.fits_of_span room
  have stay : (s.writer reads (some i)).seekRoom n.size = s.writer reads (some i) := by simp [Writer.seekRoom, fits]
  have within : i < (s.region.writesOf s.region.noticeFill n).length := (List.getElem?_eq_some_iff.1 aimed).1
  have ends : batchLoop s.region.notices.length (s.writer reads (some i)) =
      (s.writer reads (some i)).fail n i (rest.length + 1) := by
    rw [held, List.length_cons, batchLoop]
    change (match s.region.notices with | [] => _ | n :: _ => _) = _
    rw [held]
    dsimp only
    rw [stay, if_neg (by simp [State.writer, State.halted_false awake]), if_pos fits]
    have failing : (s.writer reads (some i)).failing n = some i := Option.filter_some.trans (if_pos (decide_eq_true within))
    rw [failing]
  rw [State.writeBatch_of works idle ends, if_pos (by simp [Writer.fail])]
  change s.BatchFails (((s.popNotices (rest.length + 1)).hostWrites
    ((s.region.writesOf s.region.noticeFill n).take i)).hostFault .noticeWrite
      (match (s.region.writesOf s.region.noticeFill n)[i]? with | some x => x.1 | none => 0)) _ _
  rw [aimed, State.hostWrites_eq, ← Region.writesOf_eq, ← List.map_take]
  dsimp only
  by_cases latch : s.region.faultLatch = true
  · rw [State.hostFault_set _ _ (by exact latch)]
    have halts := State.halt_halts
    refine ⟨by rw [(halts _).region]; rfl, by rw [(halts _).region]; exact idle, (halts _).tables,
      fun clear => by simp [latch] at clear, fun _ => ?_⟩
    rw [(halts _).region]
    simp [State.popNotices, held]
  · have clear : s.region.faultLatch = false := by simpa using latch
    rw [State.hostFault_clear _ _ (by exact clear) (by exact awake) (by simp [State.popNotices, held, Config.heldNotices])]
    refine ⟨rfl, rfl, ⟨rfl, rfl, rfl, rfl, rfl⟩, fun _ => ?_, fun set_ => absurd set_ latch⟩
    simp [Region.giveUp, State.popNotices, held, Region.writeAt]

theorem Notice.size_pos (n : Notice) : 0 < n.size := by
  unfold Notice.size
  omega

/-- Settles O16. -/
theorem noticeBatches : Obligations.NoticeBatches := by
  unfold Obligations.NoticeBatches
  refine ⟨fun reads failAt s works => ⟨fun b waiting => ?_, fun idle held small room => ?_⟩, ⟨?_, ?_⟩, codesOk,
    Notice.laidOut⟩
  · change Host.Outcome.next (s.writeBatch reads failAt) = _
    unfold State.writeBatch
    rw [if_pos (by simp [waiting])]
  · exact congrArg Host.Outcome.next (State.writeBatch_all reads works idle held small room)
  · intro n v reads s works idle held small short
    have short := Writer.fits_false (w := s.writer (.value v :: reads) none) n.size_pos short
    refine ⟨fun usable room => ?_, fun unusable => ?_, fun usable still => ?_⟩
    · have fits : ((s.readTaken (.value v)).writer reads none).fits n.size = true := by
        rw [State.readTaken_usable usable]
        exact Writer.fits_of_span room
      exact congrArg Host.Outcome.next (State.writeBatch_rereads works idle held short fits usable (by omega))
    · change Host.Outcome.next (s.writeBatch (.value v :: reads) none) = _
      rw [State.writeBatch_discards works idle held short (by rw [State.readTaken_unusable unusable]; exact short),
        State.readTaken_unusable unusable]
      simp [Writer.discard, State.writer, State.popNotices, held, State.setRegion]
    · change Host.Outcome.next (s.writeBatch (.value v :: reads) none) = _
      rw [State.writeBatch_discards works idle held short (by
        rw [State.readTaken_usable usable]
        exact Writer.fits_false n.size_pos still), State.readTaken_usable usable]
      simp [Writer.discard, State.writer, State.popNotices, held, State.setRegion]
  · intro n rest reads s works idle held room
    obtain ⟨place, bytes, aimed, first⟩ : ∃ place bytes, (s.region.writesOf s.region.noticeFill n)[0]? = some (place, bytes) ∧
        place = s.region.work.noticeOffset + s.region.noticeFill.toNat % s.region.work.noticeSize := by
      unfold Region.writesOf
      dsimp only
      split
      · exact ⟨_, _, rfl, rfl⟩
      · exact ⟨_, _, rfl, rfl⟩
    have fails := State.writeBatch_fails reads works idle held room aimed
    refine ⟨_, rfl, fails.fill, fails.batch, fails.tables, fun clear => ?_, fails.second, fun padded => ?_⟩
    · obtain ⟨latch, engine, sent, notices⟩ := fails.first clear
      exact ⟨latch, engine, by simpa using sent, first ▸ notices⟩
    · have aimed : (s.region.writesOf s.region.noticeFill n)[1]? = some (s.region.work.noticeOffset, n.bytes) := by
        unfold Region.writesOf
        rw [if_neg (show ¬ n.size ≤ s.region.tail s.region.noticeFill from Nat.not_le.2 padded)]
        rfl
      have fails := State.writeBatch_fails reads works idle held room aimed
      exact ⟨_, rfl, fails.fill, fails.batch, fails.tables, fails.first, fails.second⟩

end Sys2Proof.Machine
end

section
/-! SUPPORT. What an order that is taken comes to, whatever its tag (R12, R13), and the refusals of the orders. -/

namespace Sys2Proof.Machine

/-! ### From a decision to the step -/

/-- What the owner of an order decides of a body that is long enough. -/
def orderDecision (s : State) (k : OrderKind) (b : List Byte) : Decision :=
  match k with
  | .layd => decideLayd s b
  | .clip => decideClip s b
  | .memb => decideMemb s b
  | .mrst => decideMrst b
  | .opens => decideOpen s b
  | .cues => decideCues s b
  | .xprt => decideXprt s b
  | .mark => decideMark s b
  | .shut => decideShut s b
  | .shar => decideShar s b
  | .pad => refuse .unknownTag
  | .unknown => refuse .unknownTag

theorem decideRecord_long {s : State} {tag : Word} {b : List Byte} (pad : orderKind tag ≠ .pad)
    (known : orderKind tag ≠ .unknown) (long : requiredLength (orderKind tag) b ≤ b.length) :
    decideRecord s tag b = some (orderDecision s (orderKind tag) b) := by
  simp only [decideRecord, if_neg pad, if_neg known, if_neg (Nat.not_lt.2 long)]
  rfl

theorem decideRecord_short {s : State} {tag : Word} {b : List Byte} (pad : orderKind tag ≠ .pad)
    (known : orderKind tag ≠ .unknown) (short : b.length < requiredLength (orderKind tag) b) :
    decideRecord s tag b = some (refuse .badLength) := by
  simp only [decideRecord, if_neg pad, if_neg known, if_pos short]

theorem decideRecord_unknown {s : State} {tag : Word} {b : List Byte} (unknown : orderKind tag = .unknown) :
    decideRecord s tag b = some (refuse .unknownTag) := by
  simp [decideRecord, unknown]

theorem tooSlowAt_sameClips {s t : State} (h : t.decoder = s.decoder) (q e i : Nat) (cues : List Cue) :
    tooSlowAt t q e i cues = tooSlowAt s q e i cues := by
  have clip (k : Nat) : t.clipAt k = s.clipAt k := by simp only [State.clipAt, h]
  induction cues generalizing i with
  | nil => rfl
  | cons c rest ih => simp only [tooSlowAt, clip, ih]

/-- Taking the record changes nothing that the decision on an OPEN rests on. -/
theorem decideOpen_afterRecord (s : State) (r : Record) (b : List Byte) : decideOpen (s.afterRecord r) b = decideOpen s b := by
  unfold decideOpen
  simp only [tooSlowAt_sameClips (s := s) (t := s.afterRecord r) rfl]
  rfl

/-- Taking the record changes nothing that the decision on a CUES rests on. -/
theorem decideCues_afterRecord (s : State) (r : Record) (b : List Byte) : decideCues (s.afterRecord r) b = decideCues s b := by
  unfold decideCues decideReplace decideAppend
  simp only [tooSlowAt_sameClips (s := s) (t := s.afterRecord r) rfl]
  rfl

/-- The command answers the record with the decision and carries it out; what that makes ready then begins. -/
structure State.Decided (s : State) (c : Instr) (tag : Word) (r : Record) (d : Decision) : Prop where
  settled : s.Settled
  exec_eq : exec c s = .next (d.effect (s.answered tag r d.result d.value)).wakeAll

namespace State.Decided

variable {s : State} {c : Instr} {tag : Word} {r : Record} {d : Decision}

/-- A decision that does nothing is only answered. -/
theorem idle (h : s.Decided c tag r d) {code : Result} {value : Nat} (hd : d = ⟨code, value, id⟩) :
    exec c s = .next (s.answered tag r code value) := by
  subst hd
  rw [h.exec_eq]
  exact congrArg _ (wakeAll_settled (h.settled.answered tag r code value))

theorem refused (h : s.Decided c tag r d) {code : Result} (hd : d = refuse code) :
    exec c s = .next (s.answered tag r code 0) := h.idle hd

/-- A decision whose effect leaves every stream asleep. -/
theorem done (h : s.Decided c tag r d) {code : Result} {value : Nat} {f : State → State} (hd : d = ⟨code, value, f⟩)
    (asleep : (f (s.answered tag r code value)).Settled) : exec c s = .next (f (s.answered tag r code value)) := by
  subst hd
  rw [h.exec_eq]
  exact congrArg _ (wakeAll_settled asleep)

theorem carried (h : s.Decided c tag r d) {code : Result} {value : Nat} {f : State → State} (hd : d = ⟨code, value, f⟩) :
    exec c s = .next (f (s.answered tag r code value)).wakeAll := by
  subst hd
  exact h.exec_eq

end State.Decided

namespace State.Takes

variable {s : State} {c : Instr} {tag : Word} {r : Record}

theorem decided (h : s.Takes c tag r) {d : Decision} (hd : decideRecord (s.afterRecord r) tag r.body = some d) :
    s.Decided c tag r d :=
  ⟨h.settled, by rw [exec_eq_takeRecord s h.order, takeRecord_of_decision h.readable hd]⟩

theorem layd (h : s.Takes c tagLAYD r) (long : 56 ≤ r.body.length) : s.Decided c tagLAYD r (decideLayd s r.body) :=
  h.decided (decideRecord_long (by decide) (by decide) long)

theorem clip (h : s.Takes c tagCLIP r) (long : 48 ≤ r.body.length) : s.Decided c tagCLIP r (decideClip s r.body) :=
  h.decided (decideRecord_long (by decide) (by decide) long)

theorem memb (h : s.Takes c tagMEMB r) (long : 16 ≤ r.body.length) : s.Decided c tagMEMB r (decideMemb s r.body) :=
  h.decided (decideRecord_long (by decide) (by decide) long)

theorem mrst (h : s.Takes c tagMRST r) (long : 8 ≤ r.body.length) : s.Decided c tagMRST r (decideMrst r.body) :=
  h.decided (decideRecord_long (by decide) (by decide) long)

theorem opens (h : s.Takes c tagOPEN r) (long : 56 + 16 * u8 r.body 45 ≤ r.body.length) :
    s.Decided c tagOPEN r (decideOpen s r.body) :=
  decideOpen_afterRecord s r r.body ▸
    h.decided (decideRecord_long (s := s.afterRecord r) (tag := tagOPEN) (b := r.body) (by decide) (by decide) long)

theorem cues (h : s.Takes c tagCUES r) (long : 16 + 16 * u8 r.body 7 ≤ r.body.length) :
    s.Decided c tagCUES r (decideCues s r.body) :=
  decideCues_afterRecord s r r.body ▸
    h.decided (decideRecord_long (s := s.afterRecord r) (tag := tagCUES) (b := r.body) (by decide) (by decide) long)

theorem xprt (h : s.Takes c tagXPRT r) (long : 40 ≤ r.body.length) : s.Decided c tagXPRT r (decideXprt s r.body) :=
  h.decided (decideRecord_long (by decide) (by decide) long)

theorem shut (h : s.Takes c tagSHUT r) (long : 8 ≤ r.body.length) : s.Decided c tagSHUT r (decideShut s r.body) :=
  h.decided (decideRecord_long (by decide) (by decide) long)

theorem shar (h : s.Takes c tagSHAR r) (long : 24 ≤ r.body.length) : s.Decided c tagSHAR r (decideShar s r.body) :=
  h.decided (decideRecord_long (by decide) (by decide) long)

/-- An order whose body is too short (R12). -/
theorem badLength (h : s.Takes c tag r) (pad : orderKind tag ≠ .pad) (known : orderKind tag ≠ .unknown)
    (short : r.body.length < requiredLength (orderKind tag) r.body) :
    exec c s = .next (s.answered tag r .badLength 0) :=
  (h.decided (decideRecord_short pad known short)).refused rfl

end State.Takes

/-! ### Records that are no orders (R12) -/

theorem takeRecord_pad {s : State} {r : Record} (h : s.Readable r) : s.takeRecord tagPAD r = s.afterRecord r := by
  obtain ⟨fill, scanning, -⟩ := h.scan
  have pad : decideRecord (s.afterRecord r) tagPAD r.body = none := by
    have kind : orderKind tagPAD = .pad := by decide
    simp [decideRecord, kind]
  unfold State.takeRecord
  simp only [h.takes_eq scanning, h.recordFault_eq_none scanning, passRecord_eq_afterRecord r scanning, pad]

theorem orderKind_unknown {tag : Word}
    (h : tag ∉ [tagLAYD, tagCLIP, tagMEMB, tagMRST, tagOPEN, tagCUES, tagXPRT, tagMARK, tagSHAR, tagSHUT, tagPAD]) :
    orderKind tag = .unknown := by
  simp only [List.mem_cons, List.not_mem_nil, or_false, not_or] at h
  simp [orderKind, h]

/-- Settles O19. -/
theorem padAndUndecodableRecords : Obligations.PadAndUndecodableRecords := by
  unfold Obligations.PadAndUndecodableRecords
  refine ⟨fun r s readable => ?_, fun c tag r s h => ⟨fun unknown => ?_, fun short => ?_⟩⟩
  · exact (exec_eq_takeRecord s rfl).trans (congrArg _ (takeRecord_pad readable))
  · exact (h.decided (decideRecord_unknown (orderKind_unknown unknown))).refused rfl
  · obtain ⟨rfl, short⟩ | ⟨rfl, short⟩ | ⟨rfl, short⟩ | ⟨rfl, short⟩ | ⟨rfl, short⟩ | ⟨rfl, short⟩ | ⟨rfl, short⟩ |
      ⟨rfl, short⟩ | ⟨rfl, short⟩ | ⟨rfl, short⟩ := short
    all_goals exact h.badLength (by decide) (by decide) short

/-! ### LAYD and CLIP (R27 to R29, R36, R37) -/

theorem decideLayd_noEntry {s : State} {b : List Byte} (h : 16 ≤ u8 b 4) : decideLayd s b = refuse .badField :=
  dif_neg (by omega)

theorem decideLayd_delete {s : State} {b : List Byte} {e : Fin 16} (he : u8 b 4 = e.val) (zero : u8 b 5 = 0) :
    decideLayd s b = layoutOrder e s.decoder.layout[e] (reference b) .delete := by
  simp [decideLayd, he, zero]

theorem decideLayd_define (s : State) {b : List Byte} {e : Fin 16} {d : LayoutDef} (he : u8 b 4 = e.val)
    (width : u8 b 5 ≠ 0) (reads : layoutDef b = some d) :
    decideLayd s b =
      if s.decoder.overlapsOther e d then refuse .overlap
      else layoutOrder e s.decoder.layout[e] (reference b) (.define d) := by
  simp [decideLayd, he, width, reads]

theorem decideLayd_badDef {s : State} {b : List Byte} (width : u8 b 5 ≠ 0) (bad : layoutDef b = none) :
    decideLayd s b = refuse .badField := by
  simp [decideLayd, width, bad]

theorem decideClip_noClip {s : State} {b : List Byte} (h : 256 ≤ u16 b 4) : decideClip s b = refuse .badField :=
  dif_neg (by omega)

theorem decideClip_badDef {s : State} {b : List Byte} (blocks : u32 b 24 ≠ 0) (bad : ∀ g, clipDef b g = none) :
    decideClip s b = refuse .badField := by
  simp [decideClip, blocks, bad]

theorem decideClip_empty {s : State} {b : List Byte} {k : Fin 256} (hk : u16 b 4 = k.val) (blocks : u32 b 24 = 0)
    (empty : (s.clip k).defined = false) : decideClip s b = refuse .noSuch := by
  simp [decideClip, hk, blocks, empty]

/-- The clip record that an accepted CLIP writes (R36, R37). -/
def State.ClipBecomes (s : State) (b : List Byte) (k : Fin 256) (x : Clip) : Prop :=
  u32 b 24 ≠ 0 ∧ clipDef b ((s.clip k).generation + 1) = some x ∨
    u32 b 24 = 0 ∧ (s.clip k).defined = true ∧ x = { Clip.reset with generation := (s.clip k).generation + 1 }

theorem decideClip_of_clip (s : State) {b : List Byte} {k : Fin 256} (hk : u16 b 4 = k.val) :
    decideClip s b =
      let generation := (s.clip k).generation + 1
      let taken (x : Clip) : Decision :=
        if s.clipInUse k then refuse .inUse else ⟨.ok, generation.toNat, fun s => s.changeClip k x⟩
      if u32 b 24 = 0 then
        if (s.clip k).defined then taken { Clip.reset with generation := generation } else refuse .noSuch
      else
        match clipDef b generation with
        | none => refuse .badField
        | some x => taken x := by
  have small : u16 b 4 < 256 := hk ▸ k.isLt
  obtain rfl : (⟨u16 b 4, small⟩ : Fin 256) = k := Fin.ext hk
  exact dif_pos small

theorem decideClip_taken {s : State} {b : List Byte} {k : Fin 256} {x : Clip} (hk : u16 b 4 = k.val)
    (h : s.ClipBecomes b k x) :
    decideClip s b =
      if s.clipInUse k then refuse .inUse
      else ⟨.ok, ((s.clip k).generation + 1).toNat, fun s => s.changeClip k x⟩ := by
  rw [decideClip_of_clip s hk]
  rcases h with ⟨blocks, reads⟩ | ⟨blocks, defined_, rfl⟩
  · dsimp only
    rw [if_neg blocks, reads]
  · dsimp only
    rw [if_pos blocks, if_pos defined_]

theorem State.clipInUse_iff (s : State) (k : Fin 256) :
    s.clipInUse k = true ↔
      ∃ (n : StreamId) (q : Cue), (s.stream n).state ≠ .closed ∧ q ∈ (s.stream n).cues ∧ q.gap = false ∧ q.clip = k.val := by
  simp [State.clipInUse, namesClip, allStreams, List.mem_finRange]

theorem Decoder.overlapsOther_iff (dec : Decoder) (e : Fin 16) (d : LayoutDef) :
    dec.overlapsOther e d = true ↔
      ∃ i : Fin 16, i ≠ e ∧ ∃ x ∈ dec.layout[i].takenRanges, d.first ≤ x.last ∧ x.first ≤ d.last := by
  simp [Decoder.overlapsOther, LayoutDef.overlaps, allLayouts, List.mem_finRange]

/-- Settles O22. -/
theorem laydAndClipRefusals : Obligations.LaydAndClipRefusals := by
  unfold Obligations.LaydAndClipRefusals
  refine ⟨fun c r s h long => ⟨fun noEntry => ?_, fun width bad => ?_, fun e i d he width reads other overlap => ?_,
    fun e he zero empty => ?_⟩, fun c r s h long => ⟨fun noClip => ?_, fun blocks bad => ?_, fun k hk =>
    ⟨fun blocks empty => ?_, fun n q opened mem clip named fields => ?_⟩⟩⟩
  · exact (h.layd long).refused (decideLayd_noEntry noEntry)
  · exact (h.layd long).refused (decideLayd_badDef width bad)
  · have overlaps := (s.decoder.overlapsOther_iff e d).2 ⟨i, other, overlap⟩
    exact (h.layd long).refused ((decideLayd_define s he width reads).trans (if_pos overlaps))
  · refine (h.layd long).refused ((decideLayd_delete he zero).trans ?_)
    unfold layoutOrder
    rw [empty]
    rfl
  · exact (h.clip long).refused (decideClip_noClip noClip)
  · exact (h.clip long).refused (decideClip_badDef blocks bad)
  · exact (h.clip long).refused (decideClip_empty hk blocks empty)
  · have inUse := (s.clipInUse_iff k).2 ⟨n, q, opened, mem, clip, named⟩
    obtain ⟨x, becomes⟩ : ∃ x, s.ClipBecomes r.body k x := by
      rcases fields with ⟨blocks, reads⟩ | ⟨blocks, defined_⟩
      · obtain ⟨x, read⟩ := Option.ne_none_iff_exists'.1 (reads ((s.clip k).generation + 1))
        exact ⟨x, .inl ⟨blocks, read⟩⟩
      · exact ⟨_, .inr ⟨blocks, defined_, rfl⟩⟩
    exact (h.clip long).refused ((decideClip_taken hk becomes).trans (if_pos inUse))

/-! ### XPRT (R45 to R58) -/

theorem decideXprt_noStream {s : State} {b : List Byte} (h : 64 ≤ u8 b 4) : decideXprt s b = refuse .badField :=
  dif_neg (by omega)

theorem decideXprt_noAction {s : State} {b : List Byte} (h : u8 b 5 = 0 ∨ 6 < u8 b 5) : decideXprt s b = refuse .badField := by
  unfold decideXprt
  split
  · dsimp only
    generalize u8 b 5 = k at h ⊢
    obtain rfl | high := h
    · rfl
    · obtain ⟨j, rfl⟩ : ∃ j, k = j + 7 := ⟨k - 7, by omega⟩
      rfl
  · rfl

/-- The decision on an action of XPRT for a stream (R45). -/
def xprtAction (s : State) (n : StreamId) (b : List Byte) : Nat → Decision
  | 1 => decidePlay s n b
  | 2 => decideHold s n b
  | 3 => decideResume s n
  | 4 => decidePark s n
  | 5 => decideLocate s n b
  | 6 => decideStep s n b
  | _ => refuse .badField

theorem decideXprt_action (s : State) {b : List Byte} {n : StreamId} (hn : u8 b 4 = n.val) :
    decideXprt s b = xprtAction s n b (u8 b 5) := by
  have small : u8 b 4 < 64 := hn ▸ n.isLt
  obtain rfl : (⟨u8 b 4, small⟩ : StreamId) = n := Fin.ext hn
  exact dif_pos small

/-- The table of R45: the actions that a stream's state does not take. -/
theorem xprtAction_wrongState {s : State} {n : StreamId} {b : List Byte}
    (h : (u8 b 5 = 1 ∧ ((s.stream n).state = .closed ∨ (s.stream n).state = .seeking)) ∨
      (u8 b 5 = 2 ∧ (s.stream n).state ≠ .running) ∨ (u8 b 5 = 3 ∧ (s.stream n).state ≠ .held) ∨
      (u8 b 5 = 4 ∧ (s.stream n).state = .closed) ∨ (u8 b 5 = 5 ∧ (s.stream n).state = .closed) ∨
      (u8 b 5 = 6 ∧ (s.stream n).state ≠ .parked)) : xprtAction s n b (u8 b 5) = refuse .wrongState := by
  rcases h with ⟨action, state⟩ | ⟨action, state⟩ | ⟨action, state⟩ | ⟨action, state⟩ | ⟨action, state⟩ | ⟨action, state⟩
  all_goals rw [action]
  · exact if_pos state
  · exact if_pos state
  · exact if_pos state
  · simp only [xprtAction, decidePark, state]
  · exact if_pos state
  · exact if_pos state

theorem decidePlay_badField {s : State} {n : StreamId} {b : List Byte} (opened : (s.stream n).state ≠ .closed)
    (free : (s.stream n).state ≠ .seeking) (h : s16 b 8 = 0 ∨ startTimeFlag b = true ∧ 2 ^ 63 ≤ u64 b 24) :
    decidePlay s n b = refuse .badField := by
  by_cases zero : s16 b 8 = 0
  · simp [decidePlay, opened, free, zero]
  · have late := h.resolve_left zero
    unfold decidePlay
    rw [if_neg (by simp [opened, free]), if_neg zero, if_pos late]

theorem startTimeFlag_of {b : List Byte} (h : u8 b 7 % 2 = 1) : startTimeFlag b = true := by simp [startTimeFlag, h]

/-- Settles O37. -/
theorem transportRefusals : Obligations.TransportRefusals := by
  unfold Obligations.TransportRefusals
  intro c r s h
  dsimp only
  intro long
  refine ⟨fun noStream => (h.xprt long).refused (decideXprt_noStream noStream), fun n hn => ?_⟩
  have action (hd : xprtAction s n r.body (u8 r.body 5) = refuse .badField) :=
    (h.xprt long).refused ((decideXprt_action s hn).trans hd)
  have wrong (hd) := (h.xprt long).refused ((decideXprt_action s hn).trans (xprtAction_wrongState hd))
  refine ⟨fun bad => (h.xprt long).refused (decideXprt_noAction bad), fun low high closed => wrong ?_, fun act state =>
    wrong ?_, fun act state => wrong ?_, fun act state => wrong ?_, fun act state => wrong ?_, fun act opened free =>
    ⟨fun zero => action ?_, fun _ flag late => action ?_⟩, fun act opened bad => action ?_, fun act parked bad => action ?_⟩
  · simp only [closed]
    simp
    omega
  · exact .inl ⟨act, .inr state⟩
  · exact .inr (.inl ⟨act, state⟩)
  · exact .inr (.inr (.inl ⟨act, state⟩))
  · exact .inr (.inr (.inr (.inr (.inr ⟨act, state⟩))))
  · rw [act]
    exact decidePlay_badField opened free (.inl zero)
  · rw [act]
    exact decidePlay_badField opened free (.inr ⟨startTimeFlag_of flag, late⟩)
  · rw [act]
    exact (if_neg opened).trans (if_pos bad)
  · rw [act]
    exact (if_neg (not_not.2 parked)).trans (if_pos bad)

end Sys2Proof.Machine
end

section
/-! SUPPORT. OPEN, CUES (their refusals), SHUT and SHAR (R42 to R44, R60, R80, R147 to R149). -/

namespace Sys2Proof.Machine

/-! ### Rates and the transmit test (R42, R43) -/

/-- The rate that the order asks for is in its range, or asks for the native one (R42). -/
def RateAsked (n d : Nat) : Prop :=
  n = 0 ∧ d = 0 ∨ 1 ≤ n ∧ n ≤ 480000 ∧ 1 ≤ d ∧ d ≤ 2002 ∧ d ≤ n ∧ n ≤ 240 * d

theorem rateOk_iff (n d : Nat) :
    ((n == 0 && d == 0) || rateOk n d) = true ↔ RateAsked n d := by
  simp only [rateOk, RateAsked, Bool.or_eq_true, Bool.and_eq_true, beq_iff_eq, decide_eq_true_eq, and_assoc]

theorem openFieldsOk_iff (b : List Byte) :
    openFieldsOk b = true ↔
      RateAsked (u32 b 8) (u32 b 12) ∧ u8 b 5 ≤ 1 ∧ 1 ≤ u32 b 16 ∧ u32 b 16 ≤ 12000 ∧ u32 b 20 ≤ 20000000 ∧
        u32 b 24 ≤ 1000000000 ∧ 1 ≤ u8 b 6 ∧ u8 b 6 ≤ 16 ∧ u8 b 7 ≤ 2 ∧ u32 b 28 ≤ 1000000000 ∧ 1 ≤ u16 b 38 ∧
        u8 b 45 ≤ 64 := by
  unfold openFieldsOk
  simp only [Bool.and_eq_true (a := _ && _) (b := decide _), decide_eq_true_eq, and_assoc]
  rw [← rateOk_iff]
  simp only [Bool.and_eq_true, decide_eq_true_eq, and_assoc]

/-- A CLIP cue passes the transmit test of R43 at the egress limit `e` within `q`. -/
def State.Passes (s : State) (q e : Nat) (c : Cue) : Prop :=
  c.gap = true ∨ ((s.clipAt c.clip).bytes * 1000 + e - 1) / e ≤ q

theorem not_passes_iff (s : State) (q e : Nat) (c : Cue) :
    (!c.gap && decide (q < allowance (s.clipAt c.clip).bytes e)) = true ↔ ¬ s.Passes q e c := by
  cases gap : c.gap
  · simp only [State.Passes, allowance, ceilDiv, gap, Bool.not_false, Bool.true_and, Bool.false_eq_true, false_or, not_le]
    exact decide_eq_true_iff
  · simp [State.Passes, gap]

theorem tooSlowAt_append {s : State} {q e : Nat} (i : Nat) {k : List Cue} (rest : List Cue) (h : ∀ z ∈ k, s.Passes q e z) :
    tooSlowAt s q e i (k ++ rest) = tooSlowAt s q e (i + k.length) rest := by
  induction k generalizing i with
  | nil => rfl
  | cons c k ih =>
    have passes := h c (List.mem_cons_self ..)
    rw [List.cons_append, tooSlowAt, if_neg (fun bad => (not_passes_iff s q e c).1 bad passes),
      ih (i + 1) fun z mem => h z (List.mem_cons_of_mem _ mem), List.length_cons]
    congr 1
    omega

theorem tooSlowAt_none {s : State} {q e : Nat} {cues : List Cue} (i : Nat) (h : ∀ z ∈ cues, s.Passes q e z) :
    tooSlowAt s q e i cues = none := by
  have scan := tooSlowAt_append i [] h
  simpa [tooSlowAt] using scan

/-- The first cue that fails the transmit test is the one that is named (R43). -/
theorem tooSlowAt_first {s : State} {q e : Nat} {k rest : List Cue} {y : Cue} (i : Nat) (h : ∀ z ∈ k, s.Passes q e z)
    (bad : ¬ s.Passes q e y) : tooSlowAt s q e i (k ++ y :: rest) = some (i + k.length) := by
  rw [tooSlowAt_append i _ h, tooSlowAt, if_pos ((not_passes_iff s q e y).2 bad)]

/-- The rate that a stream takes (R43). -/
def State.RateOf (s : State) (b : List Byte) (cues : List Cue) (rate : Nat × Nat) : Prop :=
  u32 b 8 ≠ 0 ∧ rate = (u32 b 8, u32 b 12) ∨
    u32 b 8 = 0 ∧ ∃ k y rest, cues = k ++ y :: rest ∧ (∀ g ∈ k, g.gap = true) ∧ y.gap = false ∧
      rate = ((s.clipAt y.clip).rateN, (s.clipAt y.clip).rateD)

theorem firstClip_first {k rest : List Cue} {y : Cue} (gaps : ∀ g ∈ k, g.gap = true) (clip : y.gap = false) :
    firstClip (k ++ y :: rest) = some y.clip := by
  induction k with
  | nil => simp [firstClip, clip]
  | cons c k ih =>
    rw [List.cons_append, firstClip, if_pos (gaps c (List.mem_cons_self ..))]
    exact ih fun g mem => gaps g (List.mem_cons_of_mem _ mem)

theorem firstClip_gaps {cues : List Cue} (gaps : ∀ g ∈ cues, g.gap = true) : firstClip cues = none := by
  induction cues with
  | nil => rfl
  | cons c k ih =>
    rw [firstClip, if_pos (gaps c (List.mem_cons_self ..))]
    exact ih fun g mem => gaps g (List.mem_cons_of_mem _ mem)

/-- A rate field of 0 that is in range asks for the native rate (R42). -/
theorem RateAsked.native {n d : Nat} (h : RateAsked n d) (zero : n = 0) : n = 0 ∧ d = 0 := by
  rcases h with both | ranges
  · exact both
  · omega

theorem openRate_of {s : State} {b : List Byte} {cues : List Cue} {rate : Nat × Nat}
    (asked : RateAsked (u32 b 8) (u32 b 12)) (h : s.RateOf b cues rate) : openRate s b cues = some rate := by
  rcases h with ⟨own, rfl⟩ | ⟨zero, k, y, rest, rfl, gaps, clip, rfl⟩
  · exact if_neg fun both => own both.1
  · unfold openRate
    rw [if_pos (asked.native zero), firstClip_first gaps clip]

theorem openRate_none {s : State} {b : List Byte} {cues : List Cue} (asked : RateAsked (u32 b 8) (u32 b 12))
    (zero : u32 b 8 = 0) (gaps : ∀ y ∈ cues, y.gap = true) : openRate s b cues = none := by
  unfold openRate
  rw [if_pos (asked.native zero), firstClip_gaps gaps]

/-! ### The decision on an OPEN (R42 to R44) -/

theorem decideOpen_noStream {s : State} {b : List Byte} (h : 64 ≤ u8 b 4) : decideOpen s b = refuse .badField :=
  dif_neg (by omega)

/-- An OPEN whose fields and cues are in order: the rate, the transmit test and the port decide (R43, R145). -/
def openRest (s : State) (n : StreamId) (b : List Byte) (cues : List Cue) : Decision :=
  match openRate s b cues with
  | none => refuse .badField
  | some rate =>
    let x := openedStream (s.stream n) b rate cues
    match tooSlowAt s x.q x.egress 0 cues with
    | some i => ⟨.tooSlow, i, id⟩
    | none =>
      if (s.port x.port).admits x.egress then
        ⟨okOr (clampPosition cues (u8 b 44) (u32 b 48)).2.2, 0,
          fun s => ((s.setStream n x).allocate x.port x.egress).markMirror n⟩
      else refuse .noBandwidth

theorem decideOpen_of_stream (s : State) {b : List Byte} {n : StreamId} (hn : u8 b 4 = n.val) :
    decideOpen s b =
      if (s.stream n).state ≠ .closed then refuse .inUse
      else if !openFieldsOk b then refuse .badField
      else if u8 b 45 = 0 then refuse .empty
      else
        match checkCues s.decoder [] 0 (rawCues b 56 (u8 b 45)) with
        | .refused code i => ⟨code, i, id⟩
        | .accepted cues => openRest s n b cues := by
  have small : u8 b 4 < 64 := hn ▸ n.isLt
  obtain rfl : (⟨u8 b 4, small⟩ : StreamId) = n := Fin.ext hn
  exact dif_pos small

/-- The decision once the checks of R42 on the fields and the cues have passed. -/
theorem decideOpen_accepted {s : State} {b : List Byte} {n : StreamId} {cues : List Cue} (hn : u8 b 4 = n.val)
    (closed : (s.stream n).state = .closed) (fields : openFieldsOk b = true) (some_ : u8 b 45 ≠ 0)
    (accepted : checkCues s.decoder [] 0 (rawCues b 56 (u8 b 45)) = .accepted cues) :
    decideOpen s b = openRest s n b cues := by
  rw [decideOpen_of_stream s hn, if_neg (not_not.2 closed), if_neg (by simp [fields]), if_neg some_, accepted]

theorem openRest_rate {s : State} {n : StreamId} {b : List Byte} {cues : List Cue} {rate : Nat × Nat}
    (h : openRate s b cues = some rate) :
    openRest s n b cues =
      let x := openedStream (s.stream n) b rate cues
      match tooSlowAt s (1000000000 * rate.2 / rate.1) (u32 b 16) 0 cues with
      | some i => ⟨.tooSlow, i, id⟩
      | none =>
        if (s.port x.port).admits (u32 b 16) then
          ⟨okOr (clampPosition cues (u8 b 44) (u32 b 48)).2.2, 0,
            fun s => ((s.setStream n x).allocate x.port (u32 b 16)).markMirror n⟩
        else refuse .noBandwidth := by
  unfold openRest
  rw [h]
  rfl

theorem admits_iff (p : PortState) (e : Nat) : p.admits e = true ↔ p.allocated + e ≤ 12000 := decide_eq_true_iff

/-- The refusals of OPEN whose fields and cues are in order (R43, R145). -/
theorem openRest_refusals {s : State} {n : StreamId} {b : List Byte} {cues : List Cue} {rate : Nat × Nat}
    (asked : RateAsked (u32 b 8) (u32 b 12)) (takes : s.RateOf b cues rate) :
    (∀ k y rest, cues = k ++ y :: rest → (∀ z ∈ k, s.Passes (1000000000 * rate.2 / rate.1) (u32 b 16) z) →
      ¬ s.Passes (1000000000 * rate.2 / rate.1) (u32 b 16) y → openRest s n b cues = ⟨.tooSlow, k.length, id⟩) ∧
    ((∀ z ∈ cues, s.Passes (1000000000 * rate.2 / rate.1) (u32 b 16) z) →
      12000 < (s.port (if u8 b 5 = 0 then .e0 else .e1)).allocated + u32 b 16 →
      openRest s n b cues = refuse .noBandwidth) := by
  rw [openRest_rate (openRate_of asked takes)]
  refine ⟨fun k y rest split before bad => ?_, fun pass full => ?_⟩
  · subst split
    dsimp only
    rw [tooSlowAt_first 0 before bad, Nat.zero_add]
  · dsimp only
    rw [tooSlowAt_none 0 pass]
    exact if_neg fun room => absurd ((admits_iff _ _).1 room) (Nat.not_le.2 full)

/-- An OPEN that passes every check (R44). -/
theorem openRest_opens {s : State} {n : StreamId} {b : List Byte} {cues : List Cue} {rate : Nat × Nat}
    (asked : RateAsked (u32 b 8) (u32 b 12)) (takes : s.RateOf b cues rate)
    (pass : ∀ z ∈ cues, s.Passes (1000000000 * rate.2 / rate.1) (u32 b 16) z)
    (room : (s.port (if u8 b 5 = 0 then .e0 else .e1)).allocated + u32 b 16 ≤ 12000) :
    openRest s n b cues =
      ⟨if (clampPosition cues (u8 b 44) (u32 b 48)).2.2 then .clamped else .ok, 0, fun t =>
        ((t.setStream n (openedStream (s.stream n) b rate cues)).allocate (if u8 b 5 = 0 then .e0 else .e1)
          (u32 b 16)).markMirror n⟩ := by
  rw [openRest_rate (openRate_of asked takes)]
  dsimp only
  rw [tooSlowAt_none 0 pass]
  exact if_pos ((admits_iff _ _).2 room)

theorem State.Settled.setStream_idle {s : State} (h : s.Settled) {n : StreamId} {x : Stream} (empty : x.unsent = []) :
    (s.setStream n x).Settled := by
  intro k
  by_cases hk : n = k
  · subst hk
    simp [State.wakeable, empty]
  · simpa [State.wakeable, State.inWait, State.setStream_stream_ne s x hk] using h k

@[simp] theorem answered_port (s : State) (tag : Word) (r : Record) (code : Result) (v : Nat) (p : Port) :
    (s.answered tag r code v).port p = s.port p := by
  simp [State.answered, State.afterRecord, State.port]

theorem policyOf_code {k : Nat} (h : k ≤ 2) : (policyOf k).code = k := by
  obtain rfl | rfl | rfl : k = 0 ∨ k = 1 ∨ k = 2 := by omega
  · rfl
  · rfl
  · rfl

/-- A stream that OPEN makes has viewer 0 alone (R146). -/
theorem openedStream_others (old : Stream) (b : List Byte) (rate : Nat × Nat) (cues : List Cue) {i : Fin 8} (h : i ≠ 0) :
    (openedStream old b rate cues).viewers[i] = none := by
  have ne : 0 ≠ i.val := fun e => h (Fin.ext e.symm)
  simp [openedStream, Stream.resetProjection, ne]

/-- Settles O27. -/
theorem openOpensTheStream : Obligations.OpenOpensTheStream := by
  unfold Obligations.OpenOpensTheStream
  intro c r s n cues rate h
  dsimp only
  intro long hn closed asked port low high margin latency depth deep policy slip udp some_ few accepted takes pass room
  have fields : openFieldsOk r.body = true := (openFieldsOk_iff r.body).2
    ⟨asked, port, low, high, margin, latency, depth, deep, policy, slip, udp, few⟩
  have decision := (decideOpen_accepted hn closed fields (by omega) accepted).trans (openRest_opens asked takes pass room)
  refine ⟨openedStream (s.stream n) r.body rate cues, ?_, rfl, rfl, rfl, rfl, rfl, rfl, rfl, rfl, rfl, rfl, ?_, rfl, rfl, rfl,
    rfl, rfl, rfl, rfl, rfl, rfl, rfl, rfl, rfl, rfl, rfl, rfl, ?_, rfl, ?_, rfl, rfl, rfl, rfl⟩
  · refine ((h.opens long).done decision ?_).trans ?_
    · exact settled_of_streams
        ((h.settled.answered tagOPEN r (if (clampPosition cues (u8 r.body 44) (u32 r.body 48)).2.2 then .clamped else .ok)
          0).setStream_idle (n := n) (x := openedStream (s.stream n) r.body rate cues) rfl)
        (by simp [State.allocate]) (by simp [State.allocate])
    · simp only [State.allocate, State.setStream_port, answered_port]
  · exact policyOf_code policy
  · exact fun i => Vector.getElem_replicate ..
  · exact fun i ne => openedStream_others _ _ _ _ ne

/-! ### The refusals of OPEN and CUES (R42 to R44, R80) -/

/-- The decision on a CUES from the list check on (R80 to R82). -/
def cuesAction (s : State) (n : StreamId) (b : List Byte) : Decision :=
  if u8 b 5 = 0 then decideReplace s n b else decideAppend s n b

theorem decideCues_noStream {s : State} {b : List Byte} (h : 64 ≤ u8 b 4) : decideCues s b = refuse .badField :=
  dif_neg (by omega)

theorem decideCues_of_stream (s : State) {b : List Byte} {n : StreamId} (hn : u8 b 4 = n.val) :
    decideCues s b =
      if 1 < u8 b 5 then refuse .badField
      else if (s.stream n).state = .closed ∨ (u8 b 5 = 0 ∧ (s.stream n).state = .seeking) then refuse .wrongState
      else if 64 < u8 b 7 then refuse .badField
      else if u8 b 7 = 0 then refuse .empty
      else cuesAction s n b := by
  have small : u8 b 4 < 64 := hn ▸ n.isLt
  obtain rfl : (⟨u8 b 4, small⟩ : StreamId) = n := Fin.ext hn
  exact dif_pos small

/-- A stream that takes a CUES in the mode of the order (R80). -/
def Stream.TakesCues (x : Stream) (mode : Nat) : Prop :=
  mode ≤ 1 ∧ x.state ≠ .closed ∧ (mode = 0 → x.state ≠ .seeking)

theorem decideCues_taken {s : State} {b : List Byte} {n : StreamId} (hn : u8 b 4 = n.val)
    (takes : (s.stream n).TakesCues (u8 b 5)) :
    decideCues s b = if 64 < u8 b 7 then refuse .badField else if u8 b 7 = 0 then refuse .empty else cuesAction s n b := by
  obtain ⟨mode, opened, free⟩ := takes
  rw [decideCues_of_stream s hn, if_neg (by omega),
    if_neg (fun wrong => wrong.elim opened fun seeking => free seeking.1 seeking.2)]

theorem decideCues_action {s : State} {b : List Byte} {n : StreamId} (hn : u8 b 4 = n.val)
    (takes : (s.stream n).TakesCues (u8 b 5)) (some_ : 1 ≤ u8 b 7) (few : u8 b 7 ≤ 64) :
    decideCues s b = cuesAction s n b := by
  rw [decideCues_taken hn takes, if_neg (by omega), if_neg (by omega)]

/-- The first check on the cues of a CUES that fails (R79, R80). -/
theorem cuesAction_refused {s : State} {n : StreamId} {b : List Byte} {code : Result} {i : Nat} (mode : u8 b 5 ≤ 1)
    (room : u8 b 5 = 1 → (s.stream n).cues.length + u8 b 7 ≤ 64)
    (refused : checkCues s.decoder (if u8 b 5 = 1 then (s.stream n).cues else []) 0 (rawCues b 16 (u8 b 7)) = .refused code i) :
    cuesAction s n b = ⟨code, i, id⟩ := by
  unfold cuesAction
  split
  · next replace =>
    rw [if_neg (by omega)] at refused
    unfold decideReplace
    rw [refused]
  · have append : u8 b 5 = 1 := by omega
    rw [if_pos append] at refused
    unfold decideAppend
    dsimp only
    rw [if_neg (Nat.not_lt.2 (room append)), refused]

/-- The first cue of a CUES that fails the transmit test (R43, R80). -/
theorem cuesAction_tooSlow {s : State} {n : StreamId} {b : List Byte} {cues k rest : List Cue} {y : Cue} (mode : u8 b 5 ≤ 1)
    (room : u8 b 5 = 1 → (s.stream n).cues.length + u8 b 7 ≤ 64)
    (accepted : checkCues s.decoder (if u8 b 5 = 1 then (s.stream n).cues else []) 0 (rawCues b 16 (u8 b 7)) = .accepted cues)
    (split_ : cues.drop (if u8 b 5 = 1 then (s.stream n).cues.length else 0) = k ++ y :: rest)
    (before : ∀ z ∈ k, s.Transmittable (s.stream n) z) (bad : ¬ s.Transmittable (s.stream n) y) :
    cuesAction s n b = ⟨.tooSlow, k.length, id⟩ := by
  have slow : tooSlowAt s (s.stream n).q (s.stream n).egress 0 (k ++ y :: rest) = some k.length :=
    (tooSlowAt_first 0 before bad).trans (by rw [Nat.zero_add])
  unfold cuesAction
  split
  · next replace =>
    rw [if_neg (by omega)] at accepted split_
    rw [List.drop_zero] at split_
    unfold decideReplace
    rw [accepted, split_]
    dsimp only
    rw [slow]
  · have append : u8 b 5 = 1 := by omega
    rw [if_pos append] at accepted split_
    unfold decideAppend
    dsimp only
    rw [if_neg (Nat.not_lt.2 (room append)), accepted]
    dsimp only
    rw [split_, slow]

theorem cuesAction_full {s : State} {n : StreamId} {b : List Byte} (append : u8 b 5 = 1)
    (full : 64 < (s.stream n).cues.length + u8 b 7) : cuesAction s n b = ⟨.full, (s.stream n).cues.length, id⟩ :=
  (if_neg (by omega)).trans (if_pos full)

theorem openFieldsOk_false {b : List Byte}
    (h : ¬ RateAsked (u32 b 8) (u32 b 12) ∨ 1 < u8 b 5 ∨ u32 b 16 = 0 ∨ 12000 < u32 b 16 ∨ 20000000 < u32 b 20 ∨
      1000000000 < u32 b 24 ∨ u8 b 6 = 0 ∨ 16 < u8 b 6 ∨ 2 < u8 b 7 ∨ 1000000000 < u32 b 28 ∨ u16 b 38 = 0 ∨ 64 < u8 b 45) :
    openFieldsOk b = false := by
  refine Bool.eq_false_iff.2 fun ok => ?_
  obtain ⟨asked, rest⟩ := (openFieldsOk_iff b).1 ok
  rcases h with unasked | h
  · exact unasked asked
  · omega

/-- Settles O28. -/
theorem openAndCuesRefusals : Obligations.OpenAndCuesRefusals := by
  unfold Obligations.OpenAndCuesRefusals
  refine ⟨fun c r s h => ?_, fun c r s h => ?_⟩
  · dsimp only
    intro long
    refine ⟨fun noStream => (h.opens long).refused (decideOpen_noStream noStream), fun n hn =>
      ⟨fun opened => ?_, fun closed => ⟨fun bad => ?_, fun fields zero => ?_, fun code i fields some_ refused => ?_,
        fun cues fields some_ accepted => ?_⟩⟩⟩
    · exact (h.opens long).refused ((decideOpen_of_stream s hn).trans (if_pos opened))
    · refine (h.opens long).refused ?_
      rw [decideOpen_of_stream s hn, if_neg (not_not.2 closed), if_pos (by simp [openFieldsOk_false bad])]
    · refine (h.opens long).refused ?_
      rw [decideOpen_of_stream s hn, if_neg (not_not.2 closed), if_neg (by simp [fields]), if_pos zero]
    · refine (h.opens long).idle ?_
      rw [decideOpen_of_stream s hn, if_neg (not_not.2 closed), if_neg (by simp [fields]), if_neg some_, refused]
    · obtain ⟨asked, -⟩ := (openFieldsOk_iff r.body).1 fields
      have decision := decideOpen_accepted hn closed fields some_ accepted
      refine ⟨fun zero gaps => (h.opens long).refused (decision.trans ?_), fun rate takes => ?_⟩
      · unfold openRest
        rw [openRate_none asked zero gaps]
      · obtain ⟨slow, full⟩ := openRest_refusals (n := n) asked takes
        refine ⟨fun k y rest split before clip bad => ?_, fun pass crowded => ?_⟩
        · refine (h.opens long).idle (decision.trans (slow k y rest split before ?_))
          rintro (gap | pass)
          · exact absurd gap (by simp [clip])
          · omega
        · exact (h.opens long).refused (decision.trans (full pass crowded))
  · dsimp only
    intro long
    refine ⟨fun noStream => (h.cues long).refused (decideCues_noStream noStream), fun n hn =>
      ⟨fun mode => ?_, fun mode wrong => ?_, fun mode opened free => ?_⟩⟩
    · exact (h.cues long).refused ((decideCues_of_stream s hn).trans (if_pos mode))
    · refine (h.cues long).refused ?_
      rw [decideCues_of_stream s hn, if_neg (by omega), if_pos wrong]
    · have takes : (s.stream n).TakesCues (u8 r.body 5) := ⟨mode, opened, free⟩
      refine ⟨fun many => ?_, fun zero => ?_, fun some_ few append full => ?_, fun code i some_ few room refused => ?_,
        fun cues k y rest some_ few room accepted split before bad => ?_⟩
      · exact (h.cues long).refused ((decideCues_taken hn takes).trans (if_pos many))
      · refine (h.cues long).refused ?_
        rw [decideCues_taken hn takes, if_neg (by omega), if_pos zero]
      · exact (h.cues long).idle ((decideCues_action hn takes some_ few).trans (cuesAction_full append full))
      · exact (h.cues long).idle ((decideCues_action hn takes some_ few).trans (cuesAction_refused mode room refused))
      · exact (h.cues long).idle
          ((decideCues_action hn takes some_ few).trans (cuesAction_tooSlow mode room accepted split before bad))

end Sys2Proof.Machine
end

section
/-! SUPPORT. The operations that change no stream: freeing and releasing directory entries (R107, R120, R121), the wait list
(R113), and the transmitter (R152); and what closing, SHUT and SHAR come to. -/

namespace Sys2Proof.Machine

/-! ### Operations that change no stream -/

theorem foldl_streams {α : Type} {f : State → α → State} (h : ∀ s x, (f s x).streams = s.streams) (l : List α) (s : State) :
    (l.foldl f s).streams = s.streams := by
  induction l generalizing s with
  | nil => rfl
  | cons x l ih => rw [List.foldl_cons, ih, h]

@[simp] theorem State.freeEntry_streams (s : State) (d : Nat) : (s.freeEntry d).streams = s.streams := rfl

@[simp] theorem State.joinReclaim_streams (s : State) (d : Nat) : (s.joinReclaim d).streams = s.streams := rfl

@[simp] theorem State.freeIfDone_streams (s : State) (d : Nat) : (s.freeIfDone d).streams = s.streams := by
  unfold State.freeIfDone
  split
  · rfl
  · split
    · rfl
    · rfl

@[simp] theorem State.countDown_streams (s : State) (d : Nat) : (s.countDown d).streams = s.streams := by
  unfold State.countDown
  split
  · rfl
  · rfl

@[simp] theorem State.settleWithdrawn_streams (s : State) (c : Chunk) : (s.settleWithdrawn c).streams = s.streams := by
  simp [State.settleWithdrawn, State.dropChunk]

@[simp] theorem State.withdrawQueued_streams (s : State) (d : Nat) : (s.withdrawQueued d).streams = s.streams :=
  foldl_streams State.settleWithdrawn_streams _ s

@[simp] theorem State.settleStale_streams (s : State) (d : Nat) : (s.settleStale d).streams = s.streams := by
  simp [State.settleStale]

@[simp] theorem State.addWaiter_streams (s : State) (w : Waiter) : (s.addWaiter w).streams = s.streams := rfl

@[simp] theorem State.removeWaiters_streams (s : State) (p : Waiter → Bool) : (s.removeWaiters p).streams = s.streams := rfl

@[simp] theorem State.moveWaiter_streams (s : State) (p : Waiter → Bool) (d : Deadline) : (s.moveWaiter p d).streams = s.streams := by
  unfold State.moveWaiter
  split
  · rfl
  · split
    · rfl
    · rfl

@[simp] theorem State.putDeadline_streams (s : State) (e : DirEntry) (d : Deadline) : (s.putDeadline e d).streams = s.streams := by
  unfold State.putDeadline
  dsimp only
  split
  · simp [State.changeChunks]
  · rfl

@[simp] theorem State.putCls_streams (s : State) (e : DirEntry) (c : Cls) : (s.putCls e c).streams = s.streams := rfl

@[simp] theorem State.idle_streams (s : State) (e : DirEntry) : (s.idle e).streams = s.streams := by
  unfold State.idle
  split
  · simp
  · split
    · simp
    · simp
    · dsimp only
      split
      · simp
      · simp

@[simp] theorem State.release_streams (s : State) (d : Nat) : (s.release d).streams = s.streams := by
  unfold State.release
  split
  · rfl
  · dsimp only
    split
    · simp
    · simp

@[simp] theorem State.giveBack_streams (n : StreamId) (s : State) (e : Entry) : (State.giveBack n s e).streams = s.streams := by
  unfold State.giveBack
  split
  · simp
  · simp

@[simp] theorem State.cutTransmission_streams (s : State) (p : Port) : (s.cutTransmission p).streams = s.streams := by
  unfold State.cutTransmission
  split
  · simp
  · rfl

@[simp] theorem State.sendNext_streams (s : State) (p : Port) (n : StreamId) (x : Presentation) :
    (s.sendNext p n x).streams = s.streams := by
  unfold State.sendNext
  split
  · rfl
  · dsimp only
    split
    · simp
    · simp

@[simp] theorem State.transmit_streams (s : State) (p : Port) : (s.transmit p).streams = s.streams := by
  unfold State.transmit
  split
  · rfl
  · split
    · rfl
    · simp

@[simp] theorem State.cutStream_streams (s : State) (n : StreamId) (p : Port) : (s.cutStream n p).streams = s.streams := by
  unfold State.cutStream
  split
  · split
    · simp
    · rfl
  · rfl

theorem State.stream_congr {s t : State} (h : t.streams = s.streams) (n : StreamId) : t.stream n = s.stream n := by
  simp only [State.stream, h]

/-- A discard changes its own stream alone (R97). -/
theorem State.discard_streams (s : State) (n : StreamId) :
    (s.discard n).streams =
      (s.setStream n
        { s.stream n with
          window := (s.stream n).window.filter (fun e => e.stage == .sending), slipEnd := none : Stream }.resetProjection).streams :=
  foldl_streams (State.giveBack_streams n) _ _

/-! ### Closing (R60) -/

theorem State.raise_notified (s : State) (b : NoticeBody) : (s.raise b).Notified b s.et := by
  rcases s.raiseAt_region_cases s.et b with h | ⟨-, -, h⟩
  · exact .inr (congrArg Region.noticesLost h)
  · exact .inl ((congrArg Region.notices h).symm ▸ List.mem_append_right _ (List.mem_singleton_self _))

theorem State.emptied_stream_ne (s : State) {n k : StreamId} (h : n ≠ k) : (s.emptied n).stream k = s.stream k := by
  have tail (t : State) (x : Option Entry) :
      (match x with | some e => State.giveBack n t e | none => t).streams = t.streams := by
    cases x with
    | none => rfl
    | some e => exact State.giveBack_streams n t e
  have cut : (((s.setPresentation n none).cutStream n (s.stream n).port).discard n).stream k = s.stream k := by
    rw [State.stream_congr (State.discard_streams _ n), State.setStream_stream_ne _ _ h]
    exact State.stream_congr (by simp [State.setPresentation, State.setEgress]) k
  exact (State.stream_congr (tail _ _) k).trans cut

@[simp] theorem State.abandon_streams (s : State) (n : StreamId) (x : Stream) : (s.abandon n x).streams = s.streams := by
  unfold State.abandon
  split
  · split
    · simp
    · rfl
  · rfl

theorem State.closeStream_stream (s : State) (n : StreamId) : (s.closeStream n).stream n = ((s.emptied n).stream n).shut := by
  rw [State.closeStream_eq, State.stream_congr (State.abandon_streams ..)]
  exact State.setStream_stream ..

theorem State.closeStream_stream_ne (s : State) {n k : StreamId} (h : n ≠ k) : (s.closeStream n).stream k = s.stream k := by
  rw [State.closeStream_eq, State.stream_congr (State.abandon_streams ..)]
  refine (State.setStream_stream_ne _ _ h).trans ?_
  exact (State.stream_congr (by simp [State.withdrawRate]) k).trans (s.emptied_stream_ne h)

/-- Whether a stream wakes rests on its record and on Engine Time (R74, R75). -/
theorem State.wakeable_congr {s t : State} {n : StreamId} (h : t.stream n = s.stream n) (et : t.et = s.et) :
    t.wakeable n = s.wakeable n := by
  unfold State.wakeable State.inWait
  rw [h, et]

theorem State.wakeable_none {s : State} {n : StreamId} (h : (s.stream n).unsent = []) : s.wakeable n = none := by
  simp only [State.wakeable, h]

/-- Closing a stream wakes no other. -/
theorem State.Settled.closeStream {s : State} (h : s.Settled) (n : StreamId) : (s.closeStream n).Settled := by
  intro k
  by_cases e : n = k
  · subst e
    exact State.wakeable_none (by rw [s.closeStream_stream]; rfl)
  · exact (State.wakeable_congr (s.closeStream_stream_ne e) (Calm.closeStream (A := fun _ => True) s n).et).trans (h k)

theorem Calm.emptied (s : State) (n : StreamId) : Calm (fun _ => True) s (s.emptied n) :=
  ((Calm.setPresentation s n none (.inl rfl)).trans (Calm.cutStream _ n _)).trans
    ((Calm.discard _ n trivial).trans (Calm.emptiedEnd n _ _))

/-- The rates once a stream has been closed (R60, R145). -/
theorem State.closeStream_allocated (s : State) (n : StreamId) (p : Port) :
    ((s.closeStream n).port p).allocated =
      if p = (s.stream n).port then (s.port p).allocated - (s.stream n).egress * (s.stream n).unmuted
      else (s.port p).allocated := by
  have emptied := Calm.emptied s n
  rw [State.closeStream_eq, (Calm.abandon (A := fun _ => True) _ _ _).same p]
  have shown : (((((s.emptied n).withdrawRate (s.stream n).port ((s.stream n).egress * (s.stream n).unmuted)).setStream n
      ((s.emptied n).stream n).shut).markMirror n).port p) =
      ((s.emptied n).withdrawRate (s.stream n).port ((s.stream n).egress * (s.stream n).unmuted)).port p :=
    State.setStream_port _ n ((s.emptied n).stream n).shut p
  rw [shown, State.withdrawRate]
  split
  · next same =>
    subst same
    rw [State.setPort_port, emptied.same]
  · next other => rw [State.setPort_port_ne _ _ (fun e => other e.symm), emptied.same]

theorem State.closeStream_presentation (s : State) (n : StreamId) : (s.closeStream n).presentation n = none := by
  rw [State.closeStream_eq]
  refine (Calm.abandon (A := fun _ => False) _ _ _).quiet n id ?_
  exact ((s.emptied n).setPort_presentation ..).trans (s.emptied_presentation n)

/-- LOCD ABANDONED of a stream closed in SEEKING (R60). -/
theorem State.closeStream_notified {s : State} {n : StreamId} {l : Locate} (seeking : (s.stream n).state = .seeking)
    (locating : (s.stream n).locate = some l) :
    (s.closeStream n).Notified (.locd l.ref n .abandoned l.cue l.offset) s.et := by
  have et : s.et = ((((s.emptied n).withdrawRate (s.stream n).port ((s.stream n).egress * (s.stream n).unmuted)).setStream n
      ((s.emptied n).stream n).shut).markMirror n).et := by
    simp [State.withdrawRate, (Calm.emptied s n).et]
  rw [State.closeStream_eq, State.abandon, locating]
  dsimp only
  rw [if_pos seeking, et]
  exact State.raise_notified ..

/-- Settles O29. -/
theorem shutClosesTheStream : Obligations.ShutClosesTheStream := by
  unfold Obligations.ShutClosesTheStream
  intro c r s h long
  refine ⟨fun noStream => (h.shut long).refused (dif_neg (by omega)), fun n hn => ?_⟩
  have small : u8 r.body 4 < 64 := hn ▸ n.isLt
  have decision : decideShut s r.body = if (s.stream n).state = .closed then refuse .wrongState
      else ⟨.ok, 0, fun s => s.closeStream n⟩ := by
    obtain rfl : (⟨u8 r.body 4, small⟩ : StreamId) = n := Fin.ext hn
    exact dif_pos small
  dsimp only
  refine ⟨fun closed => (h.shut long).refused (decision.trans (if_pos closed)), fun opened => ?_⟩
  have same : (s.answered tagSHUT r .ok 0).stream n = s.stream n := answered_stream ..
  have shut := (s.answered tagSHUT r .ok 0).closeStream_stream n
  have gone := (s.answered tagSHUT r .ok 0).closeStream_presentation n
  refine ⟨_, (h.shut long).done (decision.trans (if_neg opened)) ((h.settled.answered tagSHUT r .ok 0).closeStream n),
    Calm.closeStream _ n rfl, by rw [shut]; rfl, by rw [shut]; rfl, by rw [shut]; rfl, by rw [shut]; rfl, by rw [shut]; rfl,
    by rw [shut]; rfl, fun i => ?_, gone, ?_, fun p other => ?_, ?_, fun l seeking locating => ?_⟩
  · rw [shut]
    exact ⟨Vector.getElem_replicate .., Vector.getElem_replicate ..⟩
  · rw [State.closeStream_allocated, same, if_pos rfl, Stream.unmuted_eq, answered_port]
  · rw [State.closeStream_allocated, same, if_neg other, answered_port]
  · exact (((s.answered tagSHUT r .ok 0).closeStream_closedBy n).emptied (by rw [State.Opened, same]; exact opened)).2.2
  · rw [← same] at seeking locating
    have notified := State.closeStream_notified seeking locating
    rwa [answered_et] at notified

/-! ### SHAR (R145, R147 to R149) -/

theorem decideShar_badField {s : State} {b : List Byte} (h : 64 ≤ u8 b 4 ∨ 8 ≤ u8 b 6 ∨ 4 ≤ u8 b 5) :
    decideShar s b = refuse .badField := by
  by_cases fields : u8 b 4 < 64 ∧ u8 b 6 < 8
  · exact (dif_pos fields).trans (if_pos (by omega))
  · exact dif_neg fields

/-- The decision on an operation of SHAR for a viewer slot of an open stream (R147 to R149). -/
def sharAction (s : State) (n : StreamId) (v : Fin 8) (b : List Byte) : Nat → Decision
  | 0 => decideAdd s n v b
  | 1 => decideRemove s n v
  | 2 => decideMute s n v
  | _ => decideUnmute s n v

theorem decideShar_of_stream (s : State) {b : List Byte} {n : StreamId} {v : Fin 8} (hn : u8 b 4 = n.val)
    (hv : u8 b 6 = v.val) :
    decideShar s b =
      if 3 < u8 b 5 then refuse .badField
      else if (s.stream n).state = .closed then refuse .wrongState
      else sharAction s n v b (u8 b 5) := by
  have small : u8 b 4 < 64 ∧ u8 b 6 < 8 := ⟨hn ▸ n.isLt, hv ▸ v.isLt⟩
  obtain rfl : (⟨u8 b 4, small.1⟩ : StreamId) = n := Fin.ext hn
  obtain rfl : (⟨u8 b 6, small.2⟩ : Fin 8) = v := Fin.ext hv
  exact dif_pos small

theorem decideShar_action {s : State} {b : List Byte} {n : StreamId} {v : Fin 8} {k : Nat} (hn : u8 b 4 = n.val)
    (hv : u8 b 6 = v.val) (opened : (s.stream n).state ≠ .closed) (op : u8 b 5 = k) (few : k ≤ 3 := by decide) :
    decideShar s b = sharAction s n v b k := by
  rw [decideShar_of_stream s hn hv, if_neg (by omega), if_neg opened, op]

/-- An unmuted viewer takes a slot that held none, with E admitted on the stream's port (R145, R147, R149). -/
theorem State.Decided.joins {s : State} {c : Instr} {r : Record} {d : Decision} {n : StreamId} {v : Fin 8} {y : Viewer}
    {k : Nat} (h : s.Decided c tagSHAR r d) (hd : d = ⟨.ok, k, fun t => t.addViewer n v y⟩) :
    exec c s = .next
      (((s.answered tagSHAR r .ok k).setStream n
          { s.stream n with viewers := (s.stream n).viewers.set v (some y) }).setPort (s.stream n).port
        { s.port (s.stream n).port with
          allocated := (s.port (s.stream n).port).allocated + (s.stream n).egress }) := by
  have added : (s.answered tagSHAR r .ok k).addViewer n v y =
      ((s.answered tagSHAR r .ok k).setStream n
          { s.stream n with viewers := (s.stream n).viewers.set v (some y) }).setPort (s.stream n).port
        { s.port (s.stream n).port with
          allocated := (s.port (s.stream n).port).allocated + (s.stream n).egress } := by
    simp only [State.addViewer, State.allocate, State.setStream_port, answered_port, answered_stream, Stream.setViewer]
  refine (h.done hd ?_).trans (congrArg _ added)
  rw [added]
  have settled := h.settled.answered tagSHAR r .ok k
  exact settled_of_streams (settled.setStream (n := n)
    (x := { s.stream n with viewers := (s.stream n).viewers.set v (some y) }) (by simp) (by simp) (by simp))
    (by simp) (by simp)

/-- The unmuted viewers once an unmuted one has taken a slot that held no unmuted one. -/
theorem Stream.unmuted_joined {x : Stream} {v : Fin 8} {y : Viewer} (was : x.viewers[v].any (fun z => !z.muted) = false)
    (unmuted : y.muted = false) : (x.setViewer v (some y)).unmuted = x.unmuted + 1 := by
  have count := x.unmuted_setViewer v (some y)
  rw [was] at count
  simpa [unmuted] using count

/-- Settles O39. -/
theorem sharAddAndUnmute : Obligations.SharAddAndUnmute := by
  unfold Obligations.SharAddAndUnmute
  refine ⟨fun c r s h long => ⟨fun bad => ?_, fun n hn viewer op closed => ?_⟩, fun c r s n v h => ?_⟩
  · exact (h.shar long).refused (decideShar_badField bad)
  · refine (h.shar long).refused ?_
    rw [decideShar_of_stream s hn (v := ⟨u8 r.body 6, viewer⟩) rfl, if_neg (by omega), if_pos closed]
  · dsimp only
    rw [← Stream.unmuted_eq]
    intro long hn hv opened
    refine ⟨fun op => ?_, fun op => ⟨fun empty => ?_, fun y full => ⟨fun loud => ?_, fun mute room => ?_, fun mute crowded => ?_⟩⟩⟩
    · have decision : decideShar s r.body = decideAdd s n v r.body := decideShar_action hn hv opened op
      refine ⟨fun port => (h.shar long).refused (decision.trans (if_pos port)), fun port taken => ?_, fun port free =>
        ⟨fun room => (h.shar long).joins (decision.trans ?_), fun crowded => (h.shar long).refused (decision.trans ?_)⟩⟩
      · refine (h.shar long).refused (decision.trans ((if_neg port).trans (if_pos ?_)))
        exact Option.isSome_iff_ne_none.2 taken
      · unfold decideAdd
        dsimp only
        rw [if_neg port, if_neg (by simp [free]), if_pos ((admits_iff _ _).2 room)]
      · unfold decideAdd
        dsimp only
        rw [if_neg port, if_neg (by simp [free]), if_neg (fun room => by have := (admits_iff _ _).1 room; omega)]
    · have decision : decideShar s r.body = decideUnmute s n v := decideShar_action hn hv opened op
      refine (h.shar long).refused (decision.trans ?_)
      unfold decideUnmute
      dsimp only
      rw [empty]
    all_goals have decision : decideShar s r.body = decideUnmute s n v := decideShar_action hn hv opened op
    · refine (h.shar long).idle (decision.trans ?_)
      unfold decideUnmute
      dsimp only
      rw [full]
      exact if_pos (by simp [loud])
    · have count : ((s.stream n).setViewer v (some { y with muted := false })).unmuted = (s.stream n).unmuted + 1 :=
        Stream.unmuted_joined (by rw [full]; simp [mute]) rfl
      refine (h.shar long).joins (decision.trans ?_)
      rw [← count]
      unfold decideUnmute
      dsimp only
      rw [full]
      exact (if_neg (by simp [mute])).trans (if_pos ((admits_iff _ _).2 room))
    · refine (h.shar long).refused (decision.trans ?_)
      unfold decideUnmute
      dsimp only
      rw [full]
      exact (if_neg (by simp [mute])).trans (if_neg (fun room => by have := (admits_iff _ _).1 room; omega))

end Sys2Proof.Machine
end

section
/-! SUPPORT. Layout entries, clips and members changed by their orders (R28 to R34, R36, R37, R122, R125 to R127). -/

namespace Sys2Proof.Machine

/-! ### Waking after an inner operation -/

theorem Stream.Like.waits {x y : Stream} (h : x.Like y) : y.Waits ↔ x.Waits := by
  have slip : y.slipEnd = x.slipEnd := by rw [h.1]
  rw [Stream.Waits, Stream.Waits, h.state, slip]

/-- The streams that may begin sending after an operation that concerns none are those that waited before it. -/
theorem Calm.thenWake {s t : State} (h : Calm (fun _ => False) s t) : Calm (fun n => (s.stream n).Waits) s t.wakeAll :=
  (h.mono fun _ f => f.elim).trans ((Calm.wakeAll_waiting t).mono fun n waits => (h.others n id).waits.1 waits)

theorem Mild.mono {A B : StreamId → Prop} {s t : State} (h : Mild A s t) (k : ∀ n, A n → B n) : Mild B s t where
  et := h.et
  pending := h.pending
  region := h.region
  store := h.store
  reserve := h.reserve
  settings := h.settings
  clips := h.clips
  layouts := h.layouts
  rates := h.rates
  links := h.links
  silent := h.silent
  outputs := h.outputs
  quiet n o q := h.quiet n (fun a => o (k n a)) q
  sending p x q := by
    rcases h.sending p x q with same | record | within
    · exact .inl same
    · exact .inr (.inl record)
    · exact .inr (.inr (k _ within))
  others n o := h.others n fun a => o (k n a)

theorem Mild.thenWake {s t : State} (h : Mild (fun _ => False) s t) : Mild (fun n => (s.stream n).Waits) s t.wakeAll :=
  (h.mono fun _ f => f.elim).trans
    ((Calm.wakeAll_waiting t).mono fun n waits => (h.others n id).waits.1 waits).toMild

/-! ### A definition takes effect (R29, R33) -/

/-- What an entry becomes under an operation (R33). -/
theorem PendingOp.outcome_eq (op : PendingOp) :
    op.outcome = match op with | .define d => .active d | .delete => .empty := by
  cases op with
  | define d => rfl
  | delete => rfl

theorem Calm.layoutTakesEffect (s : State) (e : Fin 16) (ref : Word) (op : PendingOp) :
    Calm (fun _ => False) ((s.setLayout e ⟨op.outcome, 0⟩).raise (.layc ref e .ok op.isDelete))
      (s.layoutTakesEffect e ref op) :=
  (Calm.callPass _).trans (Calm.replanHold _ _)

/-- The operation that a LAYD asks for, which passes its checks (R27 to R29). -/
def State.LaydAsks (s : State) (b : List Byte) (e : Fin 16) (op : PendingOp) : Prop :=
  op = .delete ∧ u8 b 5 = 0 ∨
    ∃ d, op = .define d ∧ u8 b 5 ≠ 0 ∧ layoutDef b = some d ∧
      ∀ i : Fin 16, i ≠ e → ∀ x ∈ s.decoder.layout[i].takenRanges, x.last < d.first ∨ d.last < x.first

theorem decideLayd_asks {s : State} {b : List Byte} {e : Fin 16} {op : PendingOp} (he : u8 b 4 = e.val)
    (h : s.LaydAsks b e op) : decideLayd s b = layoutOrder e s.decoder.layout[e] (reference b) op := by
  rcases h with ⟨rfl, zero⟩ | ⟨d, rfl, width, reads, apart⟩
  · exact decideLayd_delete he zero
  · rw [decideLayd_define s he width reads, if_neg fun overlap => ?_]
    obtain ⟨i, other, x, mem, low, high⟩ := (s.decoder.overlapsOther_iff e d).1 overlap
    have := apart i other x mem
    omega

/-- Settles O21. -/
theorem laydChangesItsEntry : Obligations.LaydChangesItsEntry := by
  unfold Obligations.LaydChangesItsEntry
  intro c r s e op h long he asks
  have decision := decideLayd_asks he asks
  dsimp only
  refine ⟨fun free => ?_, fun d active inFlight => ?_, fun d p retiring => ?_⟩
  · have now : decideLayd s r.body = ⟨.ok, 0, fun s => s.layoutTakesEffect e (reference r.body) op⟩ := by
      rw [decision]
      unfold layoutOrder
      rcases free with ⟨empty, defines⟩ | ⟨d, active, idle⟩
      · rw [empty]
        exact if_neg (by simp [defines])
      · rw [active]
        exact if_pos idle
    refine ⟨_, (h.layd long).carried now, ?_⟩
    have calm := (Calm.layoutTakesEffect (s.answered tagLAYD r .ok 0) e (reference r.body) op).thenWake
    rw [PendingOp.outcome_eq] at calm
    exact calm.mono fun n waits => by
      rwa [State.stream_congr (s := s) (by simp)] at waits
  · refine (h.layd long).done
      (f := fun s' => s'.setLayout e { s.decoder.layout[e] with state := .retiring d ⟨reference r.body, op⟩ })
      (decision.trans ?_) (settled_of_streams (h.settled.answered tagLAYD r .ok s.decoder.layout[e].inFlight) rfl rfl)
    unfold layoutOrder
    rw [active]
    exact if_neg inFlight
  · refine (h.layd long).done (f := fun s' =>
      (s'.setLayout e { s.decoder.layout[e] with state := .retiring d ⟨reference r.body, op⟩ }).raise
        (.layc p.ref e .superseded p.op.isDelete)) (decision.trans ?_)
      (settled_of_streams (h.settled.answered tagLAYD r .ok s.decoder.layout[e].inFlight) (by simp) (by simp))
    unfold layoutOrder
    rw [retiring]

/-! ### A clip replaced (R36, R37, R122) -/

/-- Directory entries are removed, or changed in fields other than their number, key and stale flag. -/
def State.KeepsKeys (s t : State) : Prop :=
  ∀ y ∈ t.buffer.dir, ∃ x ∈ s.buffer.dir, x.id = y.id ∧ x.key = y.key ∧ x.stale = y.stale

theorem State.KeepsKeys.refl (s : State) : s.KeepsKeys s := fun y mem => ⟨y, mem, rfl, rfl, rfl⟩

theorem State.KeepsKeys.trans {a b c : State} (h : a.KeepsKeys b) (k : b.KeepsKeys c) : a.KeepsKeys c := fun z mem => by
  obtain ⟨y, inB, id, key, stale⟩ := k z mem
  obtain ⟨x, inA, id', key', stale'⟩ := h y inB
  exact ⟨x, inA, id'.trans id, key'.trans key, stale'.trans stale⟩

theorem State.KeepsKeys.of_dir {s t : State} (h : t.buffer.dir = s.buffer.dir) : s.KeepsKeys t := fun y mem =>
  ⟨y, h ▸ mem, rfl, rfl, rfl⟩

theorem State.dirEntry_mem {s : State} {d : Nat} {e : DirEntry} (h : s.dirEntry d = some e) : e ∈ s.buffer.dir ∧ e.id = d :=
  ⟨List.mem_of_find?_eq_some h, by simpa using List.find?_some h⟩

/-- Every entry of a directory after one of its entries has been replaced. -/
theorem State.mem_setDir {s : State} {x y : DirEntry} (h : y ∈ (s.setDir x).buffer.dir) :
    y = x ∨ y ∈ s.buffer.dir ∧ y.id ≠ x.id := by
  obtain ⟨z, mem, rfl⟩ := List.mem_map.1 h
  split
  · exact .inl rfl
  · next other => exact .inr ⟨mem, other⟩

theorem State.KeepsKeys.setDir {s : State} {e x : DirEntry} {d : Nat} (h : s.dirEntry d = some e) (id : x.id = e.id)
    (key : x.key = e.key) (stale : x.stale = e.stale) : s.KeepsKeys (s.setDir x) := fun y mem => by
  rcases State.mem_setDir mem with rfl | ⟨old, -⟩
  · exact ⟨e, (State.dirEntry_mem h).1, id.symm, key.symm, stale.symm⟩
  · exact ⟨y, old, rfl, rfl, rfl⟩

theorem State.KeepsKeys.freeEntry (s : State) (d : Nat) : s.KeepsKeys (s.freeEntry d) := fun y mem =>
  ⟨y, (List.mem_filter.1 mem).1, rfl, rfl, rfl⟩

theorem State.KeepsKeys.freeIfDone (s : State) (d : Nat) : s.KeepsKeys (s.freeIfDone d) := by
  unfold State.freeIfDone
  split
  · exact .refl s
  · split
    · exact .freeEntry s d
    · exact .refl s

theorem State.KeepsKeys.settleWithdrawn (s : State) (c : Chunk) : s.KeepsKeys (s.settleWithdrawn c) := by
  refine .trans (b := (s.dropChunk c).countDown c.frame) ?_ (.freeIfDone _ _)
  refine .trans (.of_dir (t := s.dropChunk c) rfl) ?_
  unfold State.countDown
  split
  · exact .refl _
  · next e found => exact .setDir found rfl rfl rfl

theorem State.KeepsKeys.settleStale (s : State) (d : Nat) : s.KeepsKeys (s.settleStale d) := by
  refine .trans (b := s.withdrawQueued d) ?_ (.freeIfDone _ d)
  unfold State.withdrawQueued
  generalize s.queuedOf d = l
  induction l generalizing s with
  | nil => exact .refl s
  | cons c l ih => exact .trans (.settleWithdrawn s c) (ih _)

/-- Every directory entry of the clip is stale, or its number is in the list. -/
def State.StaleBut (s : State) (k : Fin 256) (l : List Nat) : Prop :=
  ∀ y ∈ s.buffer.dir, y.key.clip = k → y.stale = true ∨ y.id ∈ l

theorem State.StaleBut.keeps {s t : State} {k : Fin 256} {l : List Nat} (h : s.StaleBut k l) (same : s.KeepsKeys t) :
    t.StaleBut k l := fun y mem clip => by
  obtain ⟨x, old, id, key, stale⟩ := same y mem
  rw [← stale, ← id]
  exact h x old (key ▸ clip)

theorem State.StaleBut.markStale {s : State} {k : Fin 256} {d : Nat} {l : List Nat} (h : s.StaleBut k (d :: l)) :
    (s.markStale d).StaleBut k l := by
  unfold State.markStale
  split
  · next absent =>
    intro y mem clip
    refine (h y mem clip).imp_right fun listed => (List.mem_cons.1 listed).resolve_left fun same => ?_
    exact absurd (List.find?_eq_none.1 absent y mem) (by simp [same])
  · next e found =>
    have marked : (s.setDir { e with stale := true }).StaleBut k l := fun y mem clip => by
      rcases State.mem_setDir mem with rfl | ⟨old, other⟩
      · exact .inl rfl
      · refine (h y old clip).imp_right fun listed => (List.mem_cons.1 listed).resolve_left fun same => ?_
        exact other (same.trans (State.dirEntry_mem found).2.symm)
    have left := marked.keeps (.of_dir (t := (s.setDir { e with stale := true }).setBuffer
      { (s.setDir { e with stale := true }).buffer with
        reclaim := (s.setDir { e with stale := true }).buffer.reclaim.filter (· != d) }) rfl)
    dsimp only
    split
    · exact left.keeps (.settleStale _ d)
    · exact left

/-- Marking the entries of a clip stale leaves none of them current (R122). -/
theorem State.markStaleWhere_clip (s : State) (k : Fin 256) :
    (s.markStaleWhere fun e => e.key.clip == k).StaleBut k [] := by
  have fold (l : List DirEntry) (t : State) (h : t.StaleBut k (l.map (·.id))) :
      (l.foldl (fun s e => s.markStale e.id) t).StaleBut k [] := by
    induction l generalizing t with
    | nil => exact h
    | cons e l ih => exact ih _ (State.StaleBut.markStale h)
  refine fold _ s fun y mem clip => .inr (List.mem_map_of_mem (List.mem_filter.2 ⟨mem, ?_⟩))
  simpa using clip

@[simp] theorem State.markStale_streams (s : State) (d : Nat) : (s.markStale d).streams = s.streams := by
  unfold State.markStale
  split
  · rfl
  · dsimp only
    split
    · simp
    · simp

@[simp] theorem State.markStaleWhere_streams (s : State) (p : DirEntry → Bool) : (s.markStaleWhere p).streams = s.streams :=
  foldl_streams (fun t (e : DirEntry) => State.markStale_streams t e.id) _ s

/-- Settles O24. -/
theorem clipChangesItsRecord : Obligations.ClipChangesItsRecord := by
  unfold Obligations.ClipChangesItsRecord
  intro c r s k x h long hk unused
  dsimp only
  intro becomes
  have free : s.clipInUse k ≠ true := fun inUse => by
    obtain ⟨n, q, opened, mem, clip, named⟩ := (s.clipInUse_iff k).1 inUse
    rcases unused n opened q mem with gap | other
    · simp [clip] at gap
    · exact other named
  have decision := (decideClip_taken hk becomes).trans (if_neg free)
  have calm := Calm.markStaleWhere (A := fun _ => False)
    ((s.answered tagCLIP r .ok ((s.clip k).generation + 1).toNat).setClip k x) fun e => e.key.clip == k
  refine ⟨_, (h.clip long).done decision ?_, calm, ?_, fun d mem clip => ?_⟩
  · exact settled_of_streams (h.settled.answered tagCLIP r .ok ((s.clip k).generation + 1).toNat)
      (by simp [State.changeClip]) calm.et
  · simp [State.changeClip]
  · have stale := State.markStaleWhere_clip ((s.answered tagCLIP r .ok ((s.clip k).generation + 1).toNat).setClip k x) k
      d mem clip
    simpa using stale

end Sys2Proof.Machine
end

section
/-! SUPPORT. Member links: tags, the loss of a link (R125), and the messages of a link (10.8, R160). -/

namespace Sys2Proof.Machine

/-! ### Notices stay -/

/-- A notice that is held or lost stays so under an inner operation (R15). -/
theorem State.Notified.mild {A : StreamId → Prop} {s t : State} {b : NoticeBody} {et : Time} (h : s.Notified b et)
    (k : Mild A s t) : t.Notified b et := by
  obtain ⟨notices, lost, marks, region, -, -, earlier, flag⟩ := k.region
  rcases h with held | gone
  · exact .inl (by rw [region]; exact earlier.subset held)
  · exact .inr (by rw [region]; exact flag gone)

/-! ### Tags -/

theorem TagState.isFree_iff (t : TagState) : t.isFree = true ↔ t = .free := by
  cases t <;> simp [TagState.isFree]

theorem TagState.isAbandoned_iff (t : TagState) : t.isAbandoned = true ↔ t = .abandoned := by
  cases t <;> simp [TagState.isAbandoned]

theorem Member.outstanding_eq (x : Member) : x.outstanding = (List.finRange 32).countP fun g => x.tags[g] != .free := by
  rw [List.countP_eq_length_filter]
  unfold Member.outstanding allTags
  congr 1
  refine List.filter_congr fun g _ => ?_
  cases x.tags[g] <;> rfl

theorem Member.abandonedCount_eq (x : Member) :
    x.abandonedCount = (List.finRange 32).countP fun g => x.tags[g] == .abandoned := by
  rw [List.countP_eq_length_filter]
  unfold Member.abandonedCount allTags
  congr 1
  refine List.filter_congr fun g _ => ?_
  cases x.tags[g] <;> rfl

theorem Member.setTag_tags (x : Member) (t g : Fin 32) (v : TagState) :
    (x.setTag t v).tags[g] = if g = t then v else x.tags[g] := by
  simp only [Member.setTag, Fin.getElem_fin, Vector.getElem_set, Fin.ext_iff, eq_comm (a := t.val)]

/-- A tag that is FREE or ABANDONED: it has lost its request. -/
def Member.Idle (x : Member) (g : Fin 32) : Prop := x.tags[g] = .free ∨ x.tags[g] = .abandoned

theorem Member.Keeps.idle {x y : Member} (h : x.Keeps y) (down : x.link ≠ .up) {g : Fin 32} (k : x.Idle g) : y.Idle g :=
  k.imp (h.free down g) (h.abandoned g)

/-- Freeing the ABANDONED tags of a list leaves the others. -/
theorem Member.freeAbandoned_fold (l : List (Fin 32)) (x : Member) (g : Fin 32) :
    let y := l.foldl (fun (x : Member) t => if x.tags[t].isAbandoned then x.setTag t .free else x) x
    y.link = x.link ∧ y.capacity = x.capacity ∧ (x.Idle g → g ∈ l → y.tags[g] = .free) ∧ (x.tags[g] = .free → y.tags[g] = .free) := by
  induction l generalizing x with
  | nil => exact ⟨rfl, rfl, fun _ mem => absurd mem List.not_mem_nil, id⟩
  | cons t rest ih =>
    by_cases gone : x.tags[t].isAbandoned = true
    · obtain ⟨link, capacity, idle, free⟩ := ih (x.setTag t .free)
      simp only [List.foldl_cons, if_pos gone]
      have same := x.setTag_tags t g .free
      refine ⟨link, capacity, fun k mem => ?_, fun k => free (same.trans (by split <;> [rfl; exact k]))⟩
      by_cases e : g = t
      · exact free (same.trans (if_pos e))
      · have k' : (x.setTag t .free).Idle g := by rw [Member.Idle, same, if_neg e]; exact k
        exact idle k' ((List.mem_cons.1 mem).resolve_left e)
    · obtain ⟨link, capacity, idle, free⟩ := ih x
      simp only [List.foldl_cons, if_neg gone]
      refine ⟨link, capacity, fun k mem => ?_, free⟩
      rcases List.mem_cons.1 mem with rfl | mem
      · exact free (k.resolve_right fun a => gone ((TagState.isAbandoned_iff _).2 a))
      · exact idle k mem

theorem Member.freeAbandoned_free {x : Member} {g : Fin 32} (h : x.Idle g) : x.freeAbandoned.tags[g] = .free :=
  (Member.freeAbandoned_fold allTags x g).2.2.1 h (List.mem_finRange g)

/-! ### The loss of a link (R125) -/

/-- Member `m`'s link has gone DOWN since `s`; its capacity is kept, and so are the links of the other members. -/
structure State.Drops (s : State) (m : MemberId) (t : State) : Prop where
  link : (t.member m).link = .down
  capacity : (t.member m).capacity = (s.member m).capacity
  others : ∀ k : MemberId, k ≠ m → (s.member k).Keeps (t.member k)

namespace State.Drops

theorem calm {A : StreamId → Prop} {s t u : State} {m : MemberId} (h : s.Drops m t) (k : Calm A t u) : s.Drops m u :=
  ⟨(k.keeps m).link.trans h.link, (k.keeps m).capacity.trans h.capacity, fun j ne => (h.others j ne).trans (k.keeps j)⟩

theorem setMember {s t : State} {m : MemberId} (h : s.Drops m t) (x : Member) (link : x.link = (t.member m).link)
    (capacity : x.capacity = (t.member m).capacity) : s.Drops m (t.setMember m x) := by
  refine ⟨?_, ?_, fun k ne => ?_⟩
  · rw [State.setMember_member, link, h.link]
  · rw [State.setMember_member, capacity, h.capacity]
  · rw [State.setMember_member_ne _ _ ne.symm]
    exact h.others k ne

theorem setLink (s : State) (m : MemberId) : s.Drops m (s.setLink m .down) := by
  refine ⟨by simp [State.setLink], by simp [State.setLink], fun k ne => ?_⟩
  rw [State.setLink, State.setMember_member_ne _ _ ne.symm]
  exact .refl _

end State.Drops

/-- An ISSUED tag of a lost link becomes FREE; no other tag of the member takes a request (R125). -/
theorem State.Drops.loseTag {s t : State} {m : MemberId} (h : s.Drops m t) (g : Fin 32) :
    s.Drops m (t.loseTag m g) ∧ ((t.loseTag m g).member m).Idle g ∧
      ∀ k, (t.member m).Idle k → ((t.loseTag m g).member m).Idle k := by
  unfold State.loseTag
  split
  · next frame offset expiry arrived issued =>
    have freed := h.setMember ((t.member m).setTag g .free) rfl rfl
    have down : ((t.setMember m ((t.member m).setTag g .free)).member m).link ≠ .up := by rw [freed.link]; decide
    have step : Calm (fun _ => False) (t.setMember m ((t.member m).setTag g .free))
        (match (t.setMember m ((t.member m).setTag g .free)).chunk frame offset with
          | some c => (t.setMember m ((t.member m).setTag g .free)).failOn c .linkDown
          | none => t.setMember m ((t.member m).setTag g .free)) := by
      split
      · exact .failOn _ _ _
      · exact .refl _
    have tags (k : Fin 32) : ((t.setMember m ((t.member m).setTag g .free)).member m).tags[k] =
        if k = g then .free else (t.member m).tags[k] := by
      rw [State.setMember_member, Member.setTag_tags]
    refine ⟨freed.calm step, (step.keeps m).idle down (.inl ((tags g).trans (if_pos rfl))), fun k idle => ?_⟩
    refine (step.keeps m).idle down ?_
    rw [Member.Idle, tags]
    split
    · exact .inl rfl
    · exact idle
  · next free =>
    refine ⟨h, ?_, fun k idle => idle⟩
    rw [Member.Idle]
    cases tag : (t.member m).tags[g] with
    | free => exact .inl rfl
    | abandoned => exact .inr rfl
    | issued frame offset expiry arrived => exact absurd tag (free frame offset expiry arrived)

/-- Every tag of a list loses its request (R125). -/
theorem State.Drops.loseTags {s : State} {m : MemberId} (l : List (Fin 32)) {t : State} (h : s.Drops m t) :
    s.Drops m (l.foldl (State.loseTag m) t) ∧
      ∀ g, g ∈ l ∨ (t.member m).Idle g → ((l.foldl (State.loseTag m) t).member m).Idle g := by
  induction l generalizing t with
  | nil => exact ⟨h, fun g k => k.resolve_left List.not_mem_nil⟩
  | cons a l ih =>
    obtain ⟨drops, now, still⟩ := h.loseTag a
    obtain ⟨done, idle⟩ := ih drops
    refine ⟨done, fun g k => idle g ?_⟩
    rcases k with mem | before
    · rcases List.mem_cons.1 mem with rfl | mem
      · exact .inr now
      · exact .inl mem
    · exact .inr (still g before)

/-- What the loss of a link leaves of the member and of the others (R125). -/
theorem State.dropLink_drops (s : State) (m : MemberId) (cause : DropCause) :
    s.Drops m (s.dropLink m cause) ∧ ∀ g : Fin 32, ((s.dropLink m cause).member m).tags[g] = .free := by
  obtain ⟨lost, idle⟩ := (State.Drops.setLink s m).loseTags allTags
  set u := allTags.foldl (State.loseTag m) (s.setLink m .down)
  obtain ⟨link, capacity, -, -⟩ := Member.freeAbandoned_fold allTags (u.member m) 0
  have freed := lost.setMember (u.member m).freeAbandoned link capacity
  have rest : Calm (fun _ => False) (u.setMember m (u.member m).freeAbandoned) (s.dropLink m cause) :=
    (Calm.failQueue _ m .linkDown).trans (Calm.raise _ _)
  have down : ((u.setMember m (u.member m).freeAbandoned).member m).link ≠ .up := by rw [freed.link]; decide
  refine ⟨freed.calm rest, fun g => (rest.keeps m).free down g ?_⟩
  rw [State.setMember_member]
  exact Member.freeAbandoned_free (idle g (.inl (List.mem_finRange g)))

theorem State.dropLink_notified (s : State) (m : MemberId) (cause : DropCause) :
    (s.dropLink m cause).Notified (.mdwn m cause (s.member m).outstanding) s.et := by
  have et := (Mild.trans (Mild.trans (Mild.trans (Calm.setLink (A := fun _ => False) s m .down)
    (Calm.foldl (Calm.loseTag m) allTags _).toMild) (Mild.setMember _ m _ (Calm.freeAbandoned_settings _)))
    (Calm.failQueue _ m .linkDown).toMild).et
  have notified := State.raise_notified (((allTags.foldl (State.loseTag m) (s.setLink m .down)).setMember m
    ((allTags.foldl (State.loseTag m) (s.setLink m .down)).member m).freeAbandoned).failQueue m .linkDown)
    (.mdwn m cause (s.member m).outstanding)
  rw [et] at notified
  exact notified

/-! ### MEMB and MRST (R126, R127) -/

theorem settingsOk_iff (limit reserve timeout window : Nat) :
    settingsOk limit reserve timeout window = true ↔
      1 ≤ limit ∧ limit ≤ 32 ∧ reserve < limit ∧ timeout ≤ 10 ∧ window ≤ 7 := by
  simp [settingsOk, and_assoc]

@[simp] theorem answered_member (s : State) (tag : Word) (r : Record) (code : Result) (v : Nat) (m : MemberId) :
    (s.answered tag r code v).member m = s.member m := by
  simp [State.answered, State.afterRecord, State.member]

theorem Mild.applySettings (s : State) (m : MemberId) (limit reserve timeout window : Nat) :
    Mild (fun _ => False)
      (s.setMember m { s.member m with limit := limit, reserve := reserve, timeoutCode := timeout, windowCode := window })
      (s.applySettings m limit reserve timeout window) := by
  unfold State.applySettings
  dsimp only
  exact (Mild.ite (Calm.stallTest _ m) (.refl _)).trans (Calm.opportunity _ m).toMild

/-- What MRST leaves of a link that was UP or STALLED (R127). -/
structure State.Retrains (s : State) (m : MemberId) (t : State) : Prop where
  mild : Mild (fun n => (s.stream n).Waits) s t
  link : (t.member m).link = .training
  capacity : (t.member m).capacity = (s.member m).capacity
  free : ∀ g : Fin 32, (t.member m).tags[g] = .free
  notified : t.Notified (.mdwn m .reset (s.member m).outstanding) s.et

theorem State.resetMember_retrains {s : State} {m : MemberId}
    (h : (s.member m).link = .up ∨ (s.member m).link = .stalled) : s.Retrains m (s.resetMember m).wakeAll := by
  have reset : s.resetMember m = (s.dropLink m .reset).setLink m .training := by
    unfold State.resetMember
    rcases h with up | stalled
    · rw [up]
    · rw [stalled]
  obtain ⟨drops, free⟩ := s.dropLink_drops m .reset
  have train : Mild (fun _ => False) (s.dropLink m .reset) ((s.dropLink m .reset).setLink m .training) := Calm.setLink _ m _
  have wake := Calm.wakeAll ((s.dropLink m .reset).setLink m .training)
  have self : ((s.dropLink m .reset).setLink m .training).member m =
      { (s.dropLink m .reset).member m with link := .training } := State.setMember_member ..
  have training : (((s.dropLink m .reset).setLink m .training).member m).link = .training := congrArg Member.link self
  have capacity : (((s.dropLink m .reset).setLink m .training).member m).capacity = ((s.dropLink m .reset).member m).capacity := by
    rw [self]
  have tags (g : Fin 32) : (((s.dropLink m .reset).setLink m .training).member m).tags[g] =
      ((s.dropLink m .reset).member m).tags[g] := by
    rw [self]
  rw [reset]
  exact
    { mild := ((Calm.dropLink s m .reset).trans train).thenWake
      link := (wake.keeps m).link.trans training
      capacity := (wake.keeps m).capacity.trans (capacity.trans drops.capacity)
      free := fun g => (wake.keeps m).free (by rw [training]; decide) g
        ((tags g).trans (free g))
      notified := ((s.dropLink_notified m .reset).mild train).mild wake.toMild }

/-- Settles O25. -/
theorem membAndMrst : Obligations.MembAndMrst := by
  unfold Obligations.MembAndMrst
  refine ⟨fun c r s h long => ⟨fun bad => ?_, fun m hm inRange => ?_⟩, fun c r s h long => ⟨fun none_ => ?_, fun m hm =>
    ⟨fun training => ?_, fun down => ?_, fun linked => ?_⟩⟩⟩
  · refine (h.memb long).refused ?_
    unfold decideMemb
    split
    · refine if_neg fun ok => bad ?_
      have fields := (settingsOk_iff _ _ _ _).1 ok
      omega
    · rfl
  · obtain ⟨small, ranges⟩ := inRange
    have decision : decideMemb s r.body = ⟨.ok, (s.member m).outstanding,
        fun t => t.applySettings m (u8 r.body 5) (u8 r.body 6) (u8 r.body 7) (u8 r.body 8)⟩ := by
      have lt : u8 r.body 4 < 8 := by omega
      obtain rfl : (⟨u8 r.body 4, lt⟩ : MemberId) = m := Fin.ext hm
      exact (dif_pos lt).trans (if_pos ((settingsOk_iff _ _ _ _).2 ranges))
    refine ⟨_, (h.memb long).carried decision, ?_⟩
    have mild := (Mild.applySettings (s.answered tagMEMB r .ok (s.member m).outstanding) m (u8 r.body 5) (u8 r.body 6)
      (u8 r.body 7) (u8 r.body 8)).thenWake
    rw [answered_member] at mild
    exact mild.mono fun n waits => by rwa [State.stream_congr (s := s) (by simp)] at waits
  · exact (h.mrst long).refused (dif_neg (by omega))
  all_goals
    have decision : decideMrst r.body = ⟨.ok, 0, fun t => t.resetMember m⟩ := by
      have lt : u8 r.body 4 < 8 := hm ▸ m.isLt
      obtain rfl : (⟨u8 r.body 4, lt⟩ : MemberId) = m := Fin.ext hm
      exact dif_pos lt
  · have same : (s.answered tagMRST r .ok 0).resetMember m = s.answered tagMRST r .ok 0 := by
      simp [State.resetMember, training]
    rw [(h.mrst long).done decision (by rw [same]; exact h.settled.answered tagMRST r .ok 0), same]
  · have same : (s.answered tagMRST r .ok 0).resetMember m =
        (s.answered tagMRST r .ok 0).setMember m { s.member m with link := .training } := by
      simp [State.resetMember, State.setLink, down]
    rw [(h.mrst long).done decision (by rw [same]; exact settled_of_streams (h.settled.answered tagMRST r .ok 0) rfl rfl), same]
  · have trains := State.resetMember_retrains (s := s.answered tagMRST r .ok 0) (m := m) (by rwa [answered_member])
    refine ⟨_, (h.mrst long).carried decision, trains.mild.mono fun n waits => by rwa [answered_stream] at waits,
      trains.link, trains.capacity.trans (by rw [answered_member]), trains.free, ?_⟩
    have notified := trains.notified
    rwa [answered_member, answered_et] at notified

end Sys2Proof.Machine
end

section
/-! SUPPORT. Member links coming and going (R124, R125), and the messages of a link: DATA and DONE (R134 to R136, R160). -/

namespace Sys2Proof.Machine

/-! ### Messages of a link (R160) -/

theorem linkMessage_attach {b : List Byte} (type : u8 b 0 = 4) (length : b.length = 16) :
    linkMessage b = .attach (min (u64 b 8) (2 ^ 48)) := by
  unfold linkMessage
  rw [if_neg (by omega), if_neg (by omega), if_pos ⟨type, length⟩]

theorem linkMessage_data {b : List Byte} {g : Fin 32} (type : u8 b 0 = 2) (length : b.length = 4104) (tag : u8 b 1 = g.val) :
    linkMessage b = .data g (u16 b 2) (b.drop 8) := by
  have small : u8 b 1 < 32 := tag ▸ g.isLt
  obtain rfl : (⟨u8 b 1, small⟩ : Fin 32) = g := Fin.ext tag
  exact (if_pos ⟨type, length⟩).trans (dif_pos small)

theorem linkMessage_done {b : List Byte} {g : Fin 32} (type : u8 b 0 = 3) (length : b.length = 8) (tag : u8 b 1 = g.val) :
    linkMessage b = .done g (if 3 < u8 b 2 then 2 else u8 b 2) := by
  have small : u8 b 1 < 32 := tag ▸ g.isLt
  obtain rfl : (⟨u8 b 1, small⟩ : Fin 32) = g := Fin.ext tag
  unfold linkMessage
  rw [if_neg (by omega), if_pos ⟨type, length⟩, dif_pos small]

theorem linkMessage_discarded {b : List Byte}
    (h : ¬ (u8 b 0 = 2 ∧ b.length = 4104 ∧ u8 b 1 < 32) ∧ ¬ (u8 b 0 = 3 ∧ b.length = 8 ∧ u8 b 1 < 32) ∧
      ¬ (u8 b 0 = 4 ∧ b.length = 16)) : linkMessage b = .discarded := by
  obtain ⟨data, done, attach⟩ := h
  unfold linkMessage
  split
  · next is => exact dif_neg fun tag => data ⟨is.1, is.2, tag⟩
  · split
    · next is => exact dif_neg fun tag => done ⟨is.1, is.2, tag⟩
    · rfl

theorem State.halted_of {s : State} (h : s.region.engine = .halted) : s.halted = true := by simp [State.halted, h]

/-- In HALTED a message is without effect (R21, R143). -/
theorem State.receive_halted {s : State} (m : MemberId) (b : List Byte) (h : s.region.engine = .halted) : s.receive m b = s :=
  if_pos (State.halted_of h)

theorem State.receive_attach {s : State} {m : MemberId} {b : List Byte} {capacity : Nat} (awake : s.region.engine ≠ .halted)
    (h : linkMessage b = .attach capacity) : s.receive m b = s.receiveAttach m capacity := by
  unfold State.receive
  rw [if_neg (by simp [State.halted_false awake]), h]

theorem State.receive_data {s : State} {m : MemberId} {b block : List Byte} {g : Fin 32} {offset : Nat}
    (awake : s.region.engine ≠ .halted) (h : linkMessage b = .data g offset block) :
    s.receive m b = s.receiveData m g offset block := by
  unfold State.receive
  rw [if_neg (by simp [State.halted_false awake]), h]

theorem State.receive_done {s : State} {m : MemberId} {b : List Byte} {g : Fin 32} {status : Nat}
    (awake : s.region.engine ≠ .halted) (h : linkMessage b = .done g status) :
    s.receive m b = s.receiveDone m g status := by
  unfold State.receive
  rw [if_neg (by simp [State.halted_false awake]), h]

theorem State.receive_discarded {s : State} {m : MemberId} {b : List Byte} (h : linkMessage b = .discarded) :
    s.receive m b = s := by
  unfold State.receive
  rw [h]
  split
  · rfl
  · rfl

/-! ### Links come and go (R124, R125) -/

theorem execLinkPartnerDetected_down {s : State} {m : MemberId} (awake : s.region.engine ≠ .halted)
    (down : (s.member m).link = .down) : execLinkPartnerDetected m s = .next (s.setMember m { s.member m with link := .training }) := by
  simp [execLinkPartnerDetected, State.halted_false awake, down, State.setLink]

theorem execLinkPartnerDetected_other {s : State} {m : MemberId}
    (h : s.region.engine = .halted ∨ (s.member m).link ≠ .down) : execLinkPartnerDetected m s = .next s := by
  rcases h with halted | other
  · simp [execLinkPartnerDetected, State.halted_of halted]
  · simp [execLinkPartnerDetected, other]

/-- An ATTACH on a TRAINING link (R124). -/
theorem State.receiveAttach_calm {s : State} {m : MemberId} (capacity : Nat) (training : (s.member m).link = .training) :
    Calm (fun n => (s.stream n).Waits)
      ((s.setMember m { s.member m with link := .up, capacity := capacity }).raise (.mbup m .training capacity))
      (s.receiveAttach m capacity) := by
  rw [State.receiveAttach, if_pos training]
  exact (Calm.opportunity _ m).thenWake.mono fun n waits => by
    rwa [State.stream_congr (s := s) (by simp)] at waits

/-- The loss of an UP or STALLED link (R125). -/
theorem State.loseLink_linked {s : State} {m : MemberId} (awake : s.region.engine ≠ .halted)
    (linked : (s.member m).link = .up ∨ (s.member m).link = .stalled) : s.loseLink m = (s.dropLink m .lost).wakeAll := by
  unfold State.loseLink
  rw [if_neg (by simp [State.halted_false awake])]
  rcases linked with up | stalled
  · rw [up]
  · rw [stalled]

/-- Settles O46. -/
theorem memberLinksComeAndGo : Obligations.MemberLinksComeAndGo := by
  refine ⟨⟨fun m s awake down => execLinkPartnerDetected_down awake down, fun m s h => execLinkPartnerDetected_other h,
    fun m b s type length => ⟨fun awake training => ⟨_, ?_, State.receiveAttach_calm _ training⟩, fun h => ?_⟩⟩,
    fun m s => ⟨fun h => ?_, fun awake training => ⟨_, rfl, ?_⟩, fun awake linked => ?_⟩⟩
  · exact congrArg Host.Outcome.next (State.receive_attach awake (linkMessage_attach type length))
  · refine congrArg Host.Outcome.next (?_ : s.receive m b = s)
    by_cases halted : s.region.engine = .halted
    · exact State.receive_halted m b halted
    · rw [State.receive_attach halted (linkMessage_attach type length)]
      exact if_neg (h.resolve_left halted)
  · refine congrArg Host.Outcome.next (?_ : s.loseLink m = s)
    unfold State.loseLink
    split
    · rfl
    · next awake =>
      rw [h.resolve_left fun halted => awake (State.halted_of halted)]
  · have lost : s.loseLink m = ((s.setLink m .down).failQueue m .linkDown).wakeAll := by
      unfold State.loseLink
      rw [if_neg (by simp [State.halted_false awake]), training]
    rw [lost]
    exact (Calm.failQueue (s.setLink m .down) m .linkDown).thenWake
  · obtain ⟨drops, free⟩ := s.dropLink_drops m .lost
    have wake := Calm.wakeAll (s.dropLink m .lost)
    have after := drops.calm wake
    have notified := (s.dropLink_notified m .lost).mild wake.toMild
    rw [Member.outstanding_eq] at notified
    refine ⟨_, congrArg Host.Outcome.next (State.loseLink_linked awake linked), (Calm.dropLink s m .lost).thenWake, after.link,
      after.capacity, fun g => (wake.keeps m).free (by rw [drops.link]; decide) g (free g), after.others, notified⟩

end Sys2Proof.Machine
end

section
/-! SUPPORT. The settling of a chunk, done or failed, and of its frame (R118, R119, R141, R142), and the report of a frame to its
users (R91). -/

namespace Sys2Proof.Machine

/-! ### The directory -/

theorem State.dirEntry_setDir (s : State) (x : DirEntry) (d : Nat) :
    (s.setDir x).dirEntry d = if d = x.id then (s.dirEntry d).map fun _ => x else s.dirEntry d := by
  simp only [State.dirEntry, State.setDir, State.setBuffer]
  induction s.buffer.dir with
  | nil => simp
  | cons y l ih =>
    rw [List.map_cons, List.find?_cons, List.find?_cons, ih]
    by_cases same : y.id = x.id
    · by_cases found : x.id = d
      · simp [same, found]
      · have off : ¬ d = x.id := fun e => found e.symm
        have no : (x.id == d) = false := by simpa using found
        simp [same, no, off]
    · by_cases found : y.id = d
      · have off : ¬ d = x.id := fun e => same (found.trans e)
        simp [found, off]
      · have no : (y.id == d) = false := by simpa using found
        simp [same, no]

theorem State.dirEntry_setDir_self {s : State} {x y : DirEntry} {d : Nat} (found : s.dirEntry d = some y) (same : x.id = d) :
    (s.setDir x).dirEntry d = some x := by
  rw [State.dirEntry_setDir, if_pos same.symm, found]
  rfl

/-- An entry with users is not to be freed (R118, R120). -/
theorem State.freeIfDone_used {s : State} {d : Nat} {y : DirEntry} (found : s.dirEntry d = some y) (used : y.users ≠ 0) :
    s.freeIfDone d = s := by
  unfold State.freeIfDone
  rw [found]
  exact if_neg (by simp [DirEntry.done, used])

/-! ### The report of a frame (R91) -/

/-- Streams changed one after another, each from its record in `v`. -/
theorem State.foldl_setStream (f : Stream → Stream) (l : List StreamId) (nodup : l.Nodup) (s : State) (v : Vector Stream 64)
    (same : ∀ n ∈ l, s.streams[n] = v[n]) :
    l.foldl (fun s n => s.setStream n (f (s.stream n))) s =
      { s with streams := l.foldl (fun w (n : StreamId) => w.set n (f v[n])) s.streams } := by
  induction l generalizing s with
  | nil => rfl
  | cons n l ih =>
    obtain ⟨fresh, nodup⟩ := List.nodup_cons.1 nodup
    have now : s.stream n = v[n] := same n List.mem_cons_self
    rw [List.foldl_cons, List.foldl_cons, ih nodup (s.setStream n (f (s.stream n))) ?_, now]
    · rfl
    · intro k mem
      have ne : n ≠ k := fun e => fresh (e ▸ mem)
      exact (State.setStream_stream_ne s _ ne).trans (same k (List.mem_cons_of_mem n mem))

theorem State.report_eq (s : State) (d : Nat) (g : Stage) : s.report d g = { s with streams := s.reportedTo d g } := by
  have fold := State.foldl_setStream
    (fun x => { x with window := x.window.map fun e => e.reported d g }) allStreams (List.nodup_finRange 64) s s.streams
    fun _ _ => rfl
  refine fold.trans (congrArg (fun v => ({ s with streams := v } : State)) (Vector.ext fun i small => ?_))
  have get := foldl_set_get (fun n : StreamId => ({ s.streams[n] with
    window := s.streams[n].window.map fun e => e.reported d g } : Stream)) allStreams s.streams ⟨i, small⟩
  refine (get.trans (if_pos (show (⟨i, small⟩ : StreamId) ∈ allStreams from List.mem_finRange _))).trans ?_
  simp [State.reportedTo, Entry.reported]

/-! ### A chunk settles (R118, R142) -/

/-- The record of a settled chunk is back in the pool, and its frame's unsettled count has fallen by one (R32, R118, R142). -/
theorem State.countDrop_eq {s : State} {c : Chunk} {y : DirEntry} (found : s.dirEntry c.frame = some y) :
    (s.dropChunk c).countDown c.frame = s.settledAs c { y with unsettled := y.unsettled - 1 } := by
  have kept : (s.dropChunk c).dirEntry c.frame = some y := found
  have id : y.id = c.frame := (State.dirEntry_mem found).2
  unfold State.countDown
  rw [kept]
  simp only [State.setDir, id]
  rfl

theorem State.settledAs_dirEntry {s : State} {c : Chunk} {x y : DirEntry} (found : s.dirEntry c.frame = some y)
    (id : x.id = c.frame) : (s.settledAs c x).dirEntry c.frame = some x := by
  have set := State.dirEntry_setDir_self (x := x) found id
  rw [← set]
  simp only [State.dirEntry, State.settledAs, State.setDir, id]
  rfl

theorem State.settledAs_setDir {s : State} {c : Chunk} {x z : DirEntry} (id : x.id = c.frame) (id' : z.id = c.frame) :
    (s.settledAs c x).setDir z = s.settledAs c z := by
  have map : (s.buffer.dir.map (fun w => if w.id = c.frame then x else w)).map (fun w => if w.id = c.frame then z else w) =
      s.buffer.dir.map (fun w => if w.id = c.frame then z else w) := by
    rw [List.map_map]
    refine List.map_congr_left fun w _ => ?_
    dsimp only [Function.comp]
    by_cases same : w.id = c.frame
    · simp [same, id]
    · simp [same]
  simp only [State.setDir, State.settledAs, id', State.setBuffer, map]

/-- A chunk settles DONE, its frame having users (R118). -/
theorem State.settleDone_more {s : State} {c : Chunk} {y : DirEntry} (found : s.dirEntry c.frame = some y)
    (used : y.users ≠ 0) (more : y.unsettled - 1 ≠ 0) :
    s.settleDone c = s.settledAs c { y with unsettled := y.unsettled - 1 } := by
  have id : y.id = c.frame := (State.dirEntry_mem found).2
  have kept := State.settledAs_dirEntry (x := { y with unsettled := y.unsettled - 1 }) found id
  unfold State.settleDone
  simp only [State.countDrop_eq found, kept]
  rw [if_neg (fun last => more last.2.2)]
  exact State.freeIfDone_used kept used

/-- The last chunk of a frame with users settles DONE, and the frame is READY (R118). -/
theorem State.settleDone_last {s : State} {c : Chunk} {y : DirEntry} (found : s.dirEntry c.frame = some y)
    (filling : y.state = .filling) (produced : y.decoding = .produced) (used : y.users ≠ 0) (last : y.unsettled = 1) :
    s.settleDone c =
      { s.settledAs c { y with unsettled := 0, state := .ready } with streams := s.reportedTo c.frame .ready } := by
  have id : y.id = c.frame := (State.dirEntry_mem found).2
  have kept := State.settledAs_dirEntry (x := { y with unsettled := y.unsettled - 1 }) found id
  unfold State.settleDone
  simp only [State.countDrop_eq found, kept]
  rw [if_pos ⟨filling, produced, by omega⟩]
  unfold State.frameReady
  rw [if_neg (by simp [used])]
  dsimp only
  rw [if_neg used, State.settledAs_setDir (x := { y with unsettled := y.unsettled - 1 })
    (z := { y with unsettled := y.unsettled - 1, state := .ready }) id id, State.report_eq, last]
  simp only [id]
  rfl

/-! ### A chunk fails finally (R119, R141) -/

theorem State.withdrawQueued_none {s : State} {d : Nat} (h : s.NoneQueued d) : s.withdrawQueued d = s := by
  have none_ : s.queuedOf d = [] := List.filter_eq_nil_iff.2 fun c mem => by
    simpa using h c mem
  simp [State.withdrawQueued, none_]

/-- A FILLING frame with users and nothing QUEUED fails (R118, R119). -/
theorem State.failEntry_used {s : State} {d : Nat} {y : DirEntry} (cause : Cause) (chunk : Option (MemberId × Nat))
    (found : s.dirEntry d = some y) (used : y.users ≠ 0) (none_ : s.NoneQueued d) :
    s.failEntry d cause chunk =
      ({ s.setDir { y with state := .failed, cause := some cause } with streams := s.reportedTo d .failed } : State).raise
        (.fail y.key cause chunk y.total y.unsettled y.users) := by
  have id : y.id = d := (State.dirEntry_mem found).2
  have failed := State.dirEntry_setDir_self (x := { y with state := .failed, cause := some cause }) found id
  have withdrawn : (s.setDir { y with state := .failed, cause := some cause }).withdrawQueued d =
      s.setDir { y with state := .failed, cause := some cause } := State.withdrawQueued_none none_
  have same (t : State) : (State.dirEntry { t with streams := s.reportedTo d .failed } d) = t.dirEntry d := rfl
  have kept : ((s.setDir { y with state := .failed, cause := some cause }).report d .failed).dirEntry d =
      some { y with state := .failed, cause := some cause } := by
    rw [State.report_eq]
    exact failed
  have reports : (s.setDir { y with state := .failed, cause := some cause }).report d .failed =
      { s.setDir { y with state := .failed, cause := some cause } with streams := s.reportedTo d .failed } :=
    State.report_eq _ d .failed
  unfold State.failEntry
  rw [found]
  dsimp only
  rw [withdrawn, kept, if_neg (by simp [used]), reports]
  refine State.freeIfDone_used (y := { y with state := .failed, cause := some cause }) ?_ used
  rw [State.dirEntry, State.raise_buffer]
  exact failed

/-- A chunk of a FILLING frame with users fails finally, none of the frame's other chunks being QUEUED (R119, R141). -/
theorem State.settleFailed_eq {s : State} {c : Chunk} {y : DirEntry} (cause : Cause) (found : s.dirEntry c.frame = some y)
    (filling : y.state = .filling) (used : y.users ≠ 0)
    (none_ : ∀ z ∈ s.dispatcher.chunks, z.frame = c.frame → z.state = .queued → z.offset = c.offset) :
    s.settleFailed c cause = s.chunkFailed c y cause := by
  have id : y.id = c.frame := (State.dirEntry_mem found).2
  have kept := State.settledAs_dirEntry (x := { y with unsettled := y.unsettled - 1 }) found id
  have free : (s.settledAs c { y with unsettled := y.unsettled - 1 }).NoneQueued c.frame := fun z mem frame queued => by
    obtain ⟨old, other⟩ := List.mem_filter.1 mem
    simp [frame, none_ z old frame queued] at other
  unfold State.settleFailed
  simp only [State.countDrop_eq found, kept]
  rw [if_pos filling, State.failEntry_used cause _ kept used free]
  dsimp only
  rw [State.settledAs_setDir (x := { y with unsettled := y.unsettled - 1 })
    (z := { y with unsettled := y.unsettled - 1, state := .failed, cause := some cause }) id id]
  rfl

end Sys2Proof.Machine
end

section
/-! SUPPORT. DATA (R134), DONE (R135 to R137), expiries (R138, R139) and holdoffs (R132, R137). -/

namespace Sys2Proof.Machine

/-! ### DATA (R104, R134) -/

/-- What a store reads as after a block has been written into it. -/
theorem readByte_writeBytes (store : List Host.Cell) (a : Nat) (bytes : List Byte) (z : Nat) :
    readByte (writeBytes store a bytes) z =
      if a ≤ z ∧ z < a + bytes.length then bytes.getD (z - a) 0 else readByte store z := by
  split
  · next inside =>
    obtain ⟨i, rfl⟩ := Nat.exists_eq_add_of_le inside.1
    have small : i < bytes.length := by omega
    rw [readByte_writeBytes_inside store a bytes i small, Nat.add_sub_cancel_left]
    simp [small]
  · next outside => exact readByte_writeBytes_outside store a bytes z (by omega)

theorem getD_drop_add (b : List Byte) (k i : Nat) : (b.drop k).getD i 0 = b.getD (k + i) 0 := by
  simp [List.getD_eq_getElem?_getD, List.getElem?_drop]

theorem State.chunk_mem {s : State} {d o : Nat} {c : Chunk} (h : s.chunk d o = some c) :
    c ∈ s.dispatcher.chunks ∧ c.frame = d ∧ c.offset = o := by
  have found := List.find?_some h
  rw [Bool.and_eq_true, beq_iff_eq, beq_iff_eq] at found
  exact ⟨List.mem_of_find?_eq_some h, found.1, found.2⟩

/-- DATA within its request (R134). -/
theorem State.receiveData_block {s : State} {m : MemberId} {g : Fin 32} {d o offset : Nat} {x : Option Time} {l : List Nat}
    {c : Chunk} {y : DirEntry} {a : Nat} {block : List Byte} (issued : (s.member m).tags[g] = .issued d o x l)
    (held : s.chunk d o = some c) (within : offset < c.count) (found : s.dirEntry d = some y)
    (page : y.pages[(o + 4096 * offset) / 1048576]? = some a) :
    s.receiveData m g offset block =
      (s.setMember m { s.member m with
        tags := (s.member m).tags.set g (.issued d o x (if offset ∈ l then l else l ++ [offset])) }).setBuffer
        { s.buffer with
          store := writeBytes s.buffer.store (a * 1048576 + (o + 4096 * offset) % 1048576) block } := by
  have address : frameAddress y.pages (o + offset * Config.blockBytes) =
      some (a * 1048576 + (o + 4096 * offset) % 1048576) := by
    have place : o + offset * Config.blockBytes = o + 4096 * offset := by rw [Config.blockBytes, Nat.mul_comm]
    rw [place, frameAddress]
    change (match y.pages[(o + 4096 * offset) / 1048576]? with | none => none | some p => _) = _
    rw [page]
    rfl
  unfold State.receiveData
  rw [issued]
  dsimp only
  rw [held]
  dsimp only
  rw [if_pos within]
  unfold State.storeBlock
  have same (v : TagState) : (s.setMember m ((s.member m).setTag g v)).dirEntry d = some y := found
  rw [same]
  dsimp only
  rw [address]
  simp only [List.contains_iff_mem]
  rfl

theorem State.receiveData_other {s : State} {m : MemberId} {g : Fin 32} (offset : Nat) (block : List Byte)
    (h : ∀ d o x l, (s.member m).tags[g] ≠ .issued d o x l) : s.receiveData m g offset block = s := by
  unfold State.receiveData
  split
  · next d o x l issued => exact absurd issued (h d o x l)
  · rfl

theorem State.receiveData_beyond {s : State} {m : MemberId} {g : Fin 32} {d o offset : Nat} {x : Option Time} {l : List Nat}
    {c : Chunk} (block : List Byte) (issued : (s.member m).tags[g] = .issued d o x l) (held : s.chunk d o = some c)
    (beyond : c.count ≤ offset) : s.receiveData m g offset block = s := by
  unfold State.receiveData
  rw [issued]
  dsimp only
  rw [held]
  exact if_neg (Nat.not_lt.2 beyond)

/-- Settles O47. -/
theorem dataFillsTheFrame : Obligations.DataFillsTheFrame := by
  unfold Obligations.DataFillsTheFrame
  refine ⟨fun m b s g awake type length tag => ?_, fun m b s halted => congrArg Host.Outcome.next
    (State.receive_halted m b halted)⟩
  have takes := State.receive_data (m := m) awake (linkMessage_data type length tag)
  refine ⟨fun d o a x l c y issued held within found page => ?_, fun other => ?_, fun d o x l c issued held beyond => ?_⟩
  · refine ⟨_, congrArg Host.Outcome.next (takes.trans (State.receiveData_block issued held within found page)), fun z => ?_⟩
    have bytes : (b.drop 8).length = 4096 := by rw [List.length_drop, length]
    rw [readByte_writeBytes, bytes, getD_drop_add]
  · exact congrArg Host.Outcome.next (takes.trans (State.receiveData_other _ _ other))
  · exact congrArg Host.Outcome.next (takes.trans (State.receiveData_beyond _ issued held beyond))

/-! ### DONE for an ISSUED tag (R135, R137, R141) -/

theorem allArrived_iff (count : Nat) (l : List Nat) : allArrived count l = true ↔ ∀ i, i < count → i ∈ l := by
  simp [allArrived, List.all_eq_true]

/-- A DONE for an ISSUED tag: the tag is FREE, the chunk is answered, and an issue opportunity follows (R135). -/
theorem State.receiveDone_issued {s : State} {m : MemberId} {g : Fin 32} {d o : Nat} {x : Option Time} {l : List Nat}
    {c : Chunk} (status : Nat) (issued : (s.member m).tags[g] = .issued d o x l) (held : s.chunk d o = some c) :
    s.receiveDone m g status =
      (((s.setMember m { s.member m with tags := (s.member m).tags.set g .free }).answerChunk m c l status).opportunity
        m).wakeAll := by
  unfold State.receiveDone
  rw [issued]
  dsimp only
  have same : (s.setMember m ((s.member m).setTag g .free)).chunk d o = some c := held
  rw [same]
  rfl

/-- A DONE by its status (R135, R137, R141). -/
theorem State.answerChunk_eq (s : State) (m : MemberId) (c : Chunk) (l : List Nat) (status : Nat) :
    s.answerChunk m c l status =
      if status = 0 then if allArrived c.count l then s.settleDone c else s.failOn c .shortData
      else if status = 1 then s.retry m c
      else if status = 2 then s.failOn c .mediumError else s.settleFailed c .rangeError := by
  unfold State.answerChunk
  split
  · rw [if_pos rfl]
  · rw [if_neg Nat.one_ne_zero, if_pos rfl]
  · rw [if_neg (by decide), if_neg (by decide), if_pos rfl]
  · next not0 not1 not2 => rw [if_neg not0, if_neg not1, if_neg not2]

theorem State.answerChunk_notReady (s : State) (m : MemberId) (c : Chunk) (l : List Nat) :
    s.answerChunk m c l 1 = s.retry m c := by
  rw [State.answerChunk_eq, if_neg Nat.one_ne_zero, if_pos rfl]

theorem State.answerChunk_medium (s : State) (m : MemberId) (c : Chunk) (l : List Nat) :
    s.answerChunk m c l 2 = s.failOn c .mediumError := by
  rw [State.answerChunk_eq, if_neg (by decide), if_neg (by decide), if_pos rfl]

theorem State.answerChunk_range (s : State) (m : MemberId) (c : Chunk) (l : List Nat) :
    s.answerChunk m c l 3 = s.settleFailed c .rangeError := by
  rw [State.answerChunk_eq, if_neg (by decide), if_neg (by decide), if_neg (by decide)]

theorem State.answerChunk_ok (s : State) (m : MemberId) (c : Chunk) {l : List Nat} (whole : ∀ i, i < c.count → i ∈ l) :
    s.answerChunk m c l 0 = s.settleDone c := by
  rw [State.answerChunk_eq, if_pos rfl, if_pos ((allArrived_iff _ _).2 whole)]

theorem State.answerChunk_short (s : State) (m : MemberId) (c : Chunk) {l : List Nat} (short : ¬ ∀ i, i < c.count → i ∈ l) :
    s.answerChunk m c l 0 = s.failOn c .shortData := by
  rw [State.answerChunk_eq, if_pos rfl, if_neg (fun arrived => short ((allArrived_iff _ _).1 arrived))]

/-- A chunk that fails with no alternate left fails finally (R141). -/
theorem State.failOn_last {s : State} {c : Chunk} (cause : Cause) (last : c.alternate = none ∨ c.altTried = true) :
    s.failOn c cause = s.settleFailed c cause := by
  refine if_neg ?_
  rcases last with none_ | tried
  · simp [none_]
  · simp [tried]

/-- A frame's chunks other than one are not QUEUED when all of them are ISSUED. -/
theorem State.noneQueued_of_issued {s : State} {c : Chunk}
    (h : ∀ z ∈ s.dispatcher.chunks, z.frame = c.frame → z.state = .issued) :
    ∀ z ∈ s.dispatcher.chunks, z.frame = c.frame → z.state = .queued → z.offset = c.offset := fun z mem frame queued => by
  rw [h z mem frame] at queued
  cases queued

/-- A member whose link is not UP issues nothing (R132). -/
theorem State.opportunity_idle {s : State} {m : MemberId} (h : (s.member m).link ≠ .up) : s.opportunity m = s := by
  unfold State.opportunity arbiterLoop
  rw [if_neg (by simp [State.mayIssue, h])]

/-- The state of a chunk in a queue again, as a new arrival (R129). -/
def State.queuedAgain (s : State) (c : Chunk) : State :=
  { s with
    dispatcher :=
      { s.dispatcher with
        chunks := (s.dispatcher.chunks.filter fun z => !(z.frame == c.frame && z.offset == c.offset)) ++
          [{ c with arrival := s.dispatcher.arrival, state := .queued }]
        arrival := s.dispatcher.arrival + 1 } }

/-- A chunk of a FILLING frame with users joins the queue of an UP or TRAINING member (R129). -/
theorem State.joinBy_queued {s : State} {c : Chunk} {y : DirEntry} {m : MemberId} (f : State → Chunk → Cause → State)
    (found : s.dirEntry c.frame = some y) (filling : y.state = .filling) (used : y.users ≠ 0) (current : c.current = m)
    (link : (s.member m).link = .up ∨ (s.member m).link = .training) :
    s.joinBy f c = (s.queuedAgain c).opportunity m := by
  have stays : State.withdrawnOnJoin (s.setDispatcher { s.dispatcher with arrival := s.dispatcher.arrival + 1 })
      { c with arrival := s.dispatcher.arrival, state := .queued } = false := by
    unfold State.withdrawnOnJoin
    change (match s.dirEntry c.frame with | none => true | some e => _) = false
    rw [found]
    simp [filling, used]
  have on : ({ c with arrival := s.dispatcher.arrival, state := .queued } : Chunk).current = m := current
  have member : (s.setDispatcher { s.dispatcher with arrival := s.dispatcher.arrival + 1 }).member m = s.member m := rfl
  unfold State.joinBy
  dsimp only
  rw [stays, on, member]
  rcases link with up | training
  · rw [up]
    rfl
  · rw [training]
    rfl

theorem linkStatus_cases (k : Nat) :
    (if 3 < k then 2 else k) = if k = 0 then 0 else if k = 1 then 1 else if k = 3 then 3 else 2 := by
  split
  · rw [if_neg (by omega), if_neg (by omega), if_neg (by omega)]
  · obtain rfl | rfl | rfl | rfl : k = 0 ∨ k = 1 ∨ k = 2 ∨ k = 3 := by omega
    all_goals rfl

/-- Settles O48. -/
theorem doneSettlesTheChunk : Obligations.DoneSettlesTheChunk := by
  unfold Obligations.DoneSettlesTheChunk
  intro m b g d o ex l c y s awake type length tag issued held found filling produced used unsettled
  obtain ⟨-, rfl, rfl⟩ := State.chunk_mem held
  dsimp only
  have answers := (State.receive_done (m := m) awake (linkMessage_done type length tag)).trans
    (State.receiveDone_issued _ issued held)
  rw [linkStatus_cases] at answers
  set w : State := s.setMember m { s.member m with tags := (s.member m).tags.set g .free } with hw
  have found' : w.dirEntry c.frame = some y := found
  clear_value w
  have chunks : w.dispatcher.chunks = s.dispatcher.chunks := by rw [hw]; rfl
  have streams (k : Stage) : s.reportedTo c.frame k = w.reportedTo c.frame k := by rw [hw]; rfl
  refine ⟨fun zero whole => ⟨fun last => ?_, fun more => ?_⟩, fun others => ?_⟩
  · refine congrArg Host.Outcome.next (answers.trans ?_)
    rw [if_pos zero, State.answerChunk_ok _ _ _ whole,
      State.settleDone_last found' filling produced used last, streams]
  · refine congrArg Host.Outcome.next (answers.trans ?_)
    rw [if_pos zero, State.answerChunk_ok _ _ _ whole,
      State.settleDone_more found' used (by omega)]
  have none_ : ∀ z ∈ w.dispatcher.chunks, z.frame = c.frame → z.state = .queued → z.offset = c.offset :=
    State.noneQueued_of_issued (by rw [chunks]; exact others)
  refine ⟨fun last => ⟨fun zero short => ?_, fun medium => ?_⟩, fun range => ?_⟩
  · refine congrArg Host.Outcome.next (answers.trans ?_)
    rw [if_pos zero, State.answerChunk_short _ _ _ short,
      State.failOn_last _ last, State.settleFailed_eq _ found' filling used none_]
  · refine congrArg Host.Outcome.next (answers.trans ?_)
    rw [if_neg (by omega), if_neg (by omega), if_neg (by omega), State.answerChunk_medium, State.failOn_last _ last,
      State.settleFailed_eq _ found' filling used none_]
  · refine congrArg Host.Outcome.next (answers.trans ?_)
    rw [if_neg (by omega), if_neg (by omega), if_pos range, State.answerChunk_range,
      State.settleFailed_eq _ found' filling used none_]

/-! ### NOT_READY, and failovers (R137, R141) -/

/-- A chunk with an untried alternate on a TRAINING link goes to the queue of the alternate (R129, R141). -/
theorem State.failOn_alternate {s : State} {c : Chunk} {y : DirEntry} {k : MemberId} (cause : Cause)
    (found : s.dirEntry c.frame = some y) (filling : y.state = .filling) (used : y.users ≠ 0) (alternate : c.alternate = some k)
    (untried : c.altTried = false) (training : (s.member k).link = .training) :
    s.failOn c cause = s.queuedAgain { c with altTried := true, firstIssue := none, holdoff := none } := by
  unfold State.failOn
  rw [if_pos (by simp [alternate, untried])]
  have joined := State.joinBy_queued (c := { c with altTried := true, firstIssue := none, holdoff := none }) (m := k)
    State.settleFailed found filling used (by simp [Chunk.current, alternate]) (Or.inr training)
  refine joined.trans (State.opportunity_idle ?_)
  change (s.member k).link ≠ .up
  rw [training]
  decide

/-- Within its window a NOT_READY chunk goes back to its queue (R137). -/
theorem State.retry_within {s : State} {c : Chunk} {y : DirEntry} {m : MemberId} {f : Time} (found : s.dirEntry c.frame = some y)
    (filling : y.state = .filling) (used : y.users ≠ 0) (current : c.current = m) (up : (s.member m).link = .up)
    (first : c.firstIssue = some f) (within : (s.et - f).toNat < 2 ^ (s.member m).windowCode * 1000000) :
    s.retry m c = (s.queuedAgain { c with holdoff := some (s.et + 65536) }).opportunity m := by
  unfold State.retry
  rw [if_pos (by rw [first]; exact within)]
  exact State.joinBy_queued _ found filling used current (Or.inl up)

/-- Settles O49. -/
theorem retriesAndFailovers : Obligations.RetriesAndFailovers := by
  unfold Obligations.RetriesAndFailovers
  intro m b g d o ex l c y f s awake type length tag issued held found filling used current first
  obtain ⟨-, rfl, rfl⟩ := State.chunk_mem held
  dsimp only
  have answers := (State.receive_done (m := m) awake (linkMessage_done type length tag)).trans
    (State.receiveDone_issued _ issued held)
  rw [linkStatus_cases] at answers
  set w : State := s.setMember m { s.member m with tags := (s.member m).tags.set g .free } with hw
  have found' : w.dirEntry c.frame = some y := found
  have link (k : MemberId) : (w.member k).link = (s.member k).link := by
    by_cases same : m = k
    · subst same
      rw [hw, State.setMember_member]
    · rw [hw, State.setMember_member_ne _ _ same]
  have window : (w.member m).windowCode = (s.member m).windowCode := by rw [hw, State.setMember_member]
  have chunks : w.dispatcher.chunks = s.dispatcher.chunks := rfl
  refine ⟨fun retry up within => ?_, fun retry past last others => ?_, fun k medium alternate untried training => ?_⟩
  · refine congrArg Host.Outcome.next (answers.trans ?_)
    rw [if_neg (by omega), if_pos retry]
    rw [State.answerChunk_notReady, State.retry_within found' filling used current ((link m).trans up) first
      (by rw [window]; exact within)]
    rfl
  · refine congrArg Host.Outcome.next (answers.trans ?_)
    have failed : w.retry m c = w.chunkFailed c y .notReady := by
      unfold State.retry
      rw [if_neg (by rw [first, window]; exact Nat.not_lt.2 past), State.failOn_last _ last,
        State.settleFailed_eq _ found' filling used (State.noneQueued_of_issued (by rw [chunks]; exact others))]
    rw [if_neg (by omega), if_pos retry, State.answerChunk_notReady, failed]
  · refine congrArg Host.Outcome.next (answers.trans ?_)
    rw [if_neg (by omega), if_neg (by omega), if_neg (by omega)]
    rw [State.answerChunk_medium, State.failOn_alternate _ found' filling used alternate untried ((link k).trans training)]
    rfl

end Sys2Proof.Machine
end

section
/-! SUPPORT. Late answers (R136, R139), expiries (R138, R139) and holdoffs (R132, R133, R137). -/

namespace Sys2Proof.Machine

/-! ### Stall (R139) -/

theorem State.setMember_setMember (s : State) (m : MemberId) (x y : Member) :
    (s.setMember m x).setMember m y = s.setMember m y := by
  simp [State.setMember, State.setDispatcher]

theorem State.stallTest_up {s : State} {m : MemberId} (up : (s.member m).link = .up)
    (few : (s.member m).abandonedCount < (s.member m).limit) : s.stallTest m = s := by
  unfold State.stallTest
  dsimp only
  rw [up]
  exact if_neg (Nat.not_le.2 few)

theorem State.stallTest_stalls {s : State} {m : MemberId} (up : (s.member m).link = .up)
    (many : (s.member m).limit ≤ (s.member m).abandonedCount) :
    s.stallTest m =
      ((s.setLink m .stalled).raise (.mstl m (s.member m).abandonedCount (s.member m).limit)).failQueue m .timeout := by
  unfold State.stallTest
  dsimp only
  rw [up]
  exact if_pos many

/-- What the stall condition leaves of a link that was UP (R139). -/
theorem State.stallTest_leaves {s : State} {m : MemberId} (up : (s.member m).link = .up)
    (many : (s.member m).limit ≤ (s.member m).abandonedCount) :
    ((s.stallTest m).member m).link = .stalled ∧
      (∀ g : Fin 32, (s.member m).tags[g] = .abandoned → ((s.stallTest m).member m).tags[g] = .abandoned) ∧
      (s.stallTest m).Notified (.mstl m (s.member m).abandonedCount (s.member m).limit) s.et := by
  rw [State.stallTest_stalls up many]
  have raised := State.raise_notified (s.setLink m .stalled) (.mstl m (s.member m).abandonedCount (s.member m).limit)
  set z := (s.setLink m .stalled).raise (.mstl m (s.member m).abandonedCount (s.member m).limit) with hz
  have rest : Calm (fun _ => True) z (z.failQueue m .timeout) := Calm.failQueue z m .timeout
  have stalled : z.member m = { s.member m with link := .stalled } := by
    have same : z.member m = (s.setLink m .stalled).member m := by
      rw [hz]
      simp [State.member]
    rw [same]
    exact State.setMember_member ..
  refine ⟨?_, fun g abandoned => (rest.keeps m).abandoned g ?_, raised.mild rest.toMild⟩
  · rw [(rest.keeps m).link, stalled]
  · rw [stalled]
    exact abandoned

theorem State.stallTest_stalled {s : State} {m : MemberId} (stalled : (s.member m).link = .stalled)
    (many : (s.member m).limit ≤ (s.member m).abandonedCount) : s.stallTest m = s := by
  unfold State.stallTest
  dsimp only
  rw [stalled]
  exact if_neg (Nat.not_lt.2 many)

theorem State.stallTest_returns {s : State} {m : MemberId} (stalled : (s.member m).link = .stalled)
    (few : (s.member m).abandonedCount < (s.member m).limit) :
    s.stallTest m = ((s.setLink m .up).raise (.mbup m .stalled (s.member m).capacity)).opportunity m := by
  unfold State.stallTest
  dsimp only
  rw [stalled]
  exact if_pos few

/-! ### Late answers (R136) -/

theorem State.receiveDone_free {s : State} {m : MemberId} {g : Fin 32} (status : Nat) (free : (s.member m).tags[g] = .free) :
    s.receiveDone m g status = s := by
  unfold State.receiveDone
  rw [free]

theorem State.receiveDone_abandoned {s : State} {m : MemberId} {g : Fin 32} (status : Nat)
    (abandoned : (s.member m).tags[g] = .abandoned) :
    s.receiveDone m g status =
      (((s.setMember m { s.member m with tags := (s.member m).tags.set g .free }).stallTest m).opportunity m).wakeAll := by
  unfold State.receiveDone
  rw [abandoned]
  rfl

/-- The ABANDONED tags but for one that has been freed. -/
theorem Member.abandonedCount_freed (x : Member) (g : Fin 32) :
    (x.setTag g .free).abandonedCount = (List.finRange 32).countP fun h => h != g && x.tags[h] == .abandoned := by
  rw [Member.abandonedCount_eq]
  congr 1
  funext h
  rw [Member.setTag_tags]
  by_cases same : h = g
  · simp [same]
  · have other : (h != g) = true := by simpa using same
    rw [if_neg same, other, Bool.true_and]

/-- Settles O50. -/
theorem lateAndDiscardedAnswers : Obligations.LateAndDiscardedAnswers := by
  unfold Obligations.LateAndDiscardedAnswers
  refine ⟨fun m b g s type length tag => ⟨fun free => ?_, fun halted => ?_, fun awake abandoned => ?_⟩, fun m b s h => ?_⟩
  · by_cases halted : s.region.engine = .halted
    · exact congrArg Host.Outcome.next (State.receive_halted m b halted)
    · exact congrArg Host.Outcome.next ((State.receive_done (m := m) halted (linkMessage_done type length tag)).trans
        (State.receiveDone_free _ free))
  · exact congrArg Host.Outcome.next (State.receive_halted m b halted)
  · have answers := (State.receive_done (m := m) awake (linkMessage_done type length tag)).trans
      (State.receiveDone_abandoned _ abandoned)
    dsimp only
    rw [← Member.abandonedCount_freed]
    change s.receive m b = (((s.setMember m ((s.member m).setTag g .free)).stallTest m).opportunity m).wakeAll at answers
    have now : (s.setMember m ((s.member m).setTag g .free)).member m = (s.member m).setTag g .free := State.setMember_member ..
    refine ⟨fun stalled few => ?_, fun stalled many => ?_, fun up few => ?_⟩
    · refine congrArg Host.Outcome.next (answers.trans ?_)
      rw [State.stallTest_returns (by rw [now]; exact stalled) (by rw [now]; exact few), State.setLink,
        State.setMember_setMember, now]
      rfl
    · refine congrArg Host.Outcome.next (answers.trans ?_)
      rw [State.stallTest_stalled (by rw [now]; exact stalled) (by rw [now]; exact many)]
      rfl
    · refine congrArg Host.Outcome.next (answers.trans ?_)
      rw [State.stallTest_up (by rw [now]; exact up) (by rw [now]; exact few)]
      rfl
  · rcases h with ⟨noData, noDone, noAttach⟩ | halted
    · exact congrArg Host.Outcome.next (State.receive_discarded (linkMessage_discarded ⟨noData, noDone, noAttach⟩))
    · exact congrArg Host.Outcome.next (State.receive_halted m b halted)

/-! ### Expiries (R138, R139) -/

theorem State.expire_idle {s : State} {m : MemberId} {g : Fin 32}
    (h : s.region.engine = .halted ∨ (∀ d o x l, (s.member m).tags[g] ≠ .issued d o (some x) l) ∨
      ∃ d o x l, (s.member m).tags[g] = .issued d o (some x) l ∧ s.et.toNat < x.toNat) : s.expire m g = s := by
  unfold State.expire
  split
  · rfl
  · next awake =>
    split
    · next d o x l issued =>
      refine if_neg ?_
      rcases h with halted | none_ | ⟨d', o', x', l', issued', before⟩
      · exact absurd (State.halted_of halted) awake
      · exact absurd issued (none_ d o x l)
      · rw [issued] at issued'
        cases issued'
        exact (Bool.not_eq_true _).mpr (State.not_reached_of before)
    · rfl

/-- An expired tag: its chunk fails finally, and the stall condition is tested (R138, R139). -/
theorem State.expire_reached {s : State} {m : MemberId} {g : Fin 32} {d o : Nat} {x : Time} {l : List Nat} {c : Chunk}
    (awake : s.region.engine ≠ .halted) (issued : (s.member m).tags[g] = .issued d o (some x) l)
    (reached : x.toNat ≤ s.et.toNat) (held : s.chunk d o = some c) :
    s.expire m g =
      (((s.setMember m { s.member m with tags := (s.member m).tags.set g .abandoned }).failOn c .timeout).stallTest
        m).wakeAll := by
  have same : (s.setMember m ((s.member m).setTag g .abandoned)).chunk d o = some c := held
  unfold State.expire
  rw [if_neg (by simp [State.halted, awake]), issued]
  dsimp only
  rw [if_pos (State.reached_of reached), same]
  rfl

/-- One element more satisfies a predicate. -/
theorem countP_insert {α : Type} [DecidableEq α] {g : α} {p : α → Bool} (off : p g = false) (l : List α) (nodup : l.Nodup) :
    l.countP (fun k => if k = g then true else p k) = (if g ∈ l then 1 else 0) + l.countP p := by
  induction l with
  | nil => simp
  | cons a l ih =>
    obtain ⟨fresh, nodup⟩ := List.nodup_cons.1 nodup
    rw [List.countP_cons, List.countP_cons, ih nodup]
    by_cases same : a = g
    · subst same
      simp [fresh, off]
      omega
    · have other : ¬ g = a := fun e => same e.symm
      simp only [same, if_false, List.mem_cons, other, false_or]
      omega

/-- The ABANDONED tags with one more. -/
theorem Member.abandonedCount_abandoned {x : Member} {g : Fin 32} (h : x.tags[g] ≠ .abandoned) :
    (x.setTag g .abandoned).abandonedCount = 1 + (List.finRange 32).countP fun k => x.tags[k] == .abandoned := by
  have off : (x.tags[g] == TagState.abandoned) = false := by simpa using h
  have insert := countP_insert (p := fun k : Fin 32 => x.tags[k] == .abandoned) off _ (List.nodup_finRange 32)
  rw [if_pos (List.mem_finRange g)] at insert
  rw [Member.abandonedCount_eq, ← insert]
  congr 1
  funext k
  rw [Member.setTag_tags]
  split <;> rfl

/-- Multiples of U: the fourth one past a time (R138). -/
theorem expiryAt_bounds {e : Time} {code : Nat} (low : 1 ≤ code) (fits : e.toNat + 4 * 2 ^ (13 + code) < 2 ^ 64) :
    ∃ x : Time, expiryAt e code = some x ∧ 2 ^ (13 + code) ∣ x.toNat ∧ e.toNat + 3 * 2 ^ (13 + code) < x.toNat ∧
      x.toNat ≤ e.toNat + 4 * 2 ^ (13 + code) := by
  have positive : 0 < 2 ^ (13 + code) := Nat.two_pow_pos _
  generalize size : 2 ^ (13 + code) = u at *
  have split := Nat.div_add_mod e.toNat u
  have rest := Nat.mod_lt e.toNat positive
  have product : (e.toNat / u + 4) * u = u * (e.toNat / u) + 4 * u := by ring
  have value : (BitVec.ofNat 64 ((e.toNat / u + 4) * u)).toNat = (e.toNat / u + 4) * u := by
    rw [BitVec.toNat_ofNat]
    exact Nat.mod_eq_of_lt (by omega)
  refine ⟨BitVec.ofNat 64 ((e.toNat / u + 4) * u), ?_, ?_, ?_, ?_⟩
  · unfold expiryAt
    rw [if_neg (by omega), size]
  · rw [value]
    exact Dvd.intro_left _ rfl
  · omega
  · omega

/-- Settles O51. -/
theorem tagsExpire : Obligations.TagsExpire := by
  unfold Obligations.TagsExpire
  refine ⟨fun m g s => ⟨fun h => congrArg Host.Outcome.next (State.expire_idle h), ?_⟩, fun e code =>
    ⟨if_pos rfl, fun low _ fits => expiryAt_bounds low fits⟩⟩
  intro d o x l c y awake issued reached held found filling used last others
  obtain ⟨-, rfl, rfl⟩ := State.chunk_mem held
  dsimp only
  set v : State := s.setMember m { s.member m with tags := (s.member m).tags.set g .abandoned } with hv
  have self : v.member m = (s.member m).setTag g .abandoned := State.setMember_member ..
  have found' : v.dirEntry c.frame = some y := found
  have failed : v.failOn c .timeout = v.chunkFailed c y .timeout := by
    rw [State.failOn_last _ last, State.settleFailed_eq _ found' filling used (State.noneQueued_of_issued others)]
  have expires : s.expire m g = (((v.chunkFailed c y .timeout).stallTest m)).wakeAll := by
    rw [State.expire_reached awake issued reached held, ← hv, failed]
  have now : (v.chunkFailed c y .timeout).member m = (s.member m).setTag g .abandoned := by
    rw [← self]
    simp [State.chunkFailed, State.member, State.settledAs]
  have count : ((v.chunkFailed c y .timeout).member m).abandonedCount =
      1 + (List.finRange 32).countP fun k => (s.member m).tags[k] == .abandoned := by
    rw [now]
    exact Member.abandonedCount_abandoned (by rw [issued]; simp)
  have link : ((v.chunkFailed c y .timeout).member m).link = (s.member m).link := by rw [now]; rfl
  have limit : ((v.chunkFailed c y .timeout).member m).limit = (s.member m).limit := by rw [now]; rfl
  refine ⟨fun up few => ?_, fun up many => ?_⟩
  · refine congrArg Host.Outcome.next (expires.trans ?_)
    rw [State.stallTest_up (link.trans up) (by rw [count, limit]; exact few)]
  · refine ⟨_, congrArg Host.Outcome.next expires, ?_⟩
    set w := v.chunkFailed c y .timeout with hw
    have fails : Mild (fun _ => False) s w :=
      (Mild.setMember s m { s.member m with tags := (s.member m).tags.set g .abandoned } ⟨rfl, rfl, rfl, rfl⟩).trans
        (failed ▸ Calm.failOn v c .timeout).toMild
    obtain ⟨stalled, keeps, notified⟩ := State.stallTest_leaves (link.trans up) (by rw [count, limit]; exact many)
    rw [count, limit, fails.et] at notified
    have wake := Calm.wakeAll (w.stallTest m)
    have failure := State.raise_notified
      ({ v.settledAs c { y with unsettled := y.unsettled - 1, state := .failed, cause := some .timeout } with
        streams := v.reportedTo c.frame .failed } : State)
      (.fail y.key .timeout (some (c.current, c.block)) y.total (y.unsettled - 1) y.users)
    refine ⟨(fails.trans (Calm.stallTest w m)).thenWake, (wake.keeps m).link.trans stalled,
      (wake.keeps m).abandoned g (keeps g ?_), notified.mild wake.toMild,
      State.Notified.mild failure ((Calm.stallTest w m).trans wake.toMild)⟩
    rw [now]
    exact (Member.setTag_tags _ _ _ _).trans (if_pos rfl)

end Sys2Proof.Machine
end

section
/-! SUPPORT. The credit arbiter on an issue opportunity with one QUEUED chunk (R132, R133). -/

namespace Sys2Proof.Machine

/-! ### Choices -/

theorem firstInQueue_all {c : Chunk} {l : List Chunk} (nonempty : l ≠ []) (h : ∀ z ∈ l, z = c) : firstInQueue l = some c := by
  induction l with
  | nil => exact absurd rfl nonempty
  | cons a l ih =>
    obtain rfl := h a List.mem_cons_self
    cases l with
    | nil => rfl
    | cons b l =>
      have rest := ih (List.cons_ne_nil b l) fun z mem => h z (List.mem_cons_of_mem _ mem)
      unfold firstInQueue
      rw [rest]
      exact ite_self _

theorem State.eligible_iff (s : State) (m : MemberId) (c : Chunk) :
    s.eligible m c = true ↔
      c.state = .queued ∧ c.current = m ∧ (∀ x, c.holdoff = some x → x.toNat ≤ s.et.toNat) ∧
        (c.cls = .scrub → (s.member m).outstanding < (s.member m).limit - (s.member m).reserve) := by
  have cls : (c.cls == .play || decide ((s.member m).outstanding < (s.member m).limit - (s.member m).reserve)) = true ↔
      (c.cls = .scrub → (s.member m).outstanding < (s.member m).limit - (s.member m).reserve) := by
    cases c.cls <;> simp
  have holdoff : (match c.holdoff with | none => true | some t => s.reached t) = true ↔
      ∀ x, c.holdoff = some x → x.toNat ≤ s.et.toNat := by
    cases c.holdoff <;> simp [State.reached, BitVec.ule]
  unfold State.eligible
  rw [Bool.and_eq_true, Bool.and_eq_true, Bool.and_eq_true, cls, beq_iff_eq, beq_iff_eq, and_assoc, and_assoc]
  exact and_congr_right fun _ => and_congr_right fun _ => and_congr_left fun _ => holdoff

/-- No chunk is eligible. -/
theorem State.choice_none {s : State} {m : MemberId} (h : ∀ z ∈ s.dispatcher.chunks, s.eligible m z = false) :
    s.choice m = none := by
  have none_ : s.dispatcher.chunks.filter (fun c => s.eligible m c) = [] :=
    List.filter_eq_nil_iff.2 fun z mem => by rw [h z mem]; exact Bool.false_ne_true
  rw [State.choice, none_]
  rfl

/-- The only eligible chunk is the arbiter's choice. -/
theorem State.choice_only {s : State} {m : MemberId} {c : Chunk} (mem : c ∈ s.dispatcher.chunks) (eligible : s.eligible m c = true)
    (only : ∀ z ∈ s.dispatcher.chunks, z.state = .queued → z.current = m → z = c) : s.choice m = some c := by
  refine firstInQueue_all (List.ne_nil_of_mem (List.mem_filter.2 ⟨mem, eligible⟩)) fun z k => ?_
  obtain ⟨mem, eligible⟩ := List.mem_filter.1 k
  obtain ⟨queued, current, -, -⟩ := (State.eligible_iff s m z).1 eligible
  exact only z mem queued current

theorem arbiterLoop_none {s : State} {m : MemberId} (fuel : Nat) (h : s.choice m = none) : arbiterLoop m fuel s = s := by
  cases fuel with
  | zero => rfl
  | succ fuel =>
    unfold arbiterLoop
    rw [h]
    exact ite_self _

/-- A state without the chunk, in which no other chunk of the member is QUEUED, gives its arbiter no choice. -/
theorem State.choice_without {s t : State} {m : MemberId} {c : Chunk}
    (only : ∀ z ∈ s.dispatcher.chunks, z.state = .queued → z.current = m → z = c)
    (h : ∀ z ∈ t.dispatcher.chunks, z ∈ s.dispatcher.chunks ∧ z ≠ c ∨ z.state = .issued) : t.choice m = none := by
  refine State.choice_none fun z mem => Bool.eq_false_iff.2 fun eligible => ?_
  obtain ⟨queued, current, -, -⟩ := (State.eligible_iff t m z).1 eligible
  rcases h z mem with ⟨old, other⟩ | issued
  · exact other (only z old queued current)
  · rw [issued] at queued
    cases queued

theorem State.mem_without {s : State} {c z : Chunk}
    (h : z ∈ s.dispatcher.chunks.filter fun z => !(z.frame == c.frame && z.offset == c.offset)) :
    z ∈ s.dispatcher.chunks ∧ z ≠ c := by
  obtain ⟨mem, other⟩ := List.mem_filter.1 h
  refine ⟨mem, ?_⟩
  rintro rfl
  simp at other

/-- Settles O52. -/
theorem holdoffEndIssuesAChunk : Obligations.HoldoffEndIssuesAChunk := by
  unfold Obligations.HoldoffEndIssuesAChunk
  refine ⟨fun m s idle => congrArg Host.Outcome.next (if_pos ?_), ?_⟩
  · rcases idle with halted | before
    · rw [State.halted_of halted, Bool.true_or]
    · have none_ : s.heldOff m = false := by
        refine List.any_eq_false.2 fun c mem => ?_
        rintro h
        obtain ⟨⟨queued, current⟩, ended⟩ : (c.state = .queued ∧ c.current = m) ∧ _ := by
          simpa only [Bool.and_eq_true, beq_iff_eq] using h
        split at ended
        · cases ended
        · next x holdoff => rw [State.not_reached_of (before c mem queued current x holdoff)] at ended; cases ended
      rw [none_, Bool.not_false, Bool.or_true]
  · intro m s c x settled running up mem queued current holdoff reached only
    dsimp only
    rw [← Member.outstanding_eq]
    intro few
    have opportunity : exec (.holdoffEnd m) s = .next (s.opportunity m).wakeAll := by
      have held : s.heldOff m = true :=
        List.any_eq_true.2 ⟨c, mem, by simp [queued, current, holdoff, State.reached_of reached]⟩
      exact congrArg Host.Outcome.next (if_neg (by simp [held, State.halted, running]))
    have may : s.mayIssue m = true := by simp [State.mayIssue, State.isRunning, running, up, few]
    refine ⟨fun scrub full => ?_, fun room => ?_⟩
    · have none_ : s.choice m = none := by
        refine State.choice_none fun z k => Bool.eq_false_iff.2 fun eligible => ?_
        obtain ⟨queued', current', -, low⟩ := (State.eligible_iff s m z).1 eligible
        obtain rfl := only z k queued' current'
        exact absurd (low scrub) (Nat.not_lt.2 full)
      rw [opportunity, State.opportunity, arbiterLoop_none _ none_, wakeAll_settled settled]
    · have chosen : s.choice m = some c := by
        refine State.choice_only mem ((State.eligible_iff s m c).2 ⟨queued, current, fun y h => ?_, room⟩) only
        rw [holdoff] at h
        cases h
        exact reached
      refine ⟨fun g fits free lowest => ?_, fun y past found filling used others => ?_⟩
      · have tag : (s.member m).freeTag = some g :=
          find?_finRange_eq_some ((TagState.isFree_iff _).2 free) fun k small => Bool.eq_false_iff.2 fun h =>
            lowest k small ((TagState.isFree_iff _).1 h)
        have issues : s.opportunity m = s.issue m g c := by
          unfold State.opportunity arbiterLoop
          rw [if_pos may, chosen]
          dsimp only
          rw [if_neg (by omega), tag]
          refine arbiterLoop_none _ (State.choice_without only fun z k => ?_)
          rcases List.mem_append.1 k with old | new
          · exact .inl (State.mem_without old)
          · exact .inr (by rw [List.mem_singleton.1 new])
        have quiet : (s.issue m g c).Settled := settled_of_streams settled rfl rfl
        rw [opportunity, issues, wakeAll_settled quiet]
        refine congrArg Host.Outcome.next ?_
        unfold State.issue
        generalize c.firstIssue = first
        cases first <;> rfl
      · have fails : s.opportunity m = s.chunkFailed c y .rangeError := by
          unfold State.opportunity arbiterLoop
          rw [if_pos may, chosen]
          dsimp only
          rw [if_pos past, State.settleFailed_eq _ found filling used fun z k frame _ => by rw [others z k frame]]
          refine arbiterLoop_none _ (State.choice_without only fun z k => .inl (State.mem_without ?_))
          simpa [State.chunkFailed, State.settledAs] using k
        rw [opportunity, fails]

end Sys2Proof.Machine
end

section
/-! SUPPORT. The advance within a cue list (R85, R86), clamped positions (R44), and the walk of a STEP (R58). -/

namespace Sys2Proof.Machine

/-! ### Counters keep their number -/

@[simp] theorem Advance.setCounter_counters (p : Advance) (i v : Nat) :
    (p.setCounter i v).counters.length = p.counters.length := by
  unfold Advance.setCounter
  split
  · rfl
  · exact List.length_set

theorem reloadBack_counters (back i : Nat) (cues : List Cue) (p : Advance) :
    (reloadBack back i cues p).counters.length = p.counters.length := by
  induction cues generalizing i p with
  | nil => rfl
  | cons c rest ih =>
    unfold reloadBack
    rw [ih]
    split
    · split
      · exact p.setCounter_counters _ _
      · rfl
    · rfl

/-! ### Forward (R85) -/

/-- An advance that has come to rest: a position of the list, with a counter for each cue. -/
def Advance.InList (p : Advance) (cues : List Cue) : Prop :=
  (∃ d, cues[p.cue]? = some d ∧ p.offset < d.length * 8) ∧ p.counters.length = cues.length

/-- An onward step goes on to the next cue or comes to rest on the last frame of the list. -/
theorem Advance.onward_cases {p : Advance} {cues : List Cue} {c : Cue} (ok : CuesOk cues) (at_ : cues[p.cue]? = some c)
    (counters : p.counters.length = cues.length) (e : Nat) :
    (∃ d, (p.onward cues c e).2 = true ∧ (p.onward cues c e).1.counters.length = cues.length ∧
        (p.onward cues c e).1.offset = e ∧ cues[(p.onward cues c e).1.cue]? = some d) ∨
      (p.onward cues c e).2 = false ∧ (p.onward cues c e).1.InList cues := by
  unfold Advance.onward
  split
  · next more => exact .inl ⟨cues[p.cue + 1], rfl, counters, rfl, List.getElem?_eq_getElem more⟩
  · have long := (ok.2 _ c at_).1
    exact .inr ⟨rfl, ⟨c, at_, by dsimp only; omega⟩, counters⟩

/-- A step of R85 goes on to a cue of the list, or comes to rest. -/
theorem Advance.stepForward_cases {p : Advance} {cues : List Cue} {c : Cue} (ok : CuesOk cues) (at_ : cues[p.cue]? = some c)
    (counters : p.counters.length = cues.length) :
    (∃ d, (p.stepForward cues c).2 = true ∧ (p.stepForward cues c).1.counters.length = cues.length ∧
        (p.stepForward cues c).1.offset = p.offset - c.length * 8 ∧ cues[(p.stepForward cues c).1.cue]? = some d) ∨
      (p.stepForward cues c).2 = false ∧ (p.stepForward cues c).1.InList cues := by
  have inside : p.cue < cues.length := (List.getElem?_eq_some_iff.1 at_).1
  unfold Advance.stepForward
  dsimp only
  split
  · exact Advance.onward_cases ok at_ counters _
  · next l loop =>
    split
    · have back : l.back < cues.length := by
        have := (ok.2 _ c at_).2 l loop
        omega
      exact .inl ⟨cues[l.back], rfl, (p.setCounter_counters _ _).trans counters, rfl, List.getElem?_eq_getElem back⟩
    · have same : (p.setCounter p.cue l.count).cue = p.cue := by
        unfold Advance.setCounter
        split <;> rfl
      exact Advance.onward_cases ok (by rw [same]; exact at_) ((p.setCounter_counters _ _).trans counters) _

/-- Every step forward takes at least a frame off, so the steps come to rest (R85). -/
theorem forwardSteps_inList {cues : List Cue} (ok : CuesOk cues) (fuel : Nat) {p : Advance} {c : Cue}
    (at_ : cues[p.cue]? = some c) (counters : p.counters.length = cues.length) (near : p.offset < c.length * 8 + 8 * fuel) :
    (forwardSteps cues fuel p).InList cues := by
  induction fuel generalizing p c with
  | zero => exact ⟨⟨c, at_, near⟩, counters⟩
  | succ fuel ih =>
    unfold forwardSteps
    rw [at_]
    dsimp only
    split
    · next inside => exact ⟨⟨c, at_, inside⟩, counters⟩
    · rcases Advance.stepForward_cases ok at_ counters with ⟨d, more, counters', offset, at'⟩ | ⟨rest, inList⟩
      · generalize p.stepForward cues c = q at *
        obtain ⟨q, go⟩ := q
        dsimp only at *
        subst more
        have long := (ok.2 _ d at').1
        exact ih at' counters' (by omega)
      · generalize p.stepForward cues c = q at *
        obtain ⟨q, go⟩ := q
        dsimp only at *
        subst rest
        exact inList

theorem forwardSteps_rest {cues : List Cue} {fuel : Nat} {p : Advance} {c : Cue} (at_ : cues[p.cue]? = some c)
    (inside : p.offset < c.length * 8) : forwardSteps cues fuel p = p := by
  cases fuel with
  | zero => rfl
  | succ fuel =>
    unfold forwardSteps
    rw [at_]
    exact if_pos inside

/-- A step goes on. -/
theorem forwardSteps_on {cues : List Cue} {fuel : Nat} {p q : Advance} {c : Cue} (at_ : cues[p.cue]? = some c)
    (past : c.length * 8 ≤ p.offset) (step : p.stepForward cues c = (q, true)) :
    forwardSteps cues (fuel + 1) p = forwardSteps cues fuel q := by
  rw [forwardSteps, at_]
  dsimp only
  rw [if_neg (Nat.not_lt.2 past), step]

/-- A step comes to rest. -/
theorem forwardSteps_end {cues : List Cue} {fuel : Nat} {p q : Advance} {c : Cue} (at_ : cues[p.cue]? = some c)
    (past : c.length * 8 ≤ p.offset) (step : p.stepForward cues c = (q, false)) : forwardSteps cues (fuel + 1) p = q := by
  rw [forwardSteps, at_]
  dsimp only
  rw [if_neg (Nat.not_lt.2 past), step]

/-! ### Backward (R86) -/

/-- Every step backward adds at least a frame, so the steps come to rest (R86). -/
theorem backwardSteps_inList {cues : List Cue} (ok : CuesOk cues) (fuel : Nat) {o : Int} {p : Advance} {c : Cue}
    (at_ : cues[p.cue]? = some c) (counters : p.counters.length = cues.length) (inside : o < (c.length * 8 : Nat))
    (near : -(8 * fuel : Nat) ≤ o) : (backwardSteps cues fuel o p).InList cues := by
  induction fuel generalizing o p c with
  | zero =>
    have long := (ok.2 _ c at_).1
    exact ⟨⟨c, at_, by simp [backwardSteps]; omega⟩, counters⟩
  | succ fuel ih =>
    have long := (ok.2 _ c at_).1
    unfold backwardSteps
    split
    · exact ⟨⟨c, at_, by dsimp only; omega⟩, counters⟩
    · split
      · exact ⟨⟨c, at_, by dsimp only; omega⟩, counters⟩
      · have before : p.cue - 1 < cues.length := by
          have := (List.getElem?_eq_some_iff.1 at_).1
          omega
        have at' : cues[p.cue - 1]? = some cues[p.cue - 1] := List.getElem?_eq_getElem before
        have long' := (ok.2 _ _ at').1
        dsimp only
        rw [at']
        exact ih at' ((reloadBack_counters _ _ _ _).trans counters) (by dsimp only; omega) (by dsimp only; omega)

/-! ### The frames of a list (R58) -/

theorem frameList_cons (c : Cue) (rest : List Cue) (j : Nat) :
    ((c :: rest).zipIdx j).flatMap (fun c => (List.range c.1.length).map fun f => (c.2, f)) =
      (List.range c.length).map (fun f => (j, f)) ++
        (rest.zipIdx (j + 1)).flatMap fun c => (List.range c.1.length).map fun f => (c.2, f) := by
  rw [List.zipIdx_cons, List.flatMap_cons]

theorem frameList_length (cues : List Cue) (j : Nat) :
    ((cues.zipIdx j).flatMap fun c => (List.range c.1.length).map fun f => (c.2, f)).length =
      (cues.map (·.length)).sum := by
  induction cues generalizing j with
  | nil => rfl
  | cons c rest ih => rw [frameList_cons, List.length_append, ih]; simp

/-- The `n`-th frame of a list (R58). -/
theorem frameList_get (cues : List Cue) (j n : Nat) (small : n < (cues.map (·.length)).sum) :
    ((cues.zipIdx j).flatMap fun c => (List.range c.1.length).map fun f => (c.2, f))[n]? =
      some (frameNumbered j n cues) := by
  induction cues generalizing j n with
  | nil => simp at small
  | cons c rest ih =>
    rw [frameList_cons]
    unfold frameNumbered
    split
    · next inside =>
      rw [List.getElem?_append_left (by simpa using inside)]
      simp [inside]
    · next outside =>
      rw [List.getElem?_append_right (by simpa using outside), List.length_map, List.length_range]
      refine ih _ _ ?_
      simp only [List.map_cons, List.sum_cons] at small
      omega

/-- The number of a frame in a list (R58). -/
theorem frameList_number (cues : List Cue) (j k i f : Nat)
    (h : ((cues.zipIdx j).flatMap fun c => (List.range c.1.length).map fun f => (c.2, f))[k]? = some (i, f)) :
    j ≤ i ∧ k = framesBefore cues (i - j) + f := by
  induction cues generalizing j k with
  | nil => simp at h
  | cons c rest ih =>
    rw [frameList_cons] at h
    by_cases inside : k < c.length
    · rw [List.getElem?_append_left (by simpa using inside)] at h
      simp only [List.getElem?_map, List.getElem?_range inside, Option.map_some, Option.some.injEq, Prod.mk.injEq] at h
      obtain ⟨rfl, rfl⟩ := h
      exact ⟨Nat.le_refl _, by simp [framesBefore]⟩
    · rw [List.getElem?_append_right (by simpa using inside), List.length_map, List.length_range] at h
      obtain ⟨after, number⟩ := ih _ _ h
      obtain ⟨d, rfl⟩ := Nat.exists_eq_add_of_le after
      have near : j + 1 + d - (j + 1) = d := by omega
      have far : j + 1 + d - j = d + 1 := by omega
      rw [near] at number
      rw [far]
      refine ⟨by omega, ?_⟩
      simp only [framesBefore, List.take_succ_cons, List.map_cons, List.sum_cons] at number ⊢
      omega

/-- Settles O60. -/
theorem advanceStaysInTheList : Obligations.AdvanceStaysInTheList := by
  unfold Obligations.AdvanceStaysInTheList
  refine ⟨fun cues speed i o counters c ok low high at_ inside number => ?_, fun cues i o => ⟨fun c at_ => ?_, fun c past last => ?_⟩,
    fun cues i o k count a here => ?_⟩
  · have long := (ok.2 _ c at_).1
    have inList : (advance cues speed i o counters).InList cues := by
      unfold advance
      split
      · exact forwardSteps_inList ok _ at_ number (by dsimp only [advanceFuel]; omega)
      · exact backwardSteps_inList ok _ at_ number (by omega) (by dsimp only [advanceFuel]; omega)
    have forward (up : 0 < speed) : advance cues speed i o counters =
        forwardSteps cues 64 ⟨i, o + speed.toNat, counters, [], none⟩ := if_pos up
    have backward (down : speed < 0) : advance cues speed i o counters =
        backwardSteps cues 64 (o + speed) ⟨i, o, counters, [], none⟩ := if_neg (by omega)
    refine ⟨inList.1, inList.2, fun up within => ?_, fun l d v up past loop left at' within => ?_,
      fun d up past loop at' within => ?_, fun up past loop last => ?_, fun down within => ?_, fun down before first => ?_⟩
    · rw [forward up]
      exact forwardSteps_rest at_ within
    · have step : Advance.stepForward ⟨i, o + speed.toNat, counters, [], none⟩ cues c =
          (⟨l.back, o + speed.toNat - c.length * 8, counters.set i v, [(i, v)], none⟩, true) := by
        simp [Advance.stepForward, loop, left, Advance.setCounter]
      rw [forward up, forwardSteps_on at_ past step]
      exact forwardSteps_rest at' within
    · have next : i + 1 < cues.length := (List.getElem?_eq_some_iff.1 at').1
      have step : Advance.stepForward ⟨i, o + speed.toNat, counters, [], none⟩ cues c =
          (⟨i + 1, o + speed.toNat - c.length * 8, counters, [], none⟩, true) := by
        simp [Advance.stepForward, loop, Advance.onward, next]
      rw [forward up, forwardSteps_on at_ past step]
      exact forwardSteps_rest at' within
    · have step : Advance.stepForward ⟨i, o + speed.toNat, counters, [], none⟩ cues c =
          (⟨i, (c.length - 1) * 8, counters, [], some .atEnd⟩, false) := by
        simp [Advance.stepForward, loop, Advance.onward, last]
      rw [forward up, forwardSteps_end at_ past step]
    · rw [backward down, backwardSteps, if_pos within]
    · subst first
      rw [backward down, backwardSteps, if_neg (by omega), if_pos rfl]
  · exact ⟨fun within => by simp [clampPosition, at_, within], fun past => by simp [clampPosition, at_, Nat.not_lt.2 past]⟩
  · have none_ : cues[i]? = none := List.getElem?_eq_none past
    simp [clampPosition, none_, last]
  · have total : (frameList cues).length = (cues.map (·.length)).sum := frameList_length cues 0
    have number := (frameList_number cues 0 k i (o / 8) here).2
    have small : k < (frameList cues).length := (List.getElem?_eq_some_iff.1 here).1
    dsimp only
    intro target
    have all : framesBefore cues cues.length = (frameList cues).length := by rw [total, framesBefore, List.take_length]
    have from_ : ((framesBefore cues i : Nat) : Int) + (o : Int) / 8 = k := by
      rw [Nat.sub_zero] at number
      omega
    have value := frameList_get cues 0
    rw [← total] at value
    have at_ (n : Nat) (eq : (if (k : Int) + count < 0 then 0 else min ((k : Int) + count).toNat ((frameList cues).length - 1)) = n) :
        frameNumbered 0 n cues = a := by
      rw [eq] at target
      have inside : n < (frameList cues).length := (List.getElem?_eq_some_iff.1 target).1
      exact Option.some.inj ((value n inside).symm.trans target)
    unfold stepTarget
    dsimp only
    rw [from_, all, at_ _ ?_]
    · refine Prod.ext rfl (Prod.ext rfl ?_)
      rw [← Bool.decide_or]
      exact decide_eq_decide.2 (or_congr_right ⟨fun h => by omega, fun h => by omega⟩)
    · split
      · rfl
      · split <;> omega

end Sys2Proof.Machine
end

section
/-! SUPPORT. Fragments (R151), the mapping of a volume block (R23), and the plan of a frame (R24, R25). -/

namespace Sys2Proof.Machine

/-! ### Fragments (R151) -/

theorem fragmentCount_bounds {b : Nat} (positive : 1 ≤ b) : 8192 * (fragmentCount b - 1) < b ∧ b ≤ 8192 * fragmentCount b := by
  unfold fragmentCount ceilDiv Config.fragmentBytes
  omega

theorem fragmentLength_sum (b j : Nat) : ((List.range j).map (fragmentLength b)).sum = min (j * 8192) b := by
  induction j with
  | zero => simp
  | succ j ih =>
    rw [List.range_succ, List.map_append, List.sum_append, ih, List.map_singleton, List.sum_singleton, fragmentLength,
      Config.fragmentBytes]
    omega

theorem pacing_mono {e j k : Nat} (h : j ≤ k) : pacing e j ≤ pacing e k := by
  unfold pacing ceilDiv
  refine Nat.div_le_div_right ?_
  have := Nat.mul_le_mul_right 1000 (Nat.mul_le_mul_right Config.fragmentBytes h)
  omega

/-- Settles O55. -/
theorem fragmentsTileTheFrame : Obligations.FragmentsTileTheFrame := by
  unfold Obligations.FragmentsTileTheFrame
  intro b e positive rate
  obtain ⟨low, high⟩ := fragmentCount_bounds positive
  refine ⟨low, high, fun j small => ?_, fun j _ => fragmentLength_sum b j, ?_, fun j k => pacing_mono, ?_⟩
  · unfold fragmentLength Config.fragmentBytes
    omega
  · unfold pacing ceilDiv
    exact Nat.div_eq_of_lt (by omega)
  · unfold pacing allowance ceilDiv Config.fragmentBytes
    exact Nat.div_le_div_right (by omega)

/-! ### The mapping of a block (R23) -/

/-- What R27 lets through, in words. -/
theorem LayoutDef.fieldsOk_iff (d : LayoutDef) :
    d.fieldsOk = true ↔
      (d.chunk = 16 ∨ d.chunk = 32 ∨ d.chunk = 64 ∨ d.chunk = 128 ∨ d.chunk = 256) ∧ d.first ≤ d.last ∧ d.last < 2 ^ 48 ∧
        distinctMembers d.members = true ∧ (∀ l, d.alternates = some l → alternatesDiffer d.members l = true) ∧
        d.base + d.rows * d.chunk - 1 < 2 ^ 48 ∧ d.base < 2 ^ 48 := by
  have alternates : (match d.alternates with | none => true | some a => alternatesDiffer d.members a) = true ↔
      ∀ l, d.alternates = some l → alternatesDiffer d.members l = true := by
    cases d.alternates <;> simp
  unfold LayoutDef.fieldsOk
  simp only [Bool.and_eq_true, Bool.or_eq_true, beq_iff_eq, decide_eq_true_eq, and_assoc, or_assoc]
  refine and_congr_right fun _ => and_congr_right fun _ => and_congr_right fun _ => and_congr_right fun _ =>
    and_congr_left fun _ => alternates

theorem distinctMembers_iff (l : List MemberId) : distinctMembers l = true ↔ l.Nodup := by
  induction l with
  | nil => simp [distinctMembers]
  | cons m l ih => simp [distinctMembers, ih]

/-- The column of a block is that of a member. -/
theorem LayoutDef.column_lt {d : LayoutDef} (wide : 1 ≤ d.members.length) (a : Nat) : d.column a < d.members.length := by
  unfold LayoutDef.column LayoutDef.width
  split
  · exact Nat.mod_lt _ wide
  · exact Nat.mod_lt _ wide

theorem LayoutDef.members_column {d : LayoutDef} (wide : 1 ≤ d.members.length) (a : Nat) :
    d.members[d.column a]? = some (d.memberOf a) := by
  have small := d.column_lt wide a
  rw [LayoutDef.memberOf, List.getD_eq_getElem?_getD, List.getElem?_eq_getElem small]
  rfl

/-- The row of a block of the range is one of the definition's rows. -/
theorem LayoutDef.row_lt {d : LayoutDef} {a : Nat} (wide : 1 ≤ d.members.length) (high : a ≤ d.last) :
    d.row a < d.rows := by
  unfold LayoutDef.row LayoutDef.rows LayoutDef.width LayoutDef.stripe
  have stripes : (a - d.first) / d.chunk ≤ (d.last - d.first) / d.chunk := Nat.div_le_div_right (by omega)
  generalize (a - d.first) / d.chunk = x at *
  generalize (d.last - d.first) / d.chunk = y at *
  have rows : (y + 1 + d.members.length - 1) / d.members.length = y / d.members.length + 1 := by
    rw [show y + 1 + d.members.length - 1 = y + d.members.length from by omega, Nat.add_div_right y wide]
  have row := Nat.div_le_div_right (c := d.members.length) stripes
  omega

theorem LayoutDef.blockOf_lt {d : LayoutDef} {a : Nat} (ok : d.fieldsOk = true) (wide : 1 ≤ d.members.length)
    (high : a ≤ d.last) : d.blockOf a < 2 ^ 48 := by
  obtain ⟨chunk, -, -, -, -, fits, -⟩ := (LayoutDef.fieldsOk_iff d).1 ok
  have positive : 0 < d.chunk := by omega
  have within := Nat.mod_lt (a - d.first) positive
  have rows : (d.row a + 1) * d.chunk ≤ d.rows * d.chunk := Nat.mul_le_mul_right _ (d.row_lt wide high)
  unfold LayoutDef.blockOf
  rw [Nat.add_mul] at rows
  omega

/-- Blocks of one member and one member block are the same (R23). -/
theorem LayoutDef.blockOf_injective {d : LayoutDef} {a b : Nat} (ok : d.fieldsOk = true) (wide : 1 ≤ d.members.length)
    (lowA : d.first ≤ a) (lowB : d.first ≤ b) (member : d.memberOf a = d.memberOf b) (block : d.blockOf a = d.blockOf b) :
    a = b := by
  obtain ⟨chunk, -, -, distinct, -, -, -⟩ := (LayoutDef.fieldsOk_iff d).1 ok
  have positive : 0 < d.chunk := by omega
  have column : d.column a = d.column b := by
    have same : d.members[d.column a]? = d.members[d.column b]? := by
      rw [d.members_column wide, d.members_column wide, member]
    exact (List.getElem?_inj (d.column_lt wide a) ((distinctMembers_iff _).1 distinct)).1 same
  have parts : d.row a = d.row b ∧ (a - d.first) % d.chunk = (b - d.first) % d.chunk := by
    unfold LayoutDef.blockOf at block
    have sum : (a - d.first) % d.chunk + d.chunk * d.row a = (b - d.first) % d.chunk + d.chunk * d.row b := by
      rw [Nat.mul_comm d.chunk, Nat.mul_comm d.chunk]
      omega
    have smallA := Nat.mod_lt (a - d.first) positive
    have smallB := Nat.mod_lt (b - d.first) positive
    constructor
    · have := congrArg (· / d.chunk) sum
      simpa [Nat.add_mul_div_left _ _ positive, Nat.div_eq_of_lt smallA, Nat.div_eq_of_lt smallB] using this
    · have := congrArg (· % d.chunk) sum
      simpa [Nat.mod_eq_of_lt smallA, Nat.mod_eq_of_lt smallB] using this
  obtain ⟨row, within⟩ := parts
  have stripe : d.stripe a = d.stripe b := by
    have place (x : Nat) : d.stripe x % d.width + d.width * d.row x = d.stripe x := by
      rw [Nat.add_comm]
      exact Nat.div_add_mod (d.stripe x) d.width
    have mod : d.stripe a % d.width = d.stripe b % d.width := by
      unfold LayoutDef.column at column
      split at column
      · exact column
      · rw [row] at column
        exact Nat.ModEq.add_right_cancel' (d.row b) column
    rw [← place a, ← place b, mod, row]
  have offset : a - d.first = b - d.first := by
    rw [← Nat.div_add_mod (a - d.first) d.chunk, ← Nat.div_add_mod (b - d.first) d.chunk, within]
    exact congrArg (fun x => d.chunk * x + (b - d.first) % d.chunk) stripe
  omega

/-! ### A plan (R24, R25) -/

theorem LayoutEntry.activeCover_some {e : LayoutEntry} {a : Nat} {d : LayoutDef} (h : e.activeCover a = some d) :
    e.state = .active d ∧ d.first ≤ a ∧ a ≤ d.last := by
  unfold LayoutEntry.activeCover at h
  split at h
  · next d' active =>
    split at h
    · next covers =>
      cases h
      rw [LayoutDef.covers, Bool.and_eq_true, decide_eq_true_eq, decide_eq_true_eq] at covers
      exact ⟨active, covers⟩
    · cases h
  · cases h

theorem Decoder.activeAt_some {dec : Decoder} {a : Nat} {e : Fin 16} {d : LayoutDef} (h : dec.activeAt a = some (e, d)) :
    dec.layout[e].state = .active d ∧ d.first ≤ a ∧ a ≤ d.last := by
  obtain ⟨i, -, found⟩ := List.exists_of_findSome?_eq_some h
  obtain ⟨d', cover, same⟩ := Option.map_eq_some_iff.1 found
  obtain ⟨rfl, rfl⟩ := Prod.mk.inj same
  exact LayoutEntry.activeCover_some cover

/-- A run stays in its stripe (R24). -/
theorem LayoutDef.run_stripe {d : LayoutDef} {a left j : Nat} (low : d.first ≤ a) (small : j < d.run a left) :
    a + j ≤ d.last ∧ d.stripe (a + j) = d.stripe a ∧ (a + j - d.first) % d.chunk = (a - d.first) % d.chunk + j := by
  unfold LayoutDef.run LayoutDef.stripeEnd at small
  have split := Nat.div_add_mod (a - d.first) d.chunk
  have commute := Nat.mul_comm d.chunk ((a - d.first) / d.chunk)
  have moved : a + j - d.first = a - d.first + j := by omega
  unfold LayoutDef.stripe at *
  refine ⟨by omega, ?_⟩
  rcases Nat.eq_zero_or_pos d.chunk with none_ | positive
  · have zero : j = 0 := by
      rw [none_] at small
      omega
    subst zero
    exact ⟨rfl, rfl⟩
  · have within : (a - d.first) % d.chunk + j < d.chunk := by omega
    have place : a + j - d.first = (a - d.first) % d.chunk + j + d.chunk * ((a - d.first) / d.chunk) := by omega
    constructor
    · rw [place, Nat.add_mul_div_left _ _ positive, Nat.div_eq_of_lt within, Nat.zero_add]
    · rw [place, Nat.add_mul_mod_self_left, Nat.mod_eq_of_lt within]

/-- The blocks of a run follow on from its first (R23, R24). -/
theorem LayoutDef.run_blocks {d : LayoutDef} {a left j : Nat} (low : d.first ≤ a) (small : j < d.run a left) :
    d.memberOf (a + j) = d.memberOf a ∧ d.alternateOf (a + j) = d.alternateOf a ∧ d.blockOf (a + j) = d.blockOf a + j := by
  obtain ⟨-, stripe, within⟩ := LayoutDef.run_stripe low small
  have row : d.row (a + j) = d.row a := by rw [LayoutDef.row, LayoutDef.row, stripe]
  have column : d.column (a + j) = d.column a := by rw [LayoutDef.column, LayoutDef.column, stripe, row]
  refine ⟨by rw [LayoutDef.memberOf, LayoutDef.memberOf, column], by rw [LayoutDef.alternateOf, LayoutDef.alternateOf, column], ?_⟩
  rw [LayoutDef.blockOf, LayoutDef.blockOf, row, within]
  omega

/-- A chunk of a plan lies where its layout entry maps its volume blocks, from block `a` on (R23, R24). -/
def Decoder.Places (dec : Decoder) (p : Piece) (a : Nat) : Prop :=
  1 ≤ p.count ∧ ∀ j, j < p.count →
    ∃ d, dec.layout[p.layout].state = .active d ∧ d.first ≤ a + j ∧ a + j ≤ d.last ∧ p.member = d.memberOf (a + j) ∧
      p.alternate = d.alternateOf (a + j) ∧ p.block + j = d.blockOf (a + j)

theorem Decoder.places_pieceAt {dec : Decoder} {a left : Nat} {e : Fin 16} {d : LayoutDef} (done : Nat)
    (active : dec.activeAt a = some (e, d)) (some_ : d.run a left ≠ 0) : dec.Places (pieceAt e d a (d.run a left) done) a := by
  obtain ⟨state, low, -⟩ := Decoder.activeAt_some active
  refine ⟨Nat.one_le_iff_ne_zero.2 some_, fun j small => ?_⟩
  obtain ⟨last, -, -⟩ := LayoutDef.run_stripe low small
  obtain ⟨member, alternate, block⟩ := LayoutDef.run_blocks low small
  exact ⟨d, state, by omega, last, member.symm, alternate.symm, block.symm⟩

/-- A turn of a walk that takes no block takes none ever after. -/
theorem walk_stuck {dec : Decoder} {a left : Nat} {e : Fin 16} {d : LayoutDef} (active : dec.activeAt a = some (e, d))
    (none_ : d.run a (left + 1) = 0) (fuel done : Nat) (ps : List Piece) : walk dec fuel a (left + 1) done ≠ .mapped ps := by
  induction fuel generalizing done ps with
  | zero => simp [walk]
  | succ fuel ih =>
    intro h
    unfold walk at h
    rw [active] at h
    dsimp only at h
    rw [none_] at h
    split at h
    · cases h
    · split at h
      · next ps' mapped => exact ih _ _ mapped
      · next other => exact other _ h

/-- The chunks of a walk lie one after another over the extent (R24). -/
theorem walk_places {dec : Decoder} (fuel a left done : Nat) {ps : List Piece} (h : walk dec fuel a left done = .mapped ps) :
    (ps.map Piece.count).sum = left ∧ ∀ (i : Nat) (p : Piece), ps[i]? = some p →
      p.offset = 4096 * (done + ((ps.take i).map Piece.count).sum) ∧ dec.Places p (a + ((ps.take i).map Piece.count).sum) := by
  induction fuel generalizing a left done ps with
  | zero =>
    cases left with
    | zero => cases h; simp
    | succ left => simp [walk] at h
  | succ fuel ih =>
    cases left with
    | zero => cases h; simp
    | succ left =>
      have whole := h
      unfold walk at h
      split at h
      · cases h
      · split at h
        · cases h
        · next e d active =>
          dsimp only at h
          split at h
          · next rest mapped =>
            cases h
            obtain ⟨sum, places⟩ := ih _ _ _ mapped
            have some_ : d.run a (left + 1) ≠ 0 := fun none_ => walk_stuck active none_ _ _ _ whole
            have fits : d.run a (left + 1) ≤ left + 1 := Nat.min_le_right _ _
            have count : (pieceAt e d a (d.run a (left + 1)) done).count = d.run a (left + 1) := rfl
            refine ⟨?_, fun i p at_ => ?_⟩
            · rw [List.map_cons, List.sum_cons, sum, count]
              omega
            · cases i with
              | zero =>
                cases at_
                exact ⟨Nat.mul_comm _ _, Decoder.places_pieceAt done active some_⟩
              | succ i =>
                obtain ⟨offset, place⟩ := places i p at_
                rw [List.take_succ_cons, List.map_cons, List.sum_cons, count, ← Nat.add_assoc, ← Nat.add_assoc]
                exact ⟨offset, place⟩
          · next other => exact absurd h (other _)

theorem Decoder.plan_mapped {dec : Decoder} {key : FrameKey} {ps : List Piece} (h : dec.plan key = .mapped ps) :
    dec.clips[key.clip].defined = true ∧ dec.clips[key.clip].generation = key.generation ∧
      key.frame < dec.clips[key.clip].frames ∧
      walk dec dec.clips[key.clip].blocks (dec.clips[key.clip].frameStart key.frame) dec.clips[key.clip].blocks 0 = .mapped ps := by
  unfold Decoder.plan at h
  dsimp only at h
  split at h
  · cases h
  · next current =>
    simp only [Bool.or_eq_true, Bool.not_eq_true', bne_iff_ne, decide_eq_true_eq, not_or, Bool.not_eq_false, not_not, not_le]
      at current
    obtain ⟨⟨defined, generation⟩, frame⟩ := current
    exact ⟨defined, generation, frame, h⟩

/-- Settles O58. -/
theorem mappingAndPlan : Obligations.MappingAndPlan := by
  unfold Obligations.MappingAndPlan
  refine ⟨fun d ok wide => ⟨fun a low high => ?_, fun a b lowA _ lowB _ member block =>
    LayoutDef.blockOf_injective ok wide lowA lowB member block⟩, fun s key ps mapped => ?_⟩
  · dsimp only
    have column : (if d.interleave = .rotate then (a - d.first) / d.chunk % d.members.length
        else ((a - d.first) / d.chunk + (a - d.first) / d.chunk / d.members.length) % d.members.length) = d.column a := by
      unfold LayoutDef.column LayoutDef.row LayoutDef.stripe LayoutDef.width
      cases d.interleave <;> rfl
    rw [column]
    exact ⟨d.members_column wide a, fun l alternates => by rw [LayoutDef.alternateOf, alternates], rfl,
      LayoutDef.blockOf_lt ok wide high⟩
  · obtain ⟨defined, generation, frame, walked⟩ := Decoder.plan_mapped mapped
    obtain ⟨sum, places⟩ := walk_places _ _ _ _ walked
    refine ⟨defined, generation, frame, sum, fun i p at_ => ?_⟩
    obtain ⟨offset, count, place⟩ := places i p at_
    rw [Nat.zero_add] at offset
    refine ⟨count, offset, fun j small => ?_⟩
    have at' : p.offset / 4096 = ((ps.take i).map Piece.count).sum := by omega
    rw [at']
    exact place j small

end Sys2Proof.Machine
end

section
/-! SUPPORT. The bytes of a delivery message (R153, 10.7). -/

namespace Sys2Proof.Machine

/-! ### Big-endian fields -/

@[simp] theorem be_length (n v : Nat) : (be n v).length = n := by simp [be]

@[simp] theorem bytesAt_be (n v : Nat) : bytesAt (be n v) 0 n = be n v := by
  simpa using bytesAt_self (be n v)

theorem be_one (v : Nat) : be 1 v = le 1 v := rfl

theorem be_two (v : Nat) : be 2 v = le 1 (v / 256) ++ le 1 v := rfl

/-- The big-endian word at an offset. -/
def bigAt (b : List Byte) (i : Nat) : Nat := 256 * u8 b i + u8 b (i + 1)

theorem bigAt_field {b : List Byte} {i v : Nat} (h : bytesAt b i 2 = be 2 v) : bigAt b i = v % 65536 := by
  rw [bytesAt_add b i 1 1, be_two] at h
  obtain ⟨high, low⟩ := List.append_inj h (by simp)
  rw [bigAt, u8_field high, u8_field low]
  omega

theorem bigAt_small {b : List Byte} {i v : Nat} (h : bytesAt b i 2 = be 2 v) (small : v < 65536 := by omega) : bigAt b i = v :=
  (bigAt_field h).trans (Nat.mod_eq_of_lt small)

theorem u8_four {b : List Byte} {i : Nat} {w x y z : Byte} (h : bytesAt b i 4 = [w, x, y, z]) :
    u8 b i = w.toNat ∧ u8 b (i + 1) = x.toNat ∧ u8 b (i + 2) = y.toNat ∧ u8 b (i + 3) = z.toNat := by
  simp only [bytesAt, List.cons.injEq] at h
  obtain ⟨h0, h1, h2, h3, -⟩ := h
  exact ⟨congrArg BitVec.toNat h0, congrArg BitVec.toNat h1, congrArg BitVec.toNat h2, congrArg BitVec.toNat h3⟩

/-! ### The parts of a message -/

/-- The 14 bytes of an Ethernet header (10.7). -/
def etherHeader (p : Presentation) (v : Viewer) : List Byte :=
  v.ethernet ++ (List.range 6).map (Config.stationByte (portCode p.port)) ++ be 2 2048

/-- The source address of a port (10.7). -/
def sourceOf (p : Presentation) : List Byte :=
  [169, 254, Config.stationByte (portCode p.port) 4, Config.stationByte (portCode p.port) 5]

/-- The IPv4 header of a message with `n` bytes of payload (10.7). -/
def messageHeader (p : Presentation) (v : Viewer) (n : Nat) : List Byte :=
  ipv4Header (76 + n) (sourceOf p) v.ipv4 (checksum16 (ipv4Header (76 + n) (sourceOf p) v.ipv4 0))

/-- The UDP header of a message with `n` bytes of payload (10.7). -/
def udpHeader (stream : StreamId) (v : Viewer) (n : Nat) : List Byte :=
  be 2 (49152 + stream) ++ be 2 v.udpPort ++ be 2 (56 + n) ++ be 2 0

@[simp] theorem deliveryHeader_length (n : StreamId) (p : Presentation) (m : Message) : (deliveryHeader n p m).length = 48 := by
  simp [deliveryHeader]

theorem etherHeader_length {p : Presentation} {v : Viewer} (ethernet : v.ethernet.length = 6) : (etherHeader p v).length = 14 := by
  simp [etherHeader, ethernet]

theorem ipv4Header_length {length checksum : Nat} {source dest : List Byte} (hs : source.length = 4) (hd : dest.length = 4) :
    (ipv4Header length source dest checksum).length = 20 := by
  simp [ipv4Header, hs, hd]

@[simp] theorem udpHeader_length (stream : StreamId) (v : Viewer) (n : Nat) : (udpHeader stream v n).length = 8 := by
  simp [udpHeader]

theorem deliveryBytes_parts (n : StreamId) (p : Presentation) (v : Viewer) (m : Message) :
    deliveryBytes n p v m =
      etherHeader p v ++ (messageHeader p v m.payload.length ++ (udpHeader n v m.payload.length ++
        (deliveryHeader n p m ++ m.payload))) := by
  have long : 28 + (deliveryHeader n p m ++ m.payload).length = 76 + m.payload.length := by
    rw [List.length_append, deliveryHeader_length]
    omega
  have datagram : 8 + (deliveryHeader n p m ++ m.payload).length = 56 + m.payload.length := by
    rw [List.length_append, deliveryHeader_length]
    omega
  unfold deliveryBytes
  dsimp only
  rw [long, datagram]
  simp only [etherHeader, messageHeader, udpHeader, sourceOf, List.append_assoc]

/-! ### The checksum (10.7) -/

/-- Two folds of a sum of ten words leave a word that differs from it by a multiple of 65,535. -/
theorem checksum16_sum {b : List Byte} (small : sum16 b < 655360) :
    checksum16 b < 65536 ∧ ∃ k, 1 ≤ k ∧ sum16 b + checksum16 b = k * 65535 := by
  unfold checksum16
  dsimp only
  generalize sum16 b = s at *
  refine ⟨by omega, 1 + s / 65536 + (s % 65536 + s / 65536) / 65536, by omega, ?_⟩
  omega

/-- The sum of the words of an IPv4 header. -/
theorem sum16_ipv4Header (length checksum : Nat) (a b c d e f g h : Byte) (fits : length < 65536) (word : checksum < 65536) :
    sum16 (ipv4Header length [a, b, c, d] [e, f, g, h] checksum) =
      69 * 256 + length + 16384 + (64 * 256 + 17) + checksum + (256 * a.toNat + b.toNat + (256 * c.toNat + d.toNat)) +
        (256 * e.toNat + f.toNat + (256 * g.toNat + h.toNat)) := by
  simp [ipv4Header, be, le, sum16]
  omega

/-! ### Where the parts lie -/

/-- The parts of a delivery message `b` and where they begin (10.7). -/
structure DeliveryParts (n : StreamId) (p : Presentation) (v : Viewer) (m : Message) (b : List Byte) : Prop where
  ether : ∀ i k, i + k ≤ 14 → bytesAt b i k = bytesAt (etherHeader p v) i k
  ipv4 : ∀ i k, i + k ≤ 20 → bytesAt b (14 + i) k = bytesAt (messageHeader p v m.payload.length) i k
  udp : ∀ i k, i + k ≤ 8 → bytesAt b (34 + i) k = bytesAt (udpHeader n v m.payload.length) i k
  header : ∀ i k, i + k ≤ 48 → bytesAt b (42 + i) k = bytesAt (deliveryHeader n p m) i k
  length : b.length = 90 + m.payload.length
  first : b.take 6 = v.ethernet
  rest : b.drop 90 = m.payload

theorem deliveryBytes_layout (n : StreamId) {p : Presentation} {v : Viewer} (m : Message) (ethernet : v.ethernet.length = 6)
    (ipv4 : v.ipv4.length = 4) : DeliveryParts n p v m (deliveryBytes n p v m) := by
  have a := etherHeader_length (p := p) ethernet
  have i : (messageHeader p v m.payload.length).length = 20 := ipv4Header_length rfl ipv4
  have u := udpHeader_length n v m.payload.length
  have h := deliveryHeader_length n p m
  rw [deliveryBytes_parts]
  refine ⟨fun j k small => bytesAt_append_left _ _ (by omega), fun j k small => ?_, fun j k small => ?_, fun j k small => ?_,
    by simp only [List.length_append, a, i, u, h]; omega, ?_, ?_⟩
  · rw [bytesAt_append_right _ _ (by omega), a, bytesAt_append_left _ _ (by omega), Nat.add_sub_cancel_left]
  · rw [bytesAt_append_right _ _ (by omega), a, bytesAt_append_right _ _ (by omega), i, bytesAt_append_left _ _ (by omega)]
    congr 1
    omega
  · rw [bytesAt_append_right _ _ (by omega), a, bytesAt_append_right _ _ (by omega), i, bytesAt_append_right _ _ (by omega), u,
      bytesAt_append_left _ _ (by omega)]
    congr 1
    omega
  · simp [etherHeader, ethernet]
  · rw [← List.append_assoc, ← List.append_assoc, ← List.append_assoc]
    exact List.drop_left' (by simp only [List.length_append, a, i, u, h])

/-- The words of the IPv4 header of a message (10.7). -/
structure DeliveryIpv4 (p : Presentation) (v : Viewer) (n : Nat) (b : List Byte) : Prop where
  version : u8 b 0 = 69
  service : u8 b 1 = 0
  length : bigAt b 2 = 76 + n
  identification : bigAt b 4 = 0
  flags : bigAt b 6 = 16384
  life : u8 b 8 = 64
  protocol : u8 b 9 = 17
  checksum : bigAt b 10 = checksum16 (ipv4Header (76 + n) (sourceOf p) v.ipv4 0)
  source : bytesAt b 12 4 = sourceOf p
  dest : bytesAt b 16 4 = v.ipv4

theorem checksum16_lt {n : Nat} (p : Presentation) {v : Viewer} (ipv4 : v.ipv4.length = 4) (short : n ≤ 8192) :
    checksum16 (ipv4Header (76 + n) (sourceOf p) v.ipv4 0) < 65536 ∧
      ∃ k, 1 ≤ k ∧ sum16 (ipv4Header (76 + n) (sourceOf p) v.ipv4 0) +
        checksum16 (ipv4Header (76 + n) (sourceOf p) v.ipv4 0) = k * 65535 := by
  refine checksum16_sum ?_
  obtain ⟨e, f, g, h, dest⟩ : ∃ e f g h, v.ipv4 = [e, f, g, h] := by
    match v.ipv4, ipv4 with
    | [e, f, g, h], _ => exact ⟨e, f, g, h, rfl⟩
  rw [dest, sourceOf, sum16_ipv4Header _ _ _ _ _ _ _ _ _ _ (by omega) (by omega)]
  have b1 := (Config.stationByte (portCode p.port) 4).isLt
  have b2 := (Config.stationByte (portCode p.port) 5).isLt
  have := e.isLt
  have := f.isLt
  have := g.isLt
  have := h.isLt
  omega

theorem messageHeader_layout {p : Presentation} {v : Viewer} {n : Nat} (ipv4 : v.ipv4.length = 4) (short : n ≤ 8192) :
    DeliveryIpv4 p v n (messageHeader p v n) := by
  obtain ⟨word, -⟩ := checksum16_lt p ipv4 short
  have source : (sourceOf p).length = 4 := rfl
  have whole (l : List Byte) (long : l.length = 4) : bytesAt l 0 4 = l := long ▸ bytesAt_self l
  refine ⟨u8_small (v := 69) ?_, u8_small (v := 0) ?_, bigAt_small ?_ (by omega), bigAt_small (v := 0) ?_, bigAt_small (v := 16384) ?_, u8_small (v := 64) ?_,
    u8_small (v := 17) ?_, bigAt_small ?_ word, ?_, ?_⟩ <;>
    simp [messageHeader, ipv4Header, ← be_one, ipv4, source, whole]

/-- The words of the IPv4 header of a message sum to a multiple of 65,535 (10.7). -/
theorem DeliveryIpv4.sum {p : Presentation} {v : Viewer} {n : Nat} {b : List Byte} (layout : DeliveryIpv4 p v n b)
    (ipv4 : v.ipv4.length = 4) (short : n ≤ 8192) :
    ∃ k, 1 ≤ k ∧ ((List.range 10).map fun i => bigAt b (2 * i)).sum = k * 65535 := by
  obtain ⟨word, k, positive, sum⟩ := checksum16_lt p ipv4 short
  obtain ⟨e, f, g, h, dest⟩ : ∃ e f g h, v.ipv4 = [e, f, g, h] := by
    match v.ipv4, ipv4 with
    | [e, f, g, h], _ => exact ⟨e, f, g, h, rfl⟩
  refine ⟨k, positive, ?_⟩
  obtain ⟨s12, s13, s14, s15⟩ := u8_four layout.source
  obtain ⟨d16, d17, d18, d19⟩ := u8_four (layout.dest.trans dest)
  have check := layout.checksum
  generalize checksum16 (ipv4Header (76 + n) (sourceOf p) v.ipv4 0) = c at check sum word
  rw [dest, sourceOf, sum16_ipv4Header _ _ _ _ _ _ _ _ _ _ (by omega) (by omega)] at sum
  have first : bigAt b 0 = 69 * 256 := by rw [bigAt, layout.version, layout.service]
  have life : bigAt b 8 = 64 * 256 + 17 := by rw [bigAt, layout.life, layout.protocol]
  have words : ((List.range 10).map fun i => bigAt b (2 * i)).sum =
      bigAt b 0 + (bigAt b 2 + (bigAt b 4 + (bigAt b 6 + (bigAt b 8 + (bigAt b 10 + (bigAt b 12 + (bigAt b 14 +
        (bigAt b 16 + (bigAt b 18 + 0))))))))) := by
    rw [show List.range 10 = [0, 1, 2, 3, 4, 5, 6, 7, 8, 9] from by decide]
    simp only [List.map_cons, List.map_nil, List.sum_cons, List.sum_nil, Nat.reduceMul]
  have source : bigAt b 12 + bigAt b 14 = 256 * (169 : Byte).toNat + (254 : Byte).toNat +
      (256 * (Config.stationByte (portCode p.port) 4).toNat + (Config.stationByte (portCode p.port) 5).toNat) := by
    rw [bigAt, bigAt, s12, s13, s14, s15]
  have target : bigAt b 16 + bigAt b 18 = 256 * e.toNat + f.toNat + (256 * g.toNat + h.toNat) := by
    rw [bigAt, bigAt, d16, d17, d18, d19]
  have length := layout.length
  have identification := layout.identification
  have flags := layout.flags
  rw [← source, ← target, ← check] at sum
  rw [words, first, length, identification, flags, life, ← sum]
  ring

/-! ### The delivery header (R153) -/

/-- The fields of a delivery header that do not depend on what is sent (R153). -/
structure HeaderFields (n : StreamId) (p : Presentation) (m : Message) (b : List Byte) : Prop where
  version : u8 b 0 = 1
  flags : u8 b 3 = (if m.last then 1 else 0) + (if p.marked then 2 else 0) + (if p.listEnd then 4 else 0)
  stream : u8 b 4 = n.val
  viewer : u8 b 5 = m.viewer.val
  reserved : u8 b 7 = 0
  tick : u32 b 8 = p.tick.toNat
  unsent : m.fragment = none → u32 b 20 = 0
  offset : ∀ o bytes, m.fragment = some (o, bytes) → u32 b 20 = o % 2 ^ 32
  length : u32 b 24 = m.payload.length % 2 ^ 32
  deliver : u32 b 28 = p.deliver.toNat % 2 ^ 32
  rest : bytesAt b 32 16 = List.replicate 16 0

theorem deliveryHeader_fields (n : StreamId) (p : Presentation) (m : Message) :
    HeaderFields n p m (deliveryHeader n p m) := by
  have flags : boolCode m.last + 2 * boolCode p.marked + 4 * boolCode p.listEnd =
      (if m.last then 1 else 0) + (if p.marked then 2 else 0) + (if p.listEnd then 4 else 0) := by
    cases m.last <;> cases p.marked <;> cases p.listEnd <;> rfl
  refine ⟨u8_small (v := 1) ?_, (u8_small ?_ ?_).trans flags, u8_small ?_, u8_small ?_, u8_small (v := 0) ?_, u32_word ?_,
    fun none_ => (u32_field (v := 0) ?_).trans rfl, fun o bytes some_ => u32_field ?_, u32_field ?_, u32_field ?_, ?_⟩
  case refine_3 => rw [flags]; split <;> split <;> split <;> decide
  case refine_6 => simp [deliveryHeader]; rfl
  case refine_8 => simp [deliveryHeader, none_]
  case refine_9 => simp [deliveryHeader, some_]
  all_goals simp [deliveryHeader]

/-- The fields of a delivery header that say what is sent: kind, reason, clip, frame and bytes (R153). -/
structure HeaderNames (kind reason clip frame bytes : Nat) (b : List Byte) : Prop where
  kind : u8 b 1 = kind
  reason : u8 b 2 = reason
  clip : u8 b 6 = clip
  frame : u32 b 12 = frame % 2 ^ 32
  bytes : u32 b 16 = bytes % 2 ^ 32

theorem deliveryHeader_frame {p : Presentation} {k : FrameKey} {bytes d : Nat} (n : StreamId) (m : Message)
    (h : p.sentAs = .frame k bytes d) : HeaderNames 0 0 k.clip k.frame bytes (deliveryHeader n p m) := by
  refine ⟨u8_small ?_, u8_small ?_, u8_small ?_, u32_field ?_, u32_field ?_⟩ <;> simp [deliveryHeader, h]

theorem deliveryHeader_repeated {p : Presentation} {k : FrameKey} (n : StreamId) (m : Message) (h : p.sentAs = .repeated k) :
    HeaderNames 1 0 k.clip k.frame 0 (deliveryHeader n p m) := by
  refine ⟨u8_small ?_, u8_small ?_, u8_small ?_, u32_field ?_, u32_field ?_⟩ <;> simp [deliveryHeader, h]

theorem FillReason.code_lt (r : FillReason) : r.code < 256 := by cases r <;> decide

theorem deliveryHeader_fill {p : Presentation} {r : FillReason} (n : StreamId) (m : Message) (h : p.sentAs = .fill r) :
    HeaderNames 2 r.code 0 0 0 (deliveryHeader n p m) := by
  refine ⟨u8_small ?_, u8_small ?_ r.code_lt, u8_small ?_, u32_field ?_, u32_field ?_⟩ <;> simp [deliveryHeader, h]

/-- What a delivery header says of what is sent (R153). -/
theorem deliveryHeader_says (n : StreamId) (p : Presentation) (m : Message) :
    let b := deliveryHeader n p m
    (u8 b 1 = 0 ↔ ∃ k s d, p.sentAs = .frame k s d) ∧ (u8 b 1 = 1 ↔ ∃ k, p.sentAs = .repeated k) ∧
      (∀ r, p.sentAs = .fill r →
        u8 b 1 = 2 ∧ u8 b 2 = (match r with | .gap => 1 | .missing => 2 | .failed => 3) ∧ u8 b 6 = 0 ∧ u32 b 12 = 0) ∧
      ((∀ r, p.sentAs ≠ .fill r) → u8 b 2 = 0) ∧
      (∀ k, ((∃ s d, p.sentAs = .frame k s d) ∨ p.sentAs = .repeated k) →
        u8 b 6 = k.clip.val ∧ (k.frame < 2 ^ 32 → u32 b 12 = k.frame)) ∧
      (∀ k s d, p.sentAs = .frame k s d → s < 2 ^ 32 → u32 b 16 = s) ∧
      ((∀ k s d, p.sentAs ≠ .frame k s d) → u32 b 16 = 0) := by
  dsimp only
  cases sent : p.sentAs with
  | frame k s d =>
    obtain ⟨kind, reason, clip, frame, bytes⟩ := deliveryHeader_frame n m sent
    rw [kind, reason, clip, frame, bytes]
    simp +contextual [Nat.mod_eq_of_lt]
  | repeated k =>
    obtain ⟨kind, reason, clip, frame, bytes⟩ := deliveryHeader_repeated n m sent
    rw [kind, reason, clip, frame, bytes]
    simp +contextual [Nat.mod_eq_of_lt]
  | fill r =>
    obtain ⟨kind, reason, clip, frame, bytes⟩ := deliveryHeader_fill n m sent
    rw [kind, reason, clip, frame, bytes]
    cases r <;> simp [FillReason.code]

theorem u8_part {b q : List Byte} {o l i : Nat} (part : ∀ i k, i + k ≤ l → bytesAt b (o + i) k = bytesAt q i k) (small : i < l) :
    u8 b (o + i) = u8 q i := by
  have byte := part i 1 small
  exact congrArg BitVec.toNat (List.cons.inj byte).1

theorem bigAt_part {b q : List Byte} {o l i : Nat} (part : ∀ i k, i + k ≤ l → bytesAt b (o + i) k = bytesAt q i k)
    (small : i + 1 < l) : bigAt b (o + i) = bigAt q i := by
  rw [bigAt, bigAt, u8_part part (by omega), Nat.add_assoc, u8_part part small]

theorem u32_part {b q : List Byte} {o l i : Nat} (part : ∀ i k, i + k ≤ l → bytesAt b (o + i) k = bytesAt q i k)
    (small : i + 3 < l) : u32 b (o + i) = u32 q i := by
  have byte (j : Nat) (h : j ≤ 3) : u8 b (o + i + j) = u8 q (i + j) := by
    rw [Nat.add_assoc]
    exact u8_part part (by omega)
  have zero := byte 0 (by omega)
  have one := byte 1 (by omega)
  have two := byte 2 (by omega)
  have three := byte 3 (by omega)
  simp only [u32, u16, Nat.add_assoc, Nat.add_zero] at *
  rw [zero, one, two, three]

/-- Settles O54. -/
theorem deliveryMessageLayout : Obligations.DeliveryMessageLayout := by
  unfold Obligations.DeliveryMessageLayout
  intro n p v m ethernet ipv4 short
  have parts := deliveryBytes_layout n m (p := p) ethernet ipv4
  dsimp only
  generalize deliveryBytes n p v m = b at parts ⊢
  have ip := messageHeader_layout (p := p) (n := m.payload.length) ipv4 short
  have fields := deliveryHeader_fields n p m
  have ether : ∀ i k, i + k ≤ 14 → bytesAt b (0 + i) k = bytesAt (etherHeader p v) i k := fun i k small => by
    rw [Nat.zero_add]
    exact parts.ether i k small
  have station (i : Nat) (small : i < 6) : u8 b (6 + i) = (Config.stationByte (portCode p.port) i).toNat := by
    have byte := u8_part ether (i := 6 + i) (by omega)
    rw [Nat.zero_add] at byte
    rw [byte]
    simp [u8, etherHeader, ethernet, small, List.getElem?_append]
  have type : bigAt b 12 = 2048 := by
    have word := bigAt_part ether (i := 12) (by omega)
    refine word.trans (bigAt_small (v := 2048) ?_)
    simp [etherHeader, ethernet]
  have source := u8_four ip.source
  obtain ⟨s12, s13, s14, s15⟩ := source
  have udp : bigAt (udpHeader n v m.payload.length) 0 = 49152 + n.val ∧
      (v.udpPort < 65536 → bigAt (udpHeader n v m.payload.length) 2 = v.udpPort) ∧
      bigAt (udpHeader n v m.payload.length) 4 = 56 + m.payload.length ∧ bigAt (udpHeader n v m.payload.length) 6 = 0 := by
    refine ⟨bigAt_small ?_, fun fits => bigAt_small ?_ fits, bigAt_small ?_, bigAt_small (v := 0) ?_⟩ <;> simp [udpHeader]
  obtain ⟨udpSource, udpDest, udpLength, udpCheck⟩ := udp
  obtain ⟨k, positive, sum⟩ := ip.sum ipv4 short
  refine ⟨parts.length, parts.first, (parts.ipv4 16 4 (by omega)).trans ip.dest, station, type,
    (u8_part parts.ipv4 (i := 0) (by omega)).trans ip.version, (bigAt_part parts.ipv4 (i := 2) (by omega)).trans ip.length,
    (bigAt_part parts.ipv4 (i := 4) (by omega)).trans ip.identification,
    (bigAt_part parts.ipv4 (i := 6) (by omega)).trans ip.flags, (u8_part parts.ipv4 (i := 8) (by omega)).trans ip.life,
    (u8_part parts.ipv4 (i := 9) (by omega)).trans ip.protocol, (u8_part parts.ipv4 (i := 12) (by omega)).trans s12,
    (u8_part parts.ipv4 (i := 13) (by omega)).trans s13, ?_, ⟨k, positive, ?_⟩,
    (bigAt_part parts.udp (i := 0) (by omega)).trans udpSource,
    fun fits => (bigAt_part parts.udp (i := 2) (by omega)).trans (udpDest fits),
    (bigAt_part parts.udp (i := 4) (by omega)).trans udpLength, (bigAt_part parts.udp (i := 6) (by omega)).trans udpCheck,
    (u8_part parts.header (i := 0) (by omega)).trans fields.version, ?_⟩
  · intro i small
    rw [show 28 + i = 14 + (14 + i) from by omega, u8_part parts.ipv4 (by omega)]
    obtain rfl | rfl : i = 0 ∨ i = 1 := by omega
    · exact s14
    · exact s15
  · rw [← sum]
    refine congrArg List.sum (List.map_congr_left fun i mem => ?_)
    exact bigAt_part parts.ipv4 (by have := List.mem_range.1 mem; omega)
  · have names := deliveryHeader_says n p m
    have h1 := u8_part parts.header (i := 1) (by omega)
    have h2 := u8_part parts.header (i := 2) (by omega)
    have h6 := u8_part parts.header (i := 6) (by omega)
    have h12 := u32_part parts.header (i := 12) (by omega)
    have h16 := u32_part parts.header (i := 16) (by omega)
    have h20 := u32_part parts.header (i := 20) (by omega)
    have h24 := u32_part parts.header (i := 24) (by omega)
    have payload : u32 b 66 = m.payload.length := h24.trans (fields.length.trans (Nat.mod_eq_of_lt (by omega)))
    dsimp only at names
    rw [← h1, ← h2, ← h6, ← h12, ← h16] at names
    obtain ⟨frame, repeated, fill, noFill, named, size, noSize⟩ := names
    refine ⟨frame, repeated, fill, noFill, (u8_part parts.header (i := 3) (by omega)).trans fields.flags,
      (u8_part parts.header (i := 4) (by omega)).trans fields.stream,
      (u8_part parts.header (i := 5) (by omega)).trans fields.viewer,
      (u8_part parts.header (i := 7) (by omega)).trans fields.reserved,
      (u32_part parts.header (i := 8) (by omega)).trans fields.tick, named, size, noSize,
      fun none_ => ⟨h20.trans (fields.unsent none_), payload.trans (by rw [Message.payload, none_]; rfl)⟩,
      fun o bytes some_ => ⟨fun fits => h20.trans ((fields.offset o bytes some_).trans (Nat.mod_eq_of_lt fits)),
        payload.trans (by rw [Message.payload, some_])⟩,
      (u32_part parts.header (i := 28) (by omega)).trans fields.deliver,
      (parts.header 32 16 (by omega)).trans fields.rest, parts.rest⟩

end Sys2Proof.Machine
end

section
/-! SUPPORT. The bodies of LAYD and CLIP (R27, R36, 10.4). -/

namespace Sys2Proof.Machine

/-! ### Lists of members (R27) -/

theorem memberList_iff {l : List Nat} {ms : List MemberId} : memberList l = some ms ↔ ms.map Fin.val = l := by
  induction l generalizing ms with
  | nil =>
    unfold memberList
    constructor
    · intro h
      cases h
      rfl
    · intro same
      rw [List.map_eq_nil_iff.1 same]
  | cons n l ih =>
    unfold memberList
    split
    · next small =>
      rw [Option.map_eq_some_iff]
      constructor
      · rintro ⟨rest, found, rfl⟩
        rw [List.map_cons, ih.1 found]
      · intro same
        cases ms with
        | nil => cases same
        | cons m ms =>
          obtain ⟨head, tail⟩ := List.cons.inj same
          exact ⟨ms, ih.2 tail, by rw [show (⟨n, small⟩ : MemberId) = m from Fin.ext head.symm]⟩
    · next large =>
      constructor
      · intro h
        cases h
      · intro same
        cases ms with
        | nil => cases same
        | cons m ms =>
          obtain ⟨head, -⟩ := List.cons.inj same
          exact absurd (head ▸ m.isLt) large

/-- A list of numbers up to 7 names members. -/
theorem memberList_of_small {l : List Nat} (small : ∀ x ∈ l, x ≤ 7) : ∃ ms : List MemberId, ms.map Fin.val = l := by
  induction l with
  | nil => exact ⟨[], rfl⟩
  | cons n l ih =>
    obtain ⟨ms, rest⟩ := ih fun x mem => small x (List.mem_cons_of_mem n mem)
    have first := small n List.mem_cons_self
    exact ⟨⟨n, by omega⟩ :: ms, by rw [List.map_cons, rest]⟩

theorem numbersAt_eq (b : List Byte) (i n : Nat) : numbersAt b i n = (List.range n).map fun k => u8 b (i + k) := by
  unfold numbersAt
  induction n generalizing i with
  | zero => rfl
  | succ n ih =>
    rw [bytesAt, List.map_cons, ih, List.range_succ_eq_map, List.map_cons, List.map_map]
    refine congrArg₂ List.cons rfl (List.map_congr_left fun k _ => ?_)
    rw [Function.comp, Nat.succ_eq_add_one, Nat.add_assoc, Nat.add_comm 1 k]

theorem alternatesDiffer_iff (ms as : List MemberId) :
    alternatesDiffer ms as = true ↔ ∀ (k : Nat) (m a : MemberId), ms[k]? = some m → as[k]? = some a → m ≠ a := by
  induction ms generalizing as with
  | nil => simp [alternatesDiffer]
  | cons m ms ih =>
    cases as with
    | nil => simp [alternatesDiffer]
    | cons a as =>
      unfold alternatesDiffer
      rw [Bool.and_eq_true, bne_iff_ne, ih]
      constructor
      · rintro ⟨first, rest⟩ k x y hx hy
        cases k with
        | zero =>
          cases hx
          cases hy
          exact first
        | succ k => exact rest k x y hx hy
      · exact fun h => ⟨h 0 m a rfl rfl, fun k x y hx hy => h (k + 1) x y hx hy⟩

/-! ### LAYD (R27) -/

/-- The definition has the fields of a LAYD body (10.4). -/
structure LayoutDef.ReadFrom (d : LayoutDef) (b : List Byte) : Prop where
  first : d.first = u64 b 16
  last : d.last = u64 b 24
  chunk : d.chunk = u16 b 8
  base : d.base = u64 b 32
  members : d.members.map Fin.val = (List.range (u8 b 5)).map fun k => u8 b (40 + k)
  alternates : d.alternates.map (List.map Fin.val) =
    if u8 b 7 = 1 then some ((List.range (u8 b 5)).map fun k => u8 b (48 + k)) else none
  interleave : d.interleave = if u8 b 6 = 0 then .rotate else .skew

/-- The counts and flags of a LAYD body are in their ranges (R27). -/
def LaydCounts (b : List Byte) : Prop := 1 ≤ u8 b 5 ∧ u8 b 5 ≤ 8 ∧ u8 b 6 ≤ 1 ∧ u8 b 7 ≤ 1

theorem LayoutDef.ReadFrom.unique {d e : LayoutDef} {b : List Byte} (h : d.ReadFrom b) (k : e.ReadFrom b) : d = e := by
  have members : d.members = e.members :=
    List.map_injective_iff.2 Fin.val_injective (h.members.trans k.members.symm)
  have alternates : d.alternates = e.alternates :=
    Option.map_injective (List.map_injective_iff.2 Fin.val_injective) (h.alternates.trans k.alternates.symm)
  obtain ⟨dfirst, dlast, dchunk, dbase, -, -, dinterleave⟩ := h
  obtain ⟨efirst, elast, echunk, ebase, -, -, einterleave⟩ := k
  cases d
  cases e
  simp_all

/-- A LAYD body that asks for a definition has its fields, in their ranges (R27). -/
theorem layoutDef_read {b : List Byte} {d : LayoutDef} (h : layoutDef b = some d) :
    LaydCounts b ∧ d.ReadFrom b ∧ d.fieldsOk = true := by
  unfold layoutDef at h
  dsimp only at h
  rw [numbersAt_eq, numbersAt_eq] at h
  split at h
  · cases h
  next wide =>
  split at h
  · cases h
  next flags =>
  have counts : LaydCounts b := by unfold LaydCounts; omega
  split at h
  · cases h
  next ms members =>
  rw [memberList_iff] at members
  split at h
  · next single =>
    have noMirror : ¬ u8 b 7 = 1 := by omega
    obtain ⟨ok, same⟩ := Option.ite_none_right_eq_some.1 h
    obtain rfl := Option.some.inj same
    exact ⟨counts, ⟨rfl, rfl, rfl, rfl, members, by rw [if_neg noMirror]; rfl, rfl⟩, ok⟩
  · next mirror =>
    have mirrored : u8 b 7 = 1 := by omega
    split at h
    · cases h
    · next as alternates =>
      rw [memberList_iff] at alternates
      obtain ⟨ok, same⟩ := Option.ite_none_right_eq_some.1 h
      obtain rfl := Option.some.inj same
      exact ⟨counts, ⟨rfl, rfl, rfl, rfl, members, by rw [if_pos mirrored, ← alternates]; rfl, rfl⟩, ok⟩

/-- A definition that has the fields of a LAYD body, in their ranges, is what the body asks for (R27). -/
theorem layoutDef_of_read {b : List Byte} {d : LayoutDef} (counts : LaydCounts b) (read : d.ReadFrom b)
    (ok : d.fieldsOk = true) : layoutDef b = some d := by
  obtain ⟨some_, few, interleave, mirror⟩ := counts
  have alternates := read.alternates
  unfold layoutDef
  dsimp only
  rw [if_neg (by omega), if_neg (by omega), numbersAt_eq, numbersAt_eq, memberList_iff.2 read.members]
  dsimp only
  obtain single | mirrored : u8 b 7 = 0 ∨ u8 b 7 = 1 := by omega
  · have noMirror : ¬ u8 b 7 = 1 := by omega
    have same : (⟨u64 b 16, u64 b 24, u16 b 8, d.members, none, u64 b 32, if u8 b 6 = 0 then .rotate else .skew⟩ : LayoutDef) = d :=
      LayoutDef.ReadFrom.unique ⟨rfl, rfl, rfl, rfl, read.members, by rw [if_neg noMirror]; rfl, rfl⟩ read
    rw [if_pos single]
    exact Option.ite_none_right_eq_some.2 ⟨(congrArg LayoutDef.fieldsOk same).trans ok, congrArg some same⟩
  · rw [if_pos mirrored, Option.map_eq_some_iff] at alternates
    obtain ⟨as, list, values⟩ := alternates
    have same : (⟨u64 b 16, u64 b 24, u16 b 8, d.members, some as, u64 b 32, if u8 b 6 = 0 then .rotate else .skew⟩ : LayoutDef) = d :=
      LayoutDef.ReadFrom.unique ⟨rfl, rfl, rfl, rfl, read.members, by rw [if_pos mirrored, ← values]; rfl, rfl⟩ read
    rw [if_neg (by omega), memberList_iff.2 values]
    exact Option.ite_none_right_eq_some.2 ⟨(congrArg LayoutDef.fieldsOk same).trans ok, congrArg some same⟩

theorem numbers_get {ms : List MemberId} {w : Nat} {f : Nat → Nat} (h : ms.map Fin.val = (List.range w).map f) {k : Nat}
    (small : k < w) : ∃ m, ms[k]? = some m ∧ m.val = f k := by
  have at_ := congrArg (fun l => l[k]?) h
  simp only [List.getElem?_map, List.getElem?_range small, Option.map_some] at at_
  exact Option.map_eq_some_iff.1 at_

theorem numbers_val {ms : List MemberId} {w : Nat} {f : Nat → Nat} (h : ms.map Fin.val = (List.range w).map f) {k : Nat}
    {m : MemberId} (at_ : ms[k]? = some m) : k < w ∧ m.val = f k := by
  have long : ms.length = w := by simpa using congrArg List.length h
  have small : k < w := long ▸ (List.getElem?_eq_some_iff.1 at_).1
  obtain ⟨m', at', value⟩ := numbers_get h small
  rw [at_] at at'
  cases at'
  exact ⟨small, value⟩

theorem numbers_small {ms : List MemberId} {l : List Nat} (h : ms.map Fin.val = l) : ∀ x ∈ l, x ≤ 7 := by
  subst h
  intro x mem
  obtain ⟨m, -, rfl⟩ := List.mem_map.1 mem
  have := m.isLt
  omega

/-- The checks of R27 on a definition that has the fields of a LAYD body. -/
theorem LayoutDef.ReadFrom.fieldsOk {d : LayoutDef} {b : List Byte} (read : d.ReadFrom b) :
    d.fieldsOk = true ↔
      (u16 b 8 = 16 ∨ u16 b 8 = 32 ∨ u16 b 8 = 64 ∨ u16 b 8 = 128 ∨ u16 b 8 = 256) ∧ u64 b 16 ≤ u64 b 24 ∧ u64 b 24 < 2 ^ 48 ∧
        ((List.range (u8 b 5)).map fun k => u8 b (40 + k)).Nodup ∧
        (u8 b 7 = 1 → ∀ k, k < u8 b 5 → u8 b (48 + k) ≠ u8 b (40 + k)) ∧
        u64 b 32 + ((u64 b 24 - u64 b 16) / u16 b 8 + 1 + u8 b 5 - 1) / u8 b 5 * u16 b 8 - 1 < 2 ^ 48 ∧ u64 b 32 < 2 ^ 48 := by
  have width : d.members.length = u8 b 5 := by simpa using congrArg List.length read.members
  have distinct : distinctMembers d.members = true ↔ ((List.range (u8 b 5)).map fun k => u8 b (40 + k)).Nodup := by
    rw [distinctMembers_iff, ← read.members, List.nodup_map_iff Fin.val_injective]
  have differ : (∀ l, d.alternates = some l → alternatesDiffer d.members l = true) ↔
      (u8 b 7 = 1 → ∀ k, k < u8 b 5 → u8 b (48 + k) ≠ u8 b (40 + k)) := by
    have mirrors := read.alternates
    constructor
    · intro h mirror k small same
      rw [if_pos mirror, Option.map_eq_some_iff] at mirrors
      obtain ⟨as, some_, values⟩ := mirrors
      obtain ⟨m, atM, valueM⟩ := numbers_get read.members small
      obtain ⟨a, atA, valueA⟩ := numbers_get values small
      exact (alternatesDiffer_iff _ _).1 (h as some_) k m a atM atA (Fin.ext (valueM.trans (same.symm.trans valueA.symm)))
    · intro h l some_
      rw [some_, Option.map_some] at mirrors
      split at mirrors
      · next mirror =>
        have values := Option.some.inj mirrors
        refine (alternatesDiffer_iff _ _).2 fun k m a atM atA same => ?_
        obtain ⟨small, valueM⟩ := numbers_val read.members atM
        exact h mirror k small ((numbers_val values atA).2.symm.trans ((congrArg Fin.val same).symm.trans valueM))
      · cases mirrors
  rw [LayoutDef.fieldsOk_iff, distinct, differ, LayoutDef.rows, width, read.chunk, read.first, read.last, read.base]

/-- A body whose member numbers are in range, its alternates too where it has them, is that of a definition. -/
theorem LayoutDef.exists_readFrom {b : List Byte} (members : ∀ x ∈ (List.range (u8 b 5)).map fun k => u8 b (40 + k), x ≤ 7)
    (alternates : u8 b 7 = 1 → ∀ k, k < u8 b 5 → u8 b (48 + k) ≤ 7) : ∃ d : LayoutDef, d.ReadFrom b := by
  obtain ⟨ms, read⟩ := memberList_of_small members
  by_cases mirror : u8 b 7 = 1
  · obtain ⟨as, mirrors⟩ := memberList_of_small (l := (List.range (u8 b 5)).map fun k => u8 b (48 + k)) fun x mem => by
      obtain ⟨k, small, rfl⟩ := List.mem_map.1 mem
      exact alternates mirror k (List.mem_range.1 small)
    exact ⟨⟨_, _, _, ms, some as, _, _⟩, rfl, rfl, rfl, rfl, read, by rw [if_pos mirror, ← mirrors]; rfl, rfl⟩
  · exact ⟨⟨_, _, _, ms, none, _, _⟩, rfl, rfl, rfl, rfl, read, by rw [if_neg mirror]; rfl, rfl⟩

/-! ### CLIP (R36) -/

/-- The checks of R36 on a CLIP body. -/
def ClipChecks (b : List Byte) : Prop :=
  1 ≤ u32 b 24 ∧ u32 b 24 ≤ 16384 ∧ (u32 b 24 - 1) * 4096 + 1 ≤ u32 b 28 ∧ u32 b 28 ≤ u32 b 24 * 4096 ∧
    1 ≤ u32 b 32 ∧ u32 b 32 ≤ 16777216 ∧ 1 ≤ u32 b 36 ∧ u32 b 36 ≤ 480000 ∧ 1 ≤ u32 b 40 ∧ u32 b 40 ≤ 2002 ∧
    u32 b 40 ≤ u32 b 36 ∧ u32 b 36 ≤ 240 * u32 b 40 ∧ u64 b 8 < 2 ^ 48 ∧
    u64 b 8 + u64 b 16 + u32 b 32 * u32 b 24 - 1 < 2 ^ 48

theorem clipDef_eq (b : List Byte) (g : Word) [Decidable (ClipChecks b)] :
    clipDef b g =
      if ClipChecks b then
        some
          { defined := true, generation := g, first := u64 b 8, head := u64 b 16, blocks := u32 b 24, bytes := u32 b 28,
            frames := u32 b 32, rateN := u32 b 36, rateD := u32 b 40 }
      else none := by
  unfold clipDef
  dsimp only
  by_cases checks : ClipChecks b
  · rw [if_pos checks]
    unfold ClipChecks at checks
    rw [if_neg (by omega), if_neg (by omega), if_neg (by omega), if_neg (by omega), if_neg (by omega)]
  · rw [if_neg checks]
    unfold ClipChecks at checks
    split
    · rfl
    split
    · rfl
    split
    · rfl
    split
    · rfl
    split
    · rfl
    exact absurd (by omega) checks

/-- Settles O20. -/
theorem laydAndClipBodiesAreRead : Obligations.LaydAndClipBodiesAreRead := by
  unfold Obligations.LaydAndClipBodiesAreRead
  refine ⟨fun b _ => ⟨?_, fun d asked => ?_⟩, fun b g _ => ?_⟩
  · dsimp only
    rw [Option.isSome_iff_exists]
    constructor
    · rintro ⟨d, asked⟩
      obtain ⟨⟨some_, few, interleave, mirror⟩, read, ok⟩ := layoutDef_read asked
      obtain ⟨chunk, order, last, distinct, differ, rows, base⟩ := read.fieldsOk.1 ok
      refine ⟨some_, few, interleave, mirror, chunk, order, last, numbers_small read.members, distinct,
        fun mirrored k small => ⟨?_, differ mirrored k small⟩, base, rows⟩
      have alternates := read.alternates
      rw [if_pos mirrored, Option.map_eq_some_iff] at alternates
      obtain ⟨as, -, values⟩ := alternates
      exact numbers_small values _ (List.mem_map.2 ⟨k, List.mem_range.2 small, rfl⟩)
    · rintro ⟨some_, few, interleave, mirror, chunk, order, last, members, distinct, differ, base, rows⟩
      obtain ⟨d, read⟩ := LayoutDef.exists_readFrom members fun mirrored k small => (differ mirrored k small).1
      exact ⟨d, layoutDef_of_read ⟨some_, few, interleave, mirror⟩ read (read.fieldsOk.2 ⟨chunk, order, last, distinct,
        fun mirrored k small => (differ mirrored k small).2, rows, base⟩)⟩
  · obtain ⟨-, read, -⟩ := layoutDef_read asked
    exact ⟨read.first, read.last, read.chunk, read.base, read.members, read.alternates, read.interleave⟩
  · classical
    exact ⟨fun checks => (clipDef_eq b g).trans (if_pos checks), fun fails => (clipDef_eq b g).trans (if_neg fails)⟩

end Sys2Proof.Machine
end

section
/-! SUPPORT. The orders of queues (R113, R129), and users, stale entries and the reclaim list (R107, R108, R112, R120, R122). -/

namespace Sys2Proof.Machine

/-! ### Queue order (R129) -/

/-- A deadline as a number, "none" being later than every value of ET (R63). -/
def rank (d : Deadline) : Nat := match d with | none => 2 ^ 64 | some t => t.toNat

theorem earlier_iff (a b : Deadline) : earlier a b = true ↔ rank a < rank b := by
  cases a with
  | none =>
    cases b with
    | none => simp [earlier, rank]
    | some b =>
      have := b.isLt
      simp only [earlier, rank, Bool.false_eq_true, false_iff]
      omega
  | some a =>
    have small := a.isLt
    cases b with
    | none =>
      simp only [earlier, rank, true_iff]
      exact small
    | some b => simp [earlier, rank, BitVec.ult]

theorem rank_inj {a b : Deadline} : rank a = rank b ↔ a = b := by
  constructor
  · intro h
    cases a with
    | none =>
      cases b with
      | none => rfl
      | some b => exact absurd (h.symm ▸ b.isLt : rank none < 2 ^ 64) (Nat.lt_irrefl _)
    | some a =>
      cases b with
      | none => exact absurd (h ▸ a.isLt : rank none < 2 ^ 64) (Nat.lt_irrefl _)
      | some b => exact congrArg some (BitVec.eq_of_toNat_eq h)
  · rintro rfl
    rfl

theorem Chunk.before_iff (a b : Chunk) :
    a.before b = true ↔ rank a.deadline < rank b.deadline ∨
      rank a.deadline = rank b.deadline ∧ a.arrival.toNat < b.arrival.toNat := by
  unfold Chunk.before
  rw [Bool.or_eq_true, Bool.and_eq_true, earlier_iff, beq_iff_eq, rank_inj]
  simp [BitVec.ult]

theorem firstInQueue_none (l : List Chunk) : firstInQueue l = none ↔ l = [] := by
  cases l with
  | nil => exact ⟨fun _ => rfl, fun _ => rfl⟩
  | cons c l =>
    refine ⟨fun h => ?_, fun h => absurd h (List.cons_ne_nil c l)⟩
    unfold firstInQueue at h
    split at h
    · cases h
    · split at h <;> cases h

/-- Nothing of the list comes before its first chunk (R129). -/
theorem firstInQueue_first {l : List Chunk} {c : Chunk} (h : firstInQueue l = some c) :
    c ∈ l ∧ ∀ z ∈ l, ¬ z.before c = true := by
  induction l generalizing c with
  | nil => cases h
  | cons a l ih =>
    have irrefl (x : Chunk) : ¬ x.before x = true := by
      rw [Chunk.before_iff]
      omega
    unfold firstInQueue at h
    split at h
    · next none_ =>
      cases h
      obtain rfl := (firstInQueue_none l).1 none_
      refine ⟨List.mem_singleton_self _, fun z mem => ?_⟩
      rw [List.mem_singleton.1 mem]
      exact irrefl _
    · next d first =>
      obtain ⟨mem, least⟩ := ih first
      split at h
      · next before =>
        cases h
        refine ⟨List.mem_cons_of_mem _ mem, fun z k => ?_⟩
        rcases List.mem_cons.1 k with rfl | k
        · rw [Chunk.before_iff] at before ⊢
          omega
        · exact least z k
      · next before =>
        cases h
        refine ⟨List.mem_cons_self, fun z k => ?_⟩
        rcases List.mem_cons.1 k with rfl | k
        · exact irrefl _
        · have later := least z k
          rw [Chunk.before_iff] at before later ⊢
          omega

/-! ### The wait list (R113) -/

/-- A waiter is taken before the first whose deadline is later, after those of its own deadline (R113). -/
theorem insertWaiter_split {w : Waiter} {l : List Waiter}
    (sorted : List.Pairwise (fun a b : Waiter => earlier b.deadline a.deadline = false) l) :
    ∃ before after, l = before ++ after ∧ insertWaiter w l = before ++ w :: after ∧
      (∀ x ∈ before, earlier w.deadline x.deadline = false) ∧ ∀ x ∈ after, earlier w.deadline x.deadline = true := by
  induction l with
  | nil => exact ⟨[], [], rfl, rfl, by simp, by simp⟩
  | cons x l ih =>
    obtain ⟨first, rest⟩ := List.pairwise_cons.1 sorted
    by_cases earlier_ : earlier w.deadline x.deadline = true
    · refine ⟨[], x :: l, rfl, if_pos earlier_, by simp, fun z mem => ?_⟩
      rcases List.mem_cons.1 mem with rfl | mem
      · exact earlier_
      · have follows := first z mem
        rw [← Bool.not_eq_true, earlier_iff] at follows
        rw [earlier_iff] at earlier_ ⊢
        omega
    · obtain ⟨before, after, list, insert, low, high⟩ := ih rest
      refine ⟨x :: before, after, by rw [list]; rfl, ?_, fun z mem => ?_, high⟩
      · unfold insertWaiter
        rw [if_neg earlier_, insert]
        rfl
      · rcases List.mem_cons.1 mem with rfl | mem
        · exact Bool.eq_false_iff.2 earlier_
        · exact low z mem

theorem insertWaiter_sorted {w : Waiter} {l : List Waiter}
    (sorted : List.Pairwise (fun a b : Waiter => earlier b.deadline a.deadline = false) l) :
    List.Pairwise (fun a b : Waiter => earlier b.deadline a.deadline = false) (insertWaiter w l) := by
  obtain ⟨before, after, list, insert, low, high⟩ := insertWaiter_split (w := w) sorted
  rw [list, List.pairwise_append] at sorted
  obtain ⟨first, second, cross⟩ := sorted
  rw [insert, List.pairwise_append]
  refine ⟨first, List.pairwise_cons.2 ⟨fun z mem => ?_, second⟩, fun x hx z hz => ?_⟩
  · have later := high z mem
    rw [← Bool.not_eq_true, earlier_iff]
    rw [earlier_iff] at later
    omega
  · rcases List.mem_cons.1 hz with rfl | hz
    · exact low x hx
    · exact cross x hx z hz

/-! ### Directory entries -/

theorem State.HasEntry.dirEntry {s : State} {y : DirEntry} (h : s.HasEntry y) : s.dirEntry y.id = some y := by
  obtain ⟨mem, only⟩ := h
  cases found : s.dirEntry y.id with
  | none =>
    have none_ := List.find?_eq_none.1 found y mem
    simp at none_
  | some z =>
    obtain ⟨old, id⟩ := State.dirEntry_mem found
    rw [only z old id]

theorem State.HasEntry.withEntry_dirEntry {s : State} {x y : DirEntry} (h : s.HasEntry y) (id : x.id = y.id) :
    (s.withEntry x).dirEntry y.id = some x := State.dirEntry_setDir_self h.dirEntry id

theorem map_replace_replace (l : List DirEntry) {x z : DirEntry} (id : x.id = z.id) :
    (l.map fun e => if e.id = x.id then x else e).map (fun e => if e.id = z.id then z else e) =
      l.map fun e => if e.id = z.id then z else e := by
  rw [List.map_map]
  refine List.map_congr_left fun e _ => ?_
  dsimp only [Function.comp]
  by_cases same : e.id = x.id
  · simp [same, id]
  · simp [same]

theorem State.withEntry_withEntry (s : State) {x z : DirEntry} (id : x.id = z.id) :
    (s.withEntry x).withEntry z = s.withEntry z := by
  simp only [State.withEntry, map_replace_replace _ id]

theorem State.withEntry_self {s : State} {y : DirEntry} (h : s.HasEntry y) : s.withEntry y = s := by
  have same : s.buffer.dir.map (fun z => if z.id = y.id then y else z) = s.buffer.dir := by
    refine (List.map_congr_left fun z mem => ?_).trans (List.map_id _)
    split
    · next id => exact (h.2 z mem id).symm
    · rfl
  simp only [State.withEntry, same]

theorem filter_map_replace (l : List DirEntry) (x : DirEntry) :
    (l.map fun z => if z.id = x.id then x else z).filter (fun e => e.id != x.id) = l.filter fun e => e.id != x.id := by
  induction l with
  | nil => rfl
  | cons z l ih =>
    rw [List.map_cons]
    by_cases same : z.id = x.id
    · rw [if_pos same, List.filter_cons_of_neg (by simp), List.filter_cons_of_neg (by simp [same]), ih]
    · rw [if_neg same, List.filter_cons_of_pos (by simpa using same), List.filter_cons_of_pos (by simpa using same), ih]

/-- An entry that is freed is gone, whatever it was (R121). -/
theorem State.freeEntry_withEntry (s : State) (x : DirEntry) : (s.withEntry x).freeEntry x.id = s.withoutEntry x.id := by
  simp only [State.freeEntry, State.withEntry, State.withoutEntry, State.setBuffer, State.setDecoder, filter_map_replace]

theorem State.freeEntry_eq {s : State} {y : DirEntry} (h : s.HasEntry y) : s.freeEntry y.id = s.withoutEntry y.id := by
  have freed := s.freeEntry_withEntry y
  rwa [State.withEntry_self h] at freed

/-- A frame without users and unsettled chunks is freed when it is FAILED or stale (R118, R120, R122). -/
theorem State.freeIfDone_withEntry {s : State} {x y : DirEntry} (h : s.HasEntry y) (id : x.id = y.id) (idle : x.users = 0)
    (ended : x.state = .failed ∨ x.stale = true) :
    (s.withEntry x).freeIfDone y.id = if x.unsettled = 0 then s.withoutEntry y.id else s.withEntry x := by
  have done : x.done = true ↔ x.unsettled = 0 := by
    rcases ended with failed | stale
    · simp [DirEntry.done, idle, failed]
    · simp [DirEntry.done, idle, stale]
  unfold State.freeIfDone
  rw [h.withEntry_dirEntry id]
  dsimp only
  rw [← id, State.freeEntry_withEntry]
  split
  · next ended => rw [if_pos (done.1 ended)]
  · next going => rw [if_neg fun settled => going (done.2 settled)]

theorem State.settleStale_withEntry {s : State} {x y : DirEntry} (h : s.HasEntry y) (id : x.id = y.id) (idle : x.users = 0)
    (stale : x.stale = true) (none_ : s.NoneQueued y.id) :
    (s.withEntry x).settleStale y.id = if x.unsettled = 0 then s.withoutEntry y.id else s.withEntry x := by
  unfold State.settleStale
  rw [State.withdrawQueued_none (s := s.withEntry x) none_]
  exact State.freeIfDone_withEntry h id idle (.inr stale)

/-! ### A user's reference is released (R107, R120) -/

theorem State.release_eq {s : State} {y : DirEntry} (h : s.HasEntry y) :
    s.release y.id =
      if y.users - 1 = 0 then (s.withEntry { y with users := y.users - 1 }).idle { y with users := y.users - 1 }
      else s.withEntry { y with users := y.users - 1 } := by
  unfold State.release
  rw [h.dirEntry]
  rfl

theorem State.putDeadline_eq {s : State} {y : DirEntry} (d : Deadline) (produced : y.decoding ≠ .awaiting) :
    s.putDeadline y d = (s.withEntry { y with deadline := d }).withChunks y.id fun c => { c with deadline := d } :=
  if_neg produced

theorem State.idle_stale {s : State} {x : DirEntry} (stale : x.stale = true) : s.idle x = s.settleStale x.id := if_pos stale

theorem State.idle_ready {s : State} {x : DirEntry} (fresh : x.stale = false) (ready : x.state = .ready) :
    s.idle x = s.joinReclaim x.id := by
  unfold State.idle
  rw [fresh, ready]
  rfl

theorem State.idle_failed {s : State} {x : DirEntry} (fresh : x.stale = false) (failed : x.state = .failed) :
    s.idle x = s.freeIfDone x.id := by
  unfold State.idle
  rw [fresh, failed]
  rfl

/-- A FILLING frame without users goes on at the deadline "none" and class SCRUB (R120). -/
theorem State.idle_filling {s : State} {x y : DirEntry} (found : s.dirEntry x.id = some y) (fresh : x.stale = false)
    (filling : x.state = .filling) (produced : x.decoding ≠ .awaiting)
    (alone : ∀ z ∈ s.buffer.waiters, z.isFrame x.id = false) :
    (s.withEntry x).idle x =
      (s.withEntry { x with deadline := none, cls := .scrub }).withChunks x.id fun c =>
        { c with deadline := none, cls := .scrub } := by
  have kept : ((s.withEntry { x with deadline := none }).withChunks x.id fun c => { c with deadline := none }).dirEntry x.id =
      some { x with deadline := none } := State.dirEntry_setDir_self (x := { x with deadline := none }) found rfl
  have waiters : s.buffer.waiters.map (fun w => if w.isFrame x.id then w.withCls .scrub else w) = s.buffer.waiters := by
    refine (List.map_congr_left fun w mem => ?_).trans (List.map_id _)
    rw [alone w mem]
    rfl
  have chunks : (s.dispatcher.chunks.map fun c => if c.frame = x.id then { c with deadline := none } else c).map
      (fun c => if c.frame = x.id then { c with cls := .scrub } else c) =
      s.dispatcher.chunks.map fun c => if c.frame = x.id then { c with deadline := none, cls := .scrub } else c := by
    rw [List.map_map]
    refine List.map_congr_left fun c _ => ?_
    dsimp only [Function.comp]
    by_cases same : c.frame = x.id
    · simp [same]
    · simp [same]
  have dir := map_replace_replace s.buffer.dir (x := { x with deadline := none })
    (z := { x with deadline := none, cls := .scrub }) rfl
  conv_lhs => unfold State.idle; rw [fresh, filling]
  dsimp only
  rw [if_neg Bool.false_ne_true, State.putDeadline_eq none produced, State.withEntry_withEntry s (x := x) (z := { x with deadline := none }) rfl, kept]
  simp only [State.putCls, State.setDir, State.changeChunks, State.setChunks, State.setBuffer, State.setDispatcher, State.withEntry,
    State.withChunks, waiters, chunks, dir]

/-- An issue opportunity is given to no member when no chunk of the frame is QUEUED (R130). -/
theorem State.touched_none {s : State} {d : Nat} (none_ : s.NoneQueued d) : s.touched d = s := by
  have queued : s.queuedOf d = [] := List.filter_eq_nil_iff.2 fun c mem => by
    simpa using none_ c mem
  unfold State.touched
  induction allMembers with
  | nil => rfl
  | cons m l ih =>
    rw [List.foldl_cons, queued]
    exact ih

/-- A user's earlier deadline lowers that of the entry and of its chunks (R108). -/
theorem State.reportDeadline_earlier {s : State} {y : DirEntry} {d : Deadline} (h : s.HasEntry y)
    (lower : earlier d y.deadline = true) (produced : y.decoding ≠ .awaiting) (none_ : s.NoneQueued y.id) :
    s.reportDeadline y.id d = (s.withEntry { y with deadline := d }).withChunks y.id fun c => { c with deadline := d } := by
  unfold State.reportDeadline
  rw [h.dirEntry]
  dsimp only
  rw [if_pos lower, State.putDeadline_eq d produced]
  refine State.touched_none fun c mem frame => ?_
  obtain ⟨z, old, rfl⟩ := List.mem_map.1 mem
  have frame' : z.frame = y.id := by
    split at frame
    · assumption
    · exact frame
  split
  · exact none_ z old frame'
  · exact none_ z old frame'

/-- An entry that has been marked stale, off the reclaim list (R122). -/
def State.markedStale (s : State) (y : DirEntry) : State :=
  { s.withEntry { y with stale := true } with
    buffer := { (s.withEntry { y with stale := true }).buffer with reclaim := s.buffer.reclaim.filter fun d => d != y.id } }

theorem State.freeEntry_markedStale (s : State) (y : DirEntry) : (s.markedStale y).freeEntry y.id = s.withoutEntry y.id := by
  have gone := filter_map_replace s.buffer.dir { y with stale := true }
  simp only [State.freeEntry, State.markedStale, State.withEntry, State.withoutEntry, State.setBuffer, State.setDecoder,
    List.filter_filter, Bool.and_self, gone]

theorem State.markStale_eq {s : State} {y : DirEntry} (h : s.HasEntry y) (none_ : s.NoneQueued y.id) :
    s.markStale y.id = if y.users = 0 ∧ y.unsettled = 0 then s.withoutEntry y.id else s.markedStale y := by
  have marks : s.markStale y.id = if y.users = 0 then (s.markedStale y).settleStale y.id else s.markedStale y := by
    unfold State.markStale
    rw [h.dirEntry]
    rfl
  have found : (s.markedStale y).dirEntry y.id = some { y with stale := true } :=
    h.withEntry_dirEntry (x := { y with stale := true }) rfl
  rw [marks]
  by_cases idle : y.users = 0
  · have same : (s.markedStale y).withdrawQueued y.id = s.markedStale y := State.withdrawQueued_none none_
    have done : ({ y with stale := true } : DirEntry).done = true ↔ y.unsettled = 0 := by simp [DirEntry.done, idle]
    rw [if_pos idle, State.settleStale, same, State.freeIfDone, found]
    dsimp only
    rw [State.freeEntry_markedStale]
    by_cases settled : y.unsettled = 0
    · rw [if_pos (done.2 settled), if_pos ⟨idle, settled⟩]
    · rw [if_neg fun h => settled (done.1 h), if_neg fun h => settled h.2]
  · rw [if_neg idle, if_neg fun h => idle h.1]

/-- A frame without users that is whole (R112, R118). -/
theorem State.frameReady_idle {s : State} {y : DirEntry} (idle : y.users = 0) (fresh : y.stale = false) :
    s.frameReady y =
      { s.withEntry { y with state := .ready } with
        buffer :=
          { (s.withEntry { y with state := .ready }).buffer with reclaim := s.buffer.reclaim ++ [y.id], passWanted := true }
        streams := s.reportedTo y.id .ready } := by
  unfold State.frameReady
  rw [if_neg (by simp [fresh])]
  dsimp only
  rw [if_pos idle, State.report_eq]
  rfl

/-- Settles O59. -/
theorem queuesAreOrdered : Obligations.QueuesAreOrdered := by
  unfold Obligations.QueuesAreOrdered
  refine ⟨fun l => ⟨firstInQueue_none l, fun c first => ?_⟩, fun w l sorted =>
    ⟨insertWaiter_sorted sorted, insertWaiter_split sorted⟩, fun y s has => ?_⟩
  · obtain ⟨mem, least⟩ := firstInQueue_first first
    refine ⟨mem, fun z k => ?_⟩
    have later := least z k
    rwa [Chunk.before_iff, rank_inj, ← earlier_iff] at later
  dsimp only
  have released := State.release_eq has
  refine ⟨fun two => ?_, fun one fresh => ⟨fun ready => ?_, fun failed => ?_, fun filling produced alone => ?_⟩,
    fun none_ => ⟨fun one stale => ?_, State.markStale_eq has none_, fun d => ⟨fun later => ?_, fun lower produced => ?_⟩⟩,
    fun idle => ⟨fun stale => ?_, State.frameReady_idle idle⟩⟩
  · rw [released, if_neg (by omega)]
  · rw [released, if_pos (by omega), State.idle_ready (x := { y with users := y.users - 1 }) fresh ready]
    rfl
  · rw [released, if_pos (by omega), State.idle_failed (x := { y with users := y.users - 1 }) fresh failed]
    exact State.freeIfDone_withEntry (x := { y with users := y.users - 1 }) (y := y) has rfl (by dsimp only; omega) (.inl failed)
  · rw [released, if_pos (by omega)]
    exact State.idle_filling (x := { y with users := y.users - 1 }) has.dirEntry fresh filling produced alone
  · rw [released, if_pos (by omega), State.idle_stale (x := { y with users := y.users - 1 }) stale]
    exact State.settleStale_withEntry (x := { y with users := y.users - 1 }) (y := y) has rfl (by dsimp only; omega) stale none_
  · unfold State.reportDeadline
    rw [has.dirEntry]
    exact if_neg (by rw [later]; exact Bool.false_ne_true)
  · exact State.reportDeadline_earlier has lower produced none_
  · unfold State.frameReady
    rw [if_pos (by simp [stale, idle])]
    exact State.freeEntry_eq has

end Sys2Proof.Machine
end

section
/-! SUPPORT. A RETIRING entry completes (R33), and the hold is planned again (R34). -/

namespace Sys2Proof.Machine

/-! ### The holder of a frame (R34) -/

/-- A block lies in the current or pending range of a RETIRING entry (R25). -/
def LayoutEntry.Retires (x : LayoutEntry) (a : Nat) : Prop :=
  ∃ d p, x.state = .retiring d p ∧
    (d.first ≤ a ∧ a ≤ d.last ∨ ∃ d', p.op = .define d' ∧ d'.first ≤ a ∧ a ≤ d'.last)

theorem LayoutEntry.retiringCovers_iff (x : LayoutEntry) (a : Nat) : x.retiringCovers a = true ↔ x.Retires a := by
  unfold LayoutEntry.retiringCovers LayoutEntry.Retires
  cases x.state with
  | empty => simp
  | active d => simp
  | retiring d p =>
    cases op : p.op with
    | define d' => simp [LayoutDef.covers, op]
    | delete => simp [LayoutDef.covers, op]

theorem Decoder.holder_first {dec : Decoder} {key : FrameKey} {e : Fin 16} (h : dec.holder key = some e) :
    ∃ i, i < dec.clips[key.clip].blocks ∧
      dec.layout[e].Retires (dec.clips[key.clip].first + dec.clips[key.clip].head + key.frame * dec.clips[key.clip].blocks + i) ∧
      ∀ (j : Nat) (k : Fin 16), j < i → ¬ dec.layout[k].Retires
        (dec.clips[key.clip].first + dec.clips[key.clip].head + key.frame * dec.clips[key.clip].blocks + j) := by
  obtain ⟨before, i, after, range, found, none_⟩ := List.findSome?_eq_some_iff.1 h
  have long : before.length < dec.clips[key.clip].blocks := by
    have length := congrArg List.length range
    simp only [List.length_range, List.length_append, List.length_cons] at length
    omega
  have place : i = before.length := by
    have at_ : (List.range dec.clips[key.clip].blocks)[before.length]? = (before ++ i :: after)[before.length]? :=
      congrArg (fun l => l[before.length]?) range
    rw [List.getElem?_range long, List.getElem?_append_right (Nat.le_refl _), Nat.sub_self] at at_
    exact (Option.some.inj at_).symm
  subst place
  have covers := List.find?_some found
  refine ⟨before.length, long, (LayoutEntry.retiringCovers_iff _ _).1 covers, fun j k small => ?_⟩
  have mem : j ∈ before := by
    have at_ := congrArg (fun l => l[j]?) range
    simp only [List.getElem?_range (small.trans long), List.getElem?_append_left small] at at_
    exact List.mem_of_getElem? at_.symm
  have clear := List.find?_eq_none.1 (none_ j mem) k (List.mem_finRange k)
  rw [LayoutEntry.retiringCovers_iff] at clear
  exact clear

/-! ### What planning one frame leaves of the others (R34, R116) -/

/-- An operation on directory entry `d`: the other entries stay as they are, and so does the hold where `d` is not in it. -/
structure OnlyEntry (d : Nat) (s t : State) : Prop where
  entries : ∀ i, i ≠ d → t.dirEntry i = s.dirEntry i
  hold : d ∉ s.decoder.hold → t.decoder.hold = s.decoder.hold

namespace OnlyEntry

theorem refl (d : Nat) (s : State) : OnlyEntry d s s := ⟨fun _ _ => rfl, fun _ => rfl⟩

theorem trans {d : Nat} {a b c : State} (h : OnlyEntry d a b) (k : OnlyEntry d b c) : OnlyEntry d a c :=
  ⟨fun i ne => (k.entries i ne).trans (h.entries i ne),
    fun out => (k.hold (by rw [h.hold out]; exact out)).trans (h.hold out)⟩

/-- An operation that leaves the directory and the hold. -/
theorem keep {d : Nat} {s t : State} (dir : t.buffer.dir = s.buffer.dir) (hold : t.decoder.hold = s.decoder.hold) :
    OnlyEntry d s t := ⟨fun i _ => by rw [State.dirEntry, State.dirEntry, dir], fun _ => hold⟩

theorem setDir {d : Nat} (s : State) {x : DirEntry} (id : x.id = d) : OnlyEntry d s (s.setDir x) :=
  ⟨fun i ne => by rw [State.dirEntry_setDir, if_neg (id ▸ ne)], fun _ => rfl⟩

theorem freeEntry (d : Nat) (s : State) : OnlyEntry d s (s.freeEntry d) := by
  refine ⟨fun i ne => ?_, fun out => ?_⟩
  · change (s.buffer.dir.filter fun e => e.id != d).find? (fun e => e.id == i) = s.buffer.dir.find? fun e => e.id == i
    rw [List.find?_filter]
    congr 1
    funext e
    by_cases same : e.id = i
    · simp [same, ne]
    · simp [same]
  · exact List.filter_eq_self.2 fun i mem => by
      have ne : i ≠ d := fun same => out (same ▸ mem)
      simpa using ne

theorem freeIfDone (d : Nat) (s : State) : OnlyEntry d s (s.freeIfDone d) := by
  unfold State.freeIfDone
  split
  · exact refl d s
  · split
    · exact freeEntry d s
    · exact refl d s

theorem countDown (d : Nat) (s : State) : OnlyEntry d s (s.countDown d) := by
  unfold State.countDown
  split
  · exact refl d s
  · next e found => exact setDir s (State.dirEntry_mem found).2

theorem settleWithdrawn {d : Nat} (s : State) {c : Chunk} (frame : c.frame = d) : OnlyEntry d s (s.settleWithdrawn c) := by
  subst frame
  exact ((keep rfl rfl : OnlyEntry c.frame s (s.dropChunk c)).trans (countDown _ _)).trans (freeIfDone _ _)

theorem withdrawQueued (d : Nat) (s : State) : OnlyEntry d s (s.withdrawQueued d) := by
  have frames : ∀ c ∈ s.queuedOf d, c.frame = d := fun c mem => by
    have kept := (List.mem_filter.1 mem).2
    rw [Bool.and_eq_true, beq_iff_eq] at kept
    exact kept.1
  unfold State.withdrawQueued
  generalize s.queuedOf d = l at frames
  induction l generalizing s with
  | nil => exact refl d s
  | cons c l ih =>
    exact (settleWithdrawn s (frames c List.mem_cons_self)).trans (ih _ fun x mem => frames x (List.mem_cons_of_mem c mem))

theorem failEntry (d : Nat) (s : State) (cause : Cause) (chunk : Option (MemberId × Nat)) :
    OnlyEntry d s (s.failEntry d cause chunk) := by
  unfold State.failEntry
  split
  · exact refl d s
  · next e found =>
    have fails := (setDir s (x := { e with state := .failed, cause := some cause }) (State.dirEntry_mem found).2).trans
      (withdrawQueued d _)
    dsimp only
    rw [State.report_eq]
    generalize (s.setDir { e with state := .failed, cause := some cause }).withdrawQueued d = t at fails ⊢
    have reports : OnlyEntry d s ({ t with streams := t.reportedTo d .failed } : State) := fails.trans (keep rfl rfl)
    generalize ({ t with streams := t.reportedTo d .failed } : State) = u at reports ⊢
    refine OnlyEntry.trans ?_ (freeIfDone d _)
    split
    · exact reports
    · exact reports.trans (keep (by simp) (by simp))

end OnlyEntry

/-- What becomes of a frame whose plan is not HELD concerns its own entry only (R116). -/
theorem OnlyEntry.released {d : Nat} (s : State) {p : Plan} (other : p ≠ .held) : OnlyEntry d s (s.released d p) := by
  unfold State.released
  split
  · exact .refl d s
  · next e found =>
    cases p with
    | held => exact absurd rfl other
    | mapped ps =>
      exact (OnlyEntry.setDir s (x := { e with decoding := .awaiting }) (State.dirEntry_mem found).2).trans (.keep rfl rfl)
    | unmapped => exact .failEntry d s _ _
    | notCurrent =>
      dsimp only
      split
      · exact .freeEntry d s
      · exact .failEntry d s _ _

/-- A frame that another entry holds at once rejoins the hold at the tail (R34). -/
theorem State.released_held {s : State} {d : Nat} {y : DirEntry} (found : s.dirEntry d = some y) :
    (∀ i, i ≠ d → (s.released d .held).dirEntry i = s.dirEntry i) ∧
      (s.released d .held).decoder.hold = s.decoder.hold ++ [d] := by
  unfold State.released
  rw [found]
  exact ⟨(OnlyEntry.setDir s (x := { y with decoding := .held }) (State.dirEntry_mem found).2).entries, rfl⟩

/-! ### The plan of a frame (R25) -/

/-- The plan of a frame is read off the clips and the states of the layout entries. -/
theorem Decoder.plan_congr {a b : Decoder} (clips : b.clips = a.clips) (layouts : ∀ e : Fin 16, b.layout[e].state = a.layout[e].state)
    (key : FrameKey) : b.plan key = a.plan key := by
  have retiring (x : Nat) : b.retiringAt x = a.retiringAt x := by
    simp only [Decoder.retiringAt, LayoutEntry.retiringCovers, layouts]
  have active (x : Nat) : b.activeAt x = a.activeAt x := by
    simp only [Decoder.activeAt, LayoutEntry.activeCover, layouts]
  have walks (fuel x left done : Nat) : walk b fuel x left done = walk a fuel x left done := by
    induction fuel generalizing x left done with
    | zero => cases left <;> rfl
    | succ fuel ih =>
      cases left with
      | zero => rfl
      | succ left =>
        unfold walk
        simp only [retiring, active, ih]
  simp only [Decoder.plan, clips, walks]

/-! ### The hold planned again (R34) -/

/-- The hold while it is planned again: the frames that keep their place, those still to come, and those that have rejoined
at the tail. `stays` and `rejoins` say what becomes of a frame. -/
structure State.Replanning (s t : State) (stays rejoins : Nat → Bool) (done rest : List Nat) : Prop where
  calm : Calm (fun _ => False) s t
  hold : t.decoder.hold = done.filter stays ++ rest ++ done.filter rejoins
  entries : ∀ i ∈ rest, t.dirEntry i = s.dirEntry i

/-- The hold without a frame. -/
def State.unheld (s : State) (d : Nat) : State :=
  s.setDecoder { s.decoder with hold := s.decoder.hold.filter fun i => i != d }

theorem State.replanOne_held {t : State} {gone : FrameKey → Bool} {d : Nat} {y : DirEntry}
    (contains : t.decoder.hold.contains d = true) (found : t.dirEntry d = some y) :
    t.replanOne gone d =
      if t.decoder.plan y.key = .held ∧ gone y.key = false then t else (t.unheld d).released d (t.decoder.plan y.key) := by
  unfold State.replanOne
  rw [if_pos contains, found]
  rfl

theorem filter_off_middle {d : Nat} {l rest r : List Nat} (h : d ∉ l) (k : d ∉ rest) (j : d ∉ r) :
    (l ++ d :: rest ++ r).filter (fun i => i != d) = l ++ rest ++ r := by
  have keeps (x : List Nat) (out : d ∉ x) : x.filter (fun i => i != d) = x := List.filter_eq_self.2 fun i mem => by
    have ne : i ≠ d := fun same => out (same ▸ mem)
    simpa using ne
  rw [List.filter_append, List.filter_append, List.filter_cons_of_neg (by simp), keeps l h, keeps rest k, keeps r j]

/-- One held frame is planned (R34). -/
theorem State.Replanning.next {s t : State} {gone : FrameKey → Bool} {stays rejoins : Nat → Bool} {done rest : List Nat}
    {d : Nat} {y : DirEntry} (h : s.Replanning t stays rejoins done (d :: rest)) (nodup : (done ++ d :: rest).Nodup)
    (found : s.dirEntry d = some y)
    (staysIff : stays d = (s.decoder.plan y.key == .held && !gone y.key))
    (rejoinsIff : rejoins d = (s.decoder.plan y.key == .held && gone y.key)) :
    s.Replanning (t.replanOne gone d) stays rejoins (done ++ [d]) rest := by
  obtain ⟨calm, hold, entries⟩ := h
  have found' : t.dirEntry d = some y := (entries d List.mem_cons_self).trans found
  have plan : t.decoder.plan y.key = s.decoder.plan y.key := Decoder.plan_congr calm.clips calm.layouts y.key
  have contains : t.decoder.hold.contains d = true := by
    rw [hold]
    simp
  have fresh : d ∉ done ∧ d ∉ rest := by
    rw [List.nodup_append] at nodup
    exact ⟨fun mem => nodup.2.2 d mem d List.mem_cons_self rfl, (List.nodup_cons.1 nodup.2.1).1⟩
  have ne (i : Nat) (mem : i ∈ rest) : i ≠ d := fun same => fresh.2 (same ▸ mem)
  have out (p : Nat → Bool) : d ∉ done.filter p := fun mem => fresh.1 (List.mem_filter.1 mem).1
  have left : (t.unheld d).decoder.hold = done.filter stays ++ rest ++ done.filter rejoins := by
    rw [← filter_off_middle (out stays) fresh.2 (out rejoins), ← hold]
    rfl
  have step := Calm.replanOne (A := fun _ => False) gone t d
  have snoc (p : Nat → Bool) : (done ++ [d]).filter p = done.filter p ++ if p d then [d] else [] := by
    rw [List.filter_append, List.filter_cons, List.filter_nil]
  suffices now : (t.replanOne gone d).decoder.hold = (done ++ [d]).filter stays ++ rest ++ (done ++ [d]).filter rejoins ∧
      ∀ i ∈ rest, (t.replanOne gone d).dirEntry i = t.dirEntry i from
    ⟨calm.trans step, now.1, fun i mem => (now.2 i mem).trans (entries i (List.mem_cons_of_mem d mem))⟩
  rw [State.replanOne_held contains found', plan, snoc, snoc, staysIff, rejoinsIff]
  by_cases held : s.decoder.plan y.key = .held
  · cases went : gone y.key with
    | false =>
      rw [if_pos ⟨held, rfl⟩, hold, held]
      exact ⟨by simp, fun _ _ => rfl⟩
    | true =>
      rw [if_neg (by simp), held]
      obtain ⟨others, tail⟩ := State.released_held (s := t.unheld d) (d := d) (y := y) found'
      refine ⟨?_, fun i mem => others i (ne i mem)⟩
      rw [tail, left]
      simp
  · rw [if_neg fun both => held both.1]
    have no : (s.decoder.plan y.key == Plan.held) = false := by simpa using held
    have only := OnlyEntry.released (t.unheld d) (d := d) held
    refine ⟨?_, fun i mem => only.entries i (ne i mem)⟩
    rw [only.hold ?_, left, no]
    · simp
    · rw [left]
      simp [out, fresh.2]

theorem State.Replanning.fold {s : State} {gone : FrameKey → Bool} {stays rejoins : Nat → Bool} (rest : List Nat) {t : State}
    {done : List Nat} (h : s.Replanning t stays rejoins done rest) (nodup : (done ++ rest).Nodup)
    (known : ∀ d ∈ rest, ∃ y, s.dirEntry d = some y ∧ stays d = (s.decoder.plan y.key == .held && !gone y.key) ∧
      rejoins d = (s.decoder.plan y.key == .held && gone y.key)) :
    s.Replanning (rest.foldl (State.replanOne gone) t) stays rejoins (done ++ rest) [] := by
  induction rest generalizing t done with
  | nil =>
    rw [List.append_nil]
    exact h
  | cons d rest ih =>
    obtain ⟨y, found, staysIff, rejoinsIff⟩ := known d List.mem_cons_self
    have next := h.next nodup found staysIff rejoinsIff
    rw [List.append_cons] at nodup ⊢
    exact ih next nodup fun i mem => known i (List.mem_cons_of_mem d mem)

theorem State.replanHold_hold {s : State} {gone : FrameKey → Bool} {stays rejoins : Nat → Bool} (nodup : s.decoder.hold.Nodup)
    (known : ∀ d ∈ s.decoder.hold, ∃ y, s.dirEntry d = some y ∧ stays d = (s.decoder.plan y.key == .held && !gone y.key) ∧
      rejoins d = (s.decoder.plan y.key == .held && gone y.key)) :
    (s.replanHold gone).decoder.hold = s.decoder.hold.filter stays ++ s.decoder.hold.filter rejoins := by
  have start : s.Replanning s stays rejoins [] s.decoder.hold := ⟨.refl s, by simp, fun _ _ => rfl⟩
  have ended := (start.fold s.decoder.hold (by simpa using nodup) known).hold
  rw [List.nil_append, List.append_nil] at ended
  exact ended

theorem State.completeLayout_retiring {s : State} {e : Fin 16} {d : LayoutDef} {p : Pending}
    (awake : s.region.engine ≠ .halted) (retiring : s.decoder.layout[e].state = .retiring d p)
    (idle : s.decoder.layout[e].inFlight = 0) : s.completeLayout e = (s.layoutTakesEffect e p.ref p.op).wakeAll := by
  unfold State.completeLayout
  rw [if_neg (by simp [State.halted, awake]), retiring]
  exact if_pos idle

/-- A held frame is planned HELD by the decoder. -/
def State.planHeld (s : State) (dec : Decoder) (i : Nat) : Bool :=
  match s.dirEntry i with | some y => dec.plan y.key == .held | none => false

/-- A held frame was held by an entry. -/
def State.heldBy (s : State) (e : Fin 16) (i : Nat) : Bool :=
  match s.dirEntry i with | some y => s.decoder.holder y.key == some e | none => false

/-- The hold once a definition or deletion has taken effect (R34). -/
theorem State.layoutTakesEffect_hold {s : State} {e : Fin 16} (ref : Word) (op : PendingOp) (nodup : s.decoder.hold.Nodup)
    (known : ∀ i ∈ s.decoder.hold, ∃ y, s.HasEntry y ∧ y.id = i) :
    (s.layoutTakesEffect e ref op).decoder.hold =
      (s.decoder.hold.filter fun i => s.planHeld (s.setLayout e ⟨op.outcome, 0⟩).decoder i && !s.heldBy e i) ++
        s.decoder.hold.filter fun i => s.planHeld (s.setLayout e ⟨op.outcome, 0⟩).decoder i && s.heldBy e i := by
  have entries (i : Nat) :
      (((s.setLayout e ⟨op.outcome, 0⟩).raise (.layc ref e .ok op.isDelete)).callPass).dirEntry i = s.dirEntry i := by
    simp [State.callPass, State.setBuffer, State.dirEntry, State.setLayout, State.setDecoder]
  have decoder : (((s.setLayout e ⟨op.outcome, 0⟩).raise (.layc ref e .ok op.isDelete)).callPass).decoder =
      (s.setLayout e ⟨op.outcome, 0⟩).decoder := by
    simp [State.callPass, State.setBuffer]
  have hold : (s.setLayout e ⟨op.outcome, 0⟩).decoder.hold = s.decoder.hold := rfl
  unfold State.layoutTakesEffect
  rw [State.replanHold_hold
    (stays := fun i => s.planHeld (s.setLayout e ⟨op.outcome, 0⟩).decoder i && !s.heldBy e i)
    (rejoins := fun i => s.planHeld (s.setLayout e ⟨op.outcome, 0⟩).decoder i && s.heldBy e i)
    (by rw [decoder]; exact nodup) (fun i mem => ?_), decoder, hold]
  rw [decoder, hold] at mem
  obtain ⟨y, has, rfl⟩ := known i mem
  refine ⟨y, (entries y.id).trans has.dirEntry, ?_, ?_⟩
  · simp only [decoder, State.planHeld, State.heldBy, has.dirEntry]
  · simp only [decoder, State.planHeld, State.heldBy, has.dirEntry]

/-- Settles O23. -/
theorem retiringEntryCompletes : Obligations.RetiringEntryCompletes := by
  unfold Obligations.RetiringEntryCompletes
  refine ⟨fun dec key e holds => Decoder.holder_first holds, fun e d p s awake retiring idle nodup known => ?_,
    fun e s awake => ⟨fun d p retiring idle => ?_, fun other => congrArg Host.Outcome.next ?_⟩⟩
  · dsimp only
    refine ⟨s.layoutTakesEffect e p.ref p.op,
      congrArg Host.Outcome.next (State.completeLayout_retiring awake retiring idle), ?_⟩
    refine (State.layoutTakesEffect_hold p.ref p.op nodup known).trans ?_
    rw [PendingOp.outcome_eq]
    rfl
  · refine ⟨_, congrArg Host.Outcome.next (State.completeLayout_retiring awake retiring idle), ?_⟩
    have calm := (Calm.layoutTakesEffect s e p.ref p.op).thenWake
    rw [PendingOp.outcome_eq] at calm
    exact calm.mono fun n waits => by rwa [State.stream_congr (s := s) (by simp)] at waits
  · unfold State.completeLayout
    split
    · rfl
    · split
      · next d p retiring =>
        refine if_neg fun idle => ?_
        rcases other with inFlight | none_
        · exact inFlight idle
        · exact none_ d p retiring
      · rfl

end Sys2Proof.Machine
end

section
/-! SUPPORT. The transmitter arbiter (R151, R152). -/

namespace Sys2Proof.Machine

/-! ### The arbiter's choice (R152) -/

theorem State.sendable_iff (s : State) (p : Port) (n : StreamId) (x : Presentation) :
    s.sendable p n = some x ↔ s.Sendable p n x := by
  unfold State.sendable State.Sendable
  have reached (y : Presentation) : s.reached y.eligibleFrom = true ↔
      (y.start + BitVec.ofNat 64 ((y.fragment * 8192 * 1000 + y.egress - 1) / y.egress)).toNat ≤ s.et.toNat := by
    rw [State.reached, BitVec.ule, decide_eq_true_eq]
    rfl
  cases s.presentation n with
  | none => simp
  | some y =>
    constructor
    · intro h
      obtain ⟨⟨port, todo, due⟩, same⟩ := Option.ite_none_right_eq_some.1 h
      cases same
      exact ⟨rfl, port, todo, (reached x).1 due⟩
    · rintro ⟨same, port, todo, due⟩
      cases same
      exact if_pos ⟨port, todo, (reached x).2 due⟩

/-- The arbiter's choice among the streams seen so far (R152). -/
def State.BestOf (s : State) (p : Port) (seen : StreamId → Prop) : Option (StreamId × Presentation) → Prop
  | none => ∀ k x, seen k → ¬ s.Sendable p k x
  | some b =>
    seen b.1 ∧ s.Sendable p b.1 b.2 ∧
      ∀ j z, seen j → s.Sendable p j z → j ≠ b.1 →
        b.2.deliver.toNat < z.deliver.toNat ∨ b.2.deliver = z.deliver ∧ b.1 < j

/-- The better of the arbiter's choice so far and a further stream (R152). -/
def State.better (s : State) (p : Port) (best : Option (StreamId × Presentation)) (n : StreamId) :
    Option (StreamId × Presentation) :=
  match s.sendable p n with
  | none => best
  | some x =>
    match best with
    | none => some (n, x)
    | some b => if x.deliver.ult b.2.deliver then some (n, x) else some b

theorem State.Sendable.unique {s : State} {p : Port} {n : StreamId} {x y : Presentation} (h : s.Sendable p n x)
    (k : s.Sendable p n y) : x = y := Option.some.inj (h.1.symm.trans k.1)

theorem State.BestOf.next {s : State} {p : Port} {seen : StreamId → Prop} {best : Option (StreamId × Presentation)} {n : StreamId}
    (h : s.BestOf p seen best) (above : ∀ k, seen k → k < n) : s.BestOf p (fun k => seen k ∨ k = n) (s.better p best n) := by
  unfold State.better
  cases sendable : s.sendable p n with
  | none =>
    have not_ (x : Presentation) : ¬ s.Sendable p n x := fun able => by
      rw [(s.sendable_iff p n x).2 able] at sendable
      cases sendable
    cases best with
    | none =>
      rintro k x (old | rfl)
      · exact h k x old
      · exact not_ x
    | some b =>
      obtain ⟨seen_, able, least⟩ := h
      refine ⟨.inl seen_, able, ?_⟩
      rintro j z (old | rfl) ok ne
      · exact least j z old ok ne
      · exact absurd ok (not_ z)
  | some x =>
    have able := (s.sendable_iff p n x).1 sendable
    cases best with
    | none =>
      refine ⟨.inr rfl, able, ?_⟩
      rintro j z (old | rfl) ok ne
      · exact absurd ok (h j z old)
      · exact absurd rfl ne
    | some b =>
      obtain ⟨seen_, ableB, least⟩ := h
      dsimp only
      split
      · next earlier_ =>
        have sooner : x.deliver.toNat < b.2.deliver.toNat := by simpa [BitVec.ult] using earlier_
        refine ⟨.inr rfl, able, ?_⟩
        rintro j z (old | rfl) ok ne
        · refine .inl ?_
          by_cases same : j = b.1
          · subst same
            rw [ok.unique ableB]
            exact sooner
          · rcases least j z old ok same with before | ⟨tie, -⟩
            · exact sooner.trans before
            · exact tie ▸ sooner
        · exact absurd rfl ne
      · next later_ =>
        have notSooner : b.2.deliver.toNat ≤ x.deliver.toNat := by simpa [BitVec.ult] using later_
        refine ⟨.inl seen_, ableB, ?_⟩
        rintro j z (old | rfl) ok ne
        · exact least j z old ok ne
        · rw [ok.unique able]
          rcases Nat.lt_or_eq_of_le notSooner with before | tie
          · exact .inl before
          · exact .inr ⟨BitVec.eq_of_toNat_eq tie, above b.1 seen_⟩

theorem State.BestOf.fold {s : State} {p : Port} (l : List StreamId) {seen : StreamId → Prop}
    {best : Option (StreamId × Presentation)} (h : s.BestOf p seen best) (sorted : l.Pairwise (· < ·))
    (above : ∀ k, seen k → ∀ n ∈ l, k < n) :
    s.BestOf p (fun k => seen k ∨ k ∈ l) (l.foldl (s.better p) best) := by
  induction l generalizing seen best with
  | nil => simpa using h
  | cons n l ih =>
    obtain ⟨first, rest⟩ := List.pairwise_cons.1 sorted
    have next := ih (h.next fun k old => above k old n List.mem_cons_self) rest (by
      rintro k (old | rfl) j mem
      · exact above k old j (List.mem_cons_of_mem n mem)
      · exact first j mem)
    simpa [or_assoc] using next

theorem State.chosenStream_best (s : State) (p : Port) : s.BestOf p (fun _ => True) (s.chosenStream p) := by
  have start : s.BestOf p (fun _ => False) none := fun _ _ no => absurd no id
  have ended := start.fold allStreams (List.pairwise_lt_finRange 64) (fun _ no => absurd no id)
  have all : (fun k : StreamId => False ∨ k ∈ allStreams) = fun _ => True := by
    funext k
    simp [allStreams]
  rw [all] at ended
  exact ended

theorem State.chosenStream_none {s : State} {p : Port} (h : ∀ n x, ¬ s.Sendable p n x) : s.chosenStream p = none := by
  have best := s.chosenStream_best p
  cases chosen : s.chosenStream p with
  | none => rfl
  | some b =>
    rw [chosen] at best
    exact absurd best.2.1 (h b.1 b.2)

theorem State.Chosen.chosenStream {s : State} {p : Port} {n : StreamId} {x : Presentation} (h : s.Chosen p n x) :
    s.chosenStream p = some (n, x) := by
  obtain ⟨able, first⟩ := h
  have best := s.chosenStream_best p
  cases chosen : s.chosenStream p with
  | none =>
    rw [chosen] at best
    exact absurd able (best n x trivial)
  | some b =>
    rw [chosen] at best
    obtain ⟨-, ableB, least⟩ := best
    have same : b.1 = n := by
      by_contra ne
      rcases first b.1 b.2 ableB ne with before | ⟨tie, low⟩
      · rcases least n x trivial able (Ne.symm ne) with before' | ⟨tie', -⟩
        · omega
        · rw [tie'] at before
          omega
      · rcases least n x trivial able (Ne.symm ne) with before' | ⟨-, low'⟩
        · rw [tie] at before'
          omega
        · exact absurd (low.trans low') (lt_irrefl _)
    obtain ⟨k, y⟩ := b
    obtain rfl : k = n := same
    rw [able.unique ableB]

/-! ### A message begins (R151, R152) -/

theorem State.transmit_idle {s : State} {p : Port}
    (h : s.region.engine = .halted ∨ (s.port p).up = false ∨ (s.port p).transmitting ≠ none ∨ ∀ n x, ¬ s.Sendable p n x) :
    s.transmit p = s := by
  unfold State.transmit
  split
  · rfl
  · next free =>
    simp only [Bool.or_eq_true, Bool.not_eq_true', not_or, Bool.not_eq_false, Bool.not_eq_true, Option.isSome_eq_false_iff,
      Option.isNone_iff_eq_none] at free
    obtain ⟨⟨awake, up⟩, idle⟩ := free
    rcases h with halted | down | sending | none_
    · rw [State.halted_of halted] at awake
      cases awake
    · rw [down] at up
      cases up
    · exact absurd idle sending
    · rw [State.chosenStream_none none_]

theorem State.transmit_chosen {s : State} {p : Port} {n : StreamId} {x : Presentation} (awake : s.region.engine ≠ .halted)
    (up : (s.port p).up = true) (idle : (s.port p).transmitting = none) (chosen : s.Chosen p n x) :
    s.transmit p = s.sendNext p n x := by
  unfold State.transmit
  rw [if_neg (by simp [State.halted, awake, up, idle]), chosen.chosenStream]

theorem fragmentCount_eq (b : Nat) : fragmentCount b = (b + 8191) / 8192 := by
  unfold fragmentCount ceilDiv Config.fragmentBytes
  omega

theorem Presentation.rounds_eq (x : Presentation) :
    x.rounds = match x.sentAs with | .frame _ b _ => (b + 8191) / 8192 | _ => 1 := by
  unfold Presentation.rounds
  cases x.sentAs with
  | frame k b d => exact fragmentCount_eq b
  | repeated k => rfl
  | fill r => rfl

/-- With the last message of a fragment the messages of the next one are owed (R151). -/
theorem Presentation.settle_eq (x : Presentation) (rest : List Recipient) :
    ({ x with todo := rest } : Presentation).settle =
      if rest = [] ∧ x.fragment + 1 < x.rounds ∧ (x.recipients.filter fun g => !g.muted) ≠ [] then
        { x with fragment := x.fragment + 1, todo := x.recipients.filter fun g => !g.muted }
      else { x with todo := rest } := by
  unfold Presentation.settle
  have rounds : ({ x with todo := rest } : Presentation).rounds = x.rounds := rfl
  dsimp only
  rw [rounds]
  by_cases spent : rest = [] ∧ x.fragment + 1 < x.rounds
  · rw [if_pos spent]
    by_cases none_ : (x.recipients.filter fun g => !g.muted) = []
    · rw [if_pos none_, if_neg fun h => h.2.2 none_]
    · rw [if_neg none_, if_pos ⟨spent.1, spent.2, none_⟩]
  · rw [if_neg spent, if_neg fun h => spent ⟨h.1, h.2.1⟩]

/-- Settles O53. -/
theorem arbiterSendsTheEarliestMessage : Obligations.ArbiterSendsTheEarliestMessage := by
  unfold Obligations.ArbiterSendsTheEarliestMessage
  refine ⟨fun p s idle => congrArg Host.Outcome.next (State.transmit_idle idle), ?_⟩
  intro p n x r rest v s awake up idle chosen todo viewer
  dsimp only
  refine congrArg Host.Outcome.next ((State.transmit_chosen awake up idle chosen).trans ?_)
  unfold State.sendNext
  rw [todo]
  dsimp only
  rw [viewer, Presentation.settle_eq, Presentation.rounds_eq]
  have message : s.messageFor x r = match x.sentAs with
      | .frame _ b d =>
        if r.muted then ⟨r.viewer, none, true⟩
        else
          ⟨r.viewer, some (x.fragment * 8192,
            s.frameBytes d (x.fragment * 8192) (min ((x.fragment + 1) * 8192) b - x.fragment * 8192)),
            x.fragment + 1 == (b + 8191) / 8192⟩
      | _ => ⟨r.viewer, none, true⟩ := by
    unfold State.messageFor
    cases x.sentAs with
    | frame k b d =>
      dsimp only
      rw [fragmentCount_eq]
      rfl
    | repeated k => rfl
    | fill reason => rfl
  rw [message]
  cases x.sentAs <;> rfl

end Sys2Proof.Machine
end

section
/-! SUPPORT. Projection (R66, R70, R92, R93): what the entries of a run are, and how a window grows. -/

namespace Sys2Proof.Machine

/-! ### Streams that differ by the stages and references of their window entries -/

/-- A stream differs from another by the stages and directory references of its window entries only (R91, R94). -/
def Stream.Alike (x y : Stream) : Prop :=
  y = { x with window := y.window } ∧ y.window.map Entry.core = x.window.map Entry.core

theorem Stream.Alike.refl (x : Stream) : x.Alike x := ⟨rfl, rfl⟩

theorem Stream.Alike.trans {x y z : Stream} (h : x.Alike y) (k : y.Alike z) : x.Alike z := by
  refine ⟨?_, k.2.trans h.2⟩
  rw [k.1, h.1]

/-- What is seen of a list of entries gives their cores (R91). -/
theorem map_core_congr {l m : List Entry} (h : m.map Entry.seen = l.map Entry.seen) : m.map Entry.core = l.map Entry.core := by
  have cores (l : List Entry) : l.map Entry.core =
      (l.map Entry.seen).map fun e => { e with stage := .projected, ref := none } := by
    rw [List.map_map]
    rfl
  rw [cores, cores, h]

theorem Stream.Like.alike {x y : Stream} (h : x.Like y) : x.Alike y := ⟨h.1, map_core_congr h.2⟩

theorem Stream.Alike.length {x y : Stream} (h : x.Alike y) : y.window.length = x.window.length := by
  simpa using congrArg List.length h.2

theorem mem_listEnd_congr {l m : List Entry} (h : m.map Entry.core = l.map Entry.core) :
    (∃ e ∈ m, e.listEnd ≠ none) ↔ ∃ e ∈ l, e.listEnd ≠ none := by
  have ends (l : List Entry) : (∃ e ∈ l, e.listEnd ≠ none) ↔ ∃ e ∈ l.map Entry.core, e.listEnd ≠ none := by
    constructor
    · rintro ⟨e, mem, some_⟩
      exact ⟨e.core, List.mem_map_of_mem mem, some_⟩
    · rintro ⟨_, mem, some_⟩
      obtain ⟨e, old, rfl⟩ := List.mem_map.1 mem
      exact ⟨e, old, some_⟩
  rw [ends m, ends l, h]

theorem Stream.Alike.filled {x y : Stream} (h : x.Alike y) (k : x.Filled) : y.Filled := by
  have depth : y.depth = x.depth := by rw [h.1]
  exact k.imp (fun full => by rw [depth, h.length]; exact full) (mem_listEnd_congr h.2).2

/-- A lookup changes stages and references only (R94, R106). -/
theorem State.ask_alike (s : State) (n : StreamId) (e : Entry) : (s.stream n).Alike ((s.ask n e).stream n) := by
  unfold State.ask
  split
  · next key kind frame =>
    split
    · next d found =>
      refine Stream.Alike.trans ?_ ((Calm.hit (A := fun _ => False) _ d e.deadline e.cls).others n id).alike
      rw [State.changeEntry, State.setStream_stream]
      refine ⟨rfl, ?_⟩
      rw [List.map_map]
      refine List.map_congr_left fun y _ => ?_
      dsimp only [Function.comp]
      split
      · rfl
      · rfl
    · rw [State.stream_congr (State.addWaiter_streams s _) n]
      exact .refl _
  · exact .refl _

/-! ### Run ticks (R66) -/

/-- The next tick of a run: quotient and remainder of the elapsed time (R66). -/
theorem run_step {n p : Nat} (positive : 0 < n) (k : Nat) :
    (k + 1) * p / n = k * p / n + p / n + (if n ≤ k * p % n + p % n then 1 else 0) ∧
      (k + 1) * p % n = if n ≤ k * p % n + p % n then k * p % n + p % n - n else k * p % n + p % n := by
  rw [Nat.succ_mul, Nat.add_div positive, Nat.add_mod]
  refine ⟨rfl, ?_⟩
  have a := Nat.mod_lt (k * p) positive
  have b := Nat.mod_lt p positive
  split
  · next carry =>
    rw [Nat.mod_eq_sub_mod carry]
    exact Nat.mod_eq_of_lt (by omega)
  · next low => exact Nat.mod_eq_of_lt (by omega)

/-- The projection state stands at run tick `k` of a run anchored at `a` (R66). -/
def Projection.AtTick (p : Projection) (x : Stream) (a : Time) (k : Nat) : Prop :=
  p.index = BitVec.ofNat 64 k ∧ p.deliver = runTick a x.rateN x.rateD k ∧ p.acc = k * (1000000000 * x.rateD) % x.rateN

theorem Projection.AtTick.step {p : Projection} {x : Stream} {a : Time} {k : Nat} (paced : x.Paced) (h : p.AtTick x a k) :
    (p.step x).AtTick x a (k + 1) := by
  obtain ⟨index, deliver, acc⟩ := h
  obtain ⟨positive, whole, rest⟩ := paced
  obtain ⟨time, remainder⟩ := run_step (p := 1000000000 * x.rateD) positive k
  unfold Projection.AtTick Projection.step runTick later
  unfold runTick at deliver
  rw [acc, deliver, index, whole, rest, time, remainder]
  dsimp only
  split
  · refine ⟨by rw [BitVec.ofNat_add]; rfl, ?_, rfl⟩
    simp only [BitVec.ofNat_add, BitVec.add_assoc]
  · refine ⟨by rw [BitVec.ofNat_add]; rfl, ?_, rfl⟩
    simp only [BitVec.ofNat_add, BitVec.add_assoc, Nat.add_zero]

theorem Projection.atTick_zero {p : Projection} {x : Stream} {a : Time} (paced : x.Paced) (index : p.index = 0)
    (deliver : p.deliver = a) (acc : p.acc = 0) : p.AtTick x a 0 := by
  obtain ⟨positive, -, -⟩ := paced
  refine ⟨index, ?_, ?_⟩
  · rw [deliver, runTick]
    simp
  · rw [acc]
    simp

/-! ### The entry of a tick (R84, R90, R93) -/

theorem Stream.tagged_eq (x : Stream) (e : Entry) : ∃ l, x.tagged e = { e with tags := l } := by
  unfold Stream.tagged
  split
  · exact ⟨_, rfl⟩
  · exact ⟨e.tags, rfl⟩

/-- An entry projected by a run of the stream as it stands (R59, R66, R70, R93). -/
structure Stream.Projects (x : Stream) (e : Entry) : Prop where
  tick : e.tick = x.nextTick
  cls : e.cls = if x.speed.natAbs ≤ 16 then .play else .scrub
  locate : e.locate = false
  index : e.index = x.proj.index
  deliver : e.deliver = x.proj.deliver
  deadline : e.kind = .frame →
    e.deadline =
      some (if e.deliver.toNat < e.allowance + x.margin then 0 else e.deliver - BitVec.ofNat 64 (e.allowance + x.margin))
  cue : e.cue = x.nextPosition.cue
  offset : e.offset = x.nextPosition.offset

theorem State.nextEntry_projects (s : State) (x : Stream) : x.Projects (s.nextEntry x) := by
  obtain ⟨l, tags⟩ := x.tagged_eq { s.entryAt x x.nextPosition with deadline := (s.entryAt x x.nextPosition).deadlineAt x.margin }
  have entry : s.nextEntry x = _ := tags
  rw [entry]
  exact ⟨rfl, rfl, rfl, rfl, rfl, fun kind => if_pos kind, rfl, rfl⟩

/-! ### A window grows (R92) -/

/-- The stream's window has grown by the entries `added` of its run, from `x` to `y` (R66, R92, R93). -/
structure Stream.Grown (x y : Stream) (added : List Entry) : Prop where
  fields : y = { x with nextTick := y.nextTick, proj := y.proj, window := y.window }
  window : y.window.map Entry.core = x.window.map Entry.core ++ added.map Entry.core
  anchor : y.proj.anchor = x.proj.anchor
  projected : x.Projected x.speed added
  tick : y.nextTick = x.nextTick + BitVec.ofNat 32 added.length
  times : ∀ a k, x.Paced → x.proj.AtTick x a k → x.RunTimes a k added ∧ y.proj.AtTick x a (k + added.length)
  first : ∀ e, added[0]? = some e → e.cue = x.nextPosition.cue ∧ e.offset = x.nextPosition.offset

theorem Stream.Alike.grown {x y : Stream} (h : x.Alike y) : x.Grown y [] where
  fields := by rw [h.1]
  window := by rw [h.2]; simp
  anchor := by rw [h.1]
  projected i e at_ := by cases at_
  tick := by rw [h.1]; simp
  times a k _ at_ := by
    refine ⟨fun i e none_ => ?_, ?_⟩
    · cases none_
    · rw [h.1]
      exact at_
  first e none_ := by cases none_

/-- One entry is projected (R93). -/
theorem Stream.Projects.grown {x y : Stream} {e : Entry} (h : x.Projects e)
    (after : (x.afterEntry x.nextPosition e).Alike y) : x.Grown y [e] where
  fields := by rw [after.1]; rfl
  window := by rw [after.2]; simp [Stream.afterEntry]
  anchor := by
    rw [after.1]
    simp only [Stream.afterEntry, Projection.step]
    split <;> rfl
  projected i f at_ := by
    cases i with
    | zero =>
      cases at_
      exact ⟨h.tick.trans (by simp), h.cls, h.locate⟩
    | succ i => cases at_
  tick := by rw [after.1]; rfl
  times a k paced at_ := by
    refine ⟨fun i f here => ?_, ?_⟩
    · cases i with
      | zero =>
        cases here
        exact ⟨h.index.trans at_.1, h.deliver.trans at_.2.1, h.deadline⟩
      | succ i => cases here
    · rw [after.1]
      exact at_.step paced
  first f at_ := by
    cases at_
    exact ⟨h.cue, h.offset⟩

theorem Stream.Grown.cons {x y z : Stream} {e : Entry} {l : List Entry} (h : x.Grown y [e]) (k : y.Grown z l) :
    x.Grown z (e :: l) where
  fields := by rw [k.fields, h.fields]
  window := by rw [k.window, h.window]; simp
  anchor := k.anchor.trans h.anchor
  projected i f at_ := by
    cases i with
    | zero => exact h.projected 0 f at_
    | succ i =>
      obtain ⟨tick, cls, locate⟩ := k.projected i f at_
      have speed : y.speed = x.speed := by rw [h.fields]
      refine ⟨?_, by rw [cls, speed], locate⟩
      rw [tick, h.tick, BitVec.add_assoc, ← BitVec.ofNat_add, List.length_singleton, Nat.add_comm]
  tick := by
    rw [k.tick, h.tick, BitVec.add_assoc, ← BitVec.ofNat_add, List.length_singleton, List.length_cons, Nat.add_comm]
  times a j paced at_ := by
    obtain ⟨one, then_⟩ := h.times a j paced at_
    have rateN : y.rateN = x.rateN := by rw [h.fields]
    have rateD : y.rateD = x.rateD := by rw [h.fields]
    have margin : y.margin = x.margin := by rw [h.fields]
    have whole : y.q = x.q := by rw [h.fields]
    have rest : y.r = x.r := by rw [h.fields]
    have paced' : y.Paced := ⟨rateN ▸ paced.rate, by rw [whole, rateN, rateD]; exact paced.whole,
      by rw [rest, rateN, rateD]; exact paced.rest⟩
    obtain ⟨more, ended⟩ := k.times a (j + 1) paced' (by
      rw [Projection.AtTick, rateN, rateD]
      exact then_)
    rw [Projection.AtTick, rateN, rateD] at ended
    refine ⟨fun i f here => ?_, ?_⟩
    · cases i with
      | zero => exact one 0 f here
      | succ i =>
        have times := more i f here
        rw [rateN, rateD, margin] at times
        rwa [Nat.add_assoc, Nat.add_comm 1 i] at times
    · rw [List.length_cons, Nat.add_comm l.length 1, ← Nat.add_assoc]
      exact ended
  first f at_ := h.first f at_

/-! ### Projection (R92) -/

theorem projectLoop_grown (n : StreamId) (fuel : Nat) (s : State) :
    ∃ added, (s.stream n).Grown ((projectLoop n fuel s).stream n) added ∧ (s.projects n = false → added = []) := by
  induction fuel generalizing s with
  | zero => exact ⟨[], (Stream.Alike.refl _).grown, fun _ => rfl⟩
  | succ fuel ih =>
    unfold projectLoop
    split
    · next able =>
      dsimp only
      set x := s.stream n
      set e := s.nextEntry x
      have alike : (x.afterEntry x.nextPosition e).Alike
          (((s.setStream n (x.afterEntry x.nextPosition e)).ask n e).stream n) := by
        have asked := State.ask_alike (s.setStream n (x.afterEntry x.nextPosition e)) n e
        rwa [State.setStream_stream] at asked
      have one := (s.nextEntry_projects x).grown alike
      obtain ⟨l, more, -⟩ := ih ((s.setStream n (x.afterEntry x.nextPosition e)).ask n e)
      exact ⟨e :: l, one.cons more, fun no => by rw [no] at able; cases able⟩
    · exact ⟨[], (Stream.Alike.refl _).grown, fun _ => rfl⟩

theorem State.projects_iff (s : State) (n : StreamId) :
    s.projects n = true ↔ s.region.engine ≠ .halted ∧ (s.stream n).state = .running ∧ ¬ (s.stream n).Filled := by
  unfold State.projects Stream.Filled
  simp [State.halted, List.all_eq_true, and_assoc]

/-- Projection comes to a full window or to a list end (R92). -/
theorem projectLoop_filled (n : StreamId) (fuel : Nat) {s : State} (awake : s.region.engine ≠ .halted)
    (running : (s.stream n).state = .running) (enough : (s.stream n).depth ≤ (s.stream n).window.length + fuel) :
    ((projectLoop n fuel s).stream n).Filled := by
  induction fuel generalizing s with
  | zero => exact .inl enough
  | succ fuel ih =>
    unfold projectLoop
    split
    · next able =>
      dsimp only
      set x := s.stream n
      set e := s.nextEntry x
      have asked := State.ask_alike (s.setStream n (x.afterEntry x.nextPosition e)) n e
      rw [State.setStream_stream] at asked
      have calm := Calm.ask (A := fun _ => True) (s.setStream n (x.afterEntry x.nextPosition e)) n e
      refine ih (by rw [calm.region.engine]; exact awake) (by rw [asked.1]; exact running) ?_
      rw [asked.length, asked.1]
      simp only [Stream.afterEntry, List.length_append, List.length_singleton]
      omega
    · next unable =>
      by_contra unfilled
      exact unable ((s.projects_iff n).2 ⟨awake, running, unfilled⟩)

end Sys2Proof.Machine
end

section
/-! SUPPORT. Orders that start or change a run (R46 to R52, R67, R73, R80 to R82): PLAY, CUES, RESUME and RLSD. -/

namespace Sys2Proof.Machine

/-! ### After a projection -/

theorem Stream.Grown.alike {x y z : Stream} {l : List Entry} (h : x.Grown y l) (k : y.Alike z) : x.Grown z l where
  fields := by rw [k.1, h.fields]
  window := k.2.trans h.window
  anchor := by rw [k.1]; exact h.anchor
  projected := h.projected
  tick := by rw [k.1]; exact h.tick
  times a j paced at_ := by
    rw [k.1]
    exact h.times a j paced at_
  first := h.first

/-- What a projection does to its stream (R92). -/
theorem State.project_grown (s : State) (n : StreamId) :
    ∃ added, (s.stream n).Grown ((s.project n).stream n) added ∧ ((s.stream n).state ≠ .running → added = []) ∧
      (s.region.engine ≠ .halted → (s.stream n).state = .running → (s.stream n).depth ≤ 16 →
        ((s.project n).stream n).Filled) := by
  obtain ⟨added, grown, none_⟩ := projectLoop_grown n 16 s
  refine ⟨added, grown, fun idle => none_ ?_, fun awake running shallow => projectLoop_filled n 16 awake running (by omega)⟩
  exact Bool.eq_false_iff.2 fun able => idle ((s.projects_iff n).1 able).2.1

/-- A stream that waits for nothing keeps all but stages when streams wake (R74, R75). -/
theorem State.wakeAll_like {s : State} {n : StreamId} (idle : ¬ (s.stream n).Waits) :
    (s.stream n).Like (s.wakeAll.stream n) := (Calm.wakeAll_waiting s).others n idle

/-- The streams that may change when an operation on one stream is followed by waking. -/
theorem Calm.wakeOthers {s t : State} {n : StreamId} (h : Calm (fun k => k = n) s t) :
    Calm (fun k => k = n ∨ (s.stream k).Waits) s t.wakeAll := by
  refine (h.mono fun _ => .inl).trans ((Calm.wakeAll_waiting t).mono fun k waits => ?_)
  by_cases same : k = n
  · exact .inl same
  · exact .inr ((h.others k same).waits.1 waits)

theorem State.markMirror_marked (s : State) (n : StreamId) : (s.markMirror n).region.marks[n] = true := by
  simp [State.markMirror, State.setRegion]

theorem State.wakeAll_marked {s : State} {n : StreamId} (h : s.region.marks[n] = true) :
    s.wakeAll.region.marks[n] = true := (Calm.wakeAll s).region.marks h

theorem Stream.Paced.congr {x y : Stream} (h : x.Paced) (rateN : y.rateN = x.rateN := by rfl)
    (rateD : y.rateD = x.rateD := by rfl) (q : y.q = x.q := by rfl) (r : y.r = x.r := by rfl) : y.Paced :=
  ⟨rateN ▸ h.rate, by rw [q, rateN, rateD]; exact h.whole, by rw [r, rateN, rateD]; exact h.rest⟩

theorem answered_engine (s : State) (tag : Word) (r : Record) (code : Result) (v : Nat) :
    (s.answered tag r code v).region.engine = s.region.engine := by
  rw [State.answered, State.raise_engine]
  rfl

/-! ### A discard (R97, R54) -/

/-- The stream once its unsent entries have been discarded and the list-end mark taken off what is SENDING (R54, R97). -/
def Stream.cleared (x : Stream) : Stream := { x with window := x.kept, slipEnd := none : Stream }.resetProjection

theorem State.cleared_streams (s : State) (n : StreamId) :
    ((s.discard n).unmarkSending n).streams = (s.setStream n (s.stream n).cleared).streams := by
  have one := s.discard_streams n
  have self : (s.discard n).stream n = _ := (State.stream_congr one n).trans (State.setStream_stream ..)
  have kept : ((s.discard n).stream n).window.map (fun e => if e.stage = .sending then { e with listEnd := none } else e) =
      (s.stream n).kept := by
    rw [self, Stream.kept]
    refine List.map_congr_left fun e mem => if_pos ?_
    simpa using (List.mem_filter.1 mem).2
  rw [State.unmarkSending, kept, self]
  simp only [State.setStream, one, Vector.set_set]
  rfl

theorem State.cleared_stream (s : State) (n : StreamId) :
    ((s.discard n).unmarkSending n).stream n = (s.stream n).cleared :=
  (State.stream_congr (s.cleared_streams n) n).trans (State.setStream_stream ..)

/-! ### A run begins (R46 to R48, R67) -/

/-- The stream with its run begun, before its projection (R39, R46, R87). -/
def Stream.started (x : Stream) (speed : Int) (anchor : Time) : Stream :=
  { x.cleared with
    state := .running, speed := speed, releaseTime := none, releaseResume := false
    proj :=
      { anchor := anchor, index := 0, deliver := anchor, acc := 0, cue := x.cue, offset := x.offset,
        counters := liveCounters x.cues, prev := x.lastPresented, fresh := !x.shown } }

theorem State.startRun_eq (s : State) (n : StreamId) (speed : Int) (anchor : Time) :
    ∃ t, t.stream n = (s.stream n).started speed anchor ∧ Calm (fun k => k = n) s t ∧
      s.startRun n speed anchor = t.project n := by
  have cleared := s.cleared_stream n
  refine ⟨((s.discard n).unmarkSending n).setStream n ((s.stream n).started speed anchor), State.setStream_stream ..,
    ((Calm.discard (A := fun k => k = n) s n rfl).trans (Calm.unmarkSending _ n rfl)).trans (Calm.setStream _ n _ rfl), ?_⟩
  unfold State.startRun
  dsimp only
  rw [cleared]
  rfl

theorem Stream.started_waits (x : Stream) (speed : Int) (anchor : Time) : ¬ (x.started speed anchor).Waits := by
  rintro (seeking | slip)
  · cases seeking
  · exact slip rfl

theorem Stream.Grown.waits {x y : Stream} {l : List Entry} (h : x.Grown y l) (idle : ¬ x.Waits) : ¬ y.Waits := by
  rw [h.fields]
  exact idle

theorem floorAt_eq (s : State) (x : Stream) : s.runFloor x = x.floorAt s.et := by
  unfold State.runFloor Stream.floorAt later
  dsimp only
  cases x.sendingEntry with
  | none => rfl
  | some e => simp [BitVec.ult]

theorem clampSpeed_eq (v : Int) :
    clampSpeed v = (max (-256) (min 256 v), decide (max (-256) (min 256 v) ≠ v)) := by
  unfold clampSpeed
  split
  · simp only [Prod.mk.injEq]
    refine ⟨by omega, ?_⟩
    rw [eq_comm, decide_eq_true_eq]
    omega
  · split
    · simp only [Prod.mk.injEq]
      refine ⟨by omega, ?_⟩
      rw [eq_comm, decide_eq_true_eq]
      omega
    · simp only [Prod.mk.injEq]
      refine ⟨by omega, ?_⟩
      rw [eq_comm, decide_eq_false_iff_not]
      omega

theorem decidePlay_accepted {s : State} {n : StreamId} {b : List Byte}
    (able : (s.stream n).state = .parked ∨ (s.stream n).state = .running ∨ (s.stream n).state = .held)
    (moving : s16 b 8 ≠ 0) (timely : u8 b 7 % 2 = 1 → u64 b 24 < 2 ^ 63) :
    decidePlay s n b =
      ⟨if max (-256) (min 256 (s16 b 8)) ≠ s16 b 8 ∨ u8 b 7 % 2 = 1 ∧ u64 b 24 < ((s.stream n).floorAt s.et).toNat
        then .clamped else .ok, 0,
        fun t => (t.startRun n (max (-256) (min 256 (s16 b 8)))
          (if u8 b 7 % 2 = 1 ∧ ((s.stream n).floorAt s.et).toNat ≤ u64 b 24 then BitVec.ofNat 64 (u64 b 24)
            else (s.stream n).floorAt s.et)).markMirror n⟩ := by
  have open_ : ¬ ((s.stream n).state = .closed ∨ (s.stream n).state = .seeking) := by
    rcases able with h | h | h
    all_goals rw [h]; decide
  unfold decidePlay
  dsimp only
  rw [if_neg open_, if_neg moving, if_neg (fun late => by
    have flag : u8 b 7 % 2 = 1 := by simpa [startTimeFlag] using late.1
    exact absurd (timely flag) (by omega)), floorAt_eq, clampSpeed_eq]
  have flagged : startTimeFlag b = decide (u8 b 7 % 2 = 1) := by simp [startTimeFlag, beq_eq_decide]
  rw [flagged]
  congr 1
  · simp [okOr]
  · funext t
    congr 2
    by_cases flag : u8 b 7 % 2 = 1
    · simp [flag]
    · simp [flag]

/-- What a projection and waking leave of a stream that waits for nothing (R92). -/
theorem State.project_settles {t u : State} {n : StreamId} (idle : ¬ (t.stream n).Waits)
    (same : u.stream n = (t.project n).stream n := by rfl) :
    ∃ added, (t.stream n).Grown (u.wakeAll.stream n) added ∧ ((t.stream n).state ≠ .running → added = []) ∧
      (t.region.engine ≠ .halted → (t.stream n).state = .running → (t.stream n).depth ≤ 16 →
        (u.wakeAll.stream n).Filled) := by
  obtain ⟨added, grown, none_, filled⟩ := t.project_grown n
  rw [← same] at grown filled
  have alike := (State.wakeAll_like (grown.waits idle)).alike
  exact ⟨added, grown.alike alike, none_, fun awake running shallow => alike.filled (filled awake running shallow)⟩

/-- Settles O32. -/
theorem playStartsARun : Obligations.PlayStartsARun := by
  unfold Obligations.PlayStartsARun
  intro c r s n h
  dsimp only
  intro long hn action able moving timely
  have decision : decideXprt s r.body = _ :=
    (decideXprt_action s hn).trans ((congrArg (xprtAction s n r.body) action).trans (decidePlay_accepted able moving timely))
  have ran := (h.xprt long).carried decision
  generalize max (-256) (min 256 (s16 r.body 8)) = speed at ran ⊢
  clear moving timely decision able
  generalize (if u8 r.body 7 % 2 = 1 ∧ ((s.stream n).floorAt s.et).toNat ≤ u64 r.body 24 then
    BitVec.ofNat 64 (u64 r.body 24) else (s.stream n).floorAt s.et) = anchor at ran ⊢
  generalize (if speed ≠ s16 r.body 8 ∨ u8 r.body 7 % 2 = 1 ∧ u64 r.body 24 < ((s.stream n).floorAt s.et).toNat then
    Result.clamped else .ok) = code at ran ⊢
  obtain ⟨t, started, begun, start⟩ := (s.answered tagXPRT r code 0).startRun_eq n speed anchor
  rw [answered_stream] at started
  have idle : ¬ (t.stream n).Waits := by
    rw [started]
    exact Stream.started_waits _ speed anchor
  have awake : t.region.engine ≠ .halted := by
    rw [begun.region.engine, answered_engine, h.readable.running]
    decide
  obtain ⟨added, grown, -, filled⟩ := State.project_settles (u := (t.project n).markMirror n) idle
  rw [start] at ran
  rw [started] at grown filled
  have calm := ((begun.trans (Calm.project t n rfl)).trans (Calm.markMirror _ n)).wakeOthers
  refine ⟨_, added, ran, calm.mono fun k => Or.imp id fun waits => ?_, by rw [grown.fields]; rfl, by rw [grown.fields]; rfl,
    grown.anchor, by rw [grown.fields]; rfl, by rw [grown.fields]; rfl, State.wakeAll_marked (State.markMirror_marked ..),
    by rw [List.map_append]; exact grown.window, fun shallow => filled awake rfl shallow, grown.projected,
    fun paced => (grown.times anchor 0 paced.congr (Projection.atTick_zero paced.congr rfl rfl rfl)).1, fun e first => ?_⟩
  · rwa [answered_stream] at waits
  · obtain ⟨cue, offset⟩ := grown.first e first
    rw [cue, offset]
    unfold Stream.nextPosition Stream.started
    cases (s.stream n).shown with
    | false => exact ⟨rfl, rfl⟩
    | true => exact ⟨rfl, rfl⟩

end Sys2Proof.Machine
end

section
/-! SUPPORT. CUES in its two modes (R81, R82). -/

namespace Sys2Proof.Machine

/-! ### REPLACE (R81) -/

/-- The stream with its cue list replaced and its window discarded, before its projection (R81). -/
def Stream.replaced (x : Stream) (cues : List Cue) (cue offset : Nat) : Stream :=
  let y := { x with cues := cues, cue := cue, offset := offset, shown := false : Stream }.cleared
  { y with
    proj :=
      match x.unsent.head? with
      | some e => if x.state = .running then y.setBack e.index else { y.proj with fresh := true }
      | none => { y.proj with fresh := true } }

theorem State.replaceCues_eq (s : State) (n : StreamId) (cues : List Cue) (cue offset : Nat) :
    ∃ t, t.stream n = (s.stream n).replaced cues cue offset ∧ Calm (fun k => k = n) s t ∧
      s.replaceCues n cues cue offset = t.project n := by
  set x : Stream := { s.stream n with cues := cues, cue := cue, offset := offset, shown := false } with hx
  have cleared := (s.setStream n x).cleared_stream n
  rw [State.setStream_stream] at cleared
  refine ⟨(((s.setStream n x).discard n).unmarkSending n).setStream n ((s.stream n).replaced cues cue offset),
    State.setStream_stream .., (((Calm.setStream (A := fun k => k = n) s n x rfl).trans (Calm.discard _ n rfl)).trans
      (Calm.unmarkSending _ n rfl)).trans (Calm.setStream _ n _ rfl), ?_⟩
  unfold State.replaceCues
  dsimp only
  rw [← hx, cleared]
  rfl

/-- Where a replaced list is projected from (R81). -/
theorem Stream.replaced_fresh (x : Stream) (cues : List Cue) (cue offset : Nat) :
    (x.replaced cues cue offset).nextPosition.cue = cue ∧ (x.replaced cues cue offset).nextPosition.offset = offset := by
  have fresh : (x.replaced cues cue offset).proj.fresh = true ∧ (x.replaced cues cue offset).proj.cue = cue ∧
      (x.replaced cues cue offset).proj.offset = offset := by
    unfold Stream.replaced
    dsimp only
    cases x.unsent.head? with
    | none => exact ⟨rfl, rfl, rfl⟩
    | some e =>
      dsimp only
      split
      · exact ⟨rfl, rfl, rfl⟩
      · exact ⟨rfl, rfl, rfl⟩
  unfold Stream.nextPosition
  rw [fresh.1]
  exact fresh.2

/-- The run tick that a replaced list goes on from (R66, R81). -/
theorem Stream.replaced_atTick {x : Stream} {e : Entry} (running : x.state = .running) (first : x.unsent[0]? = some e)
    (cues : List Cue) (cue offset : Nat) :
    (x.replaced cues cue offset).proj.AtTick (x.replaced cues cue offset) x.proj.anchor e.index.toNat := by
  have head : x.unsent.head? = some e := by rw [List.head?_eq_getElem?]; exact first
  unfold Stream.replaced
  rw [head]
  dsimp only
  rw [if_pos running]
  refine ⟨by simp [Stream.setBack], ?_, ?_⟩
  · unfold Stream.setBack later runTick
    rw [Nat.mul_assoc]
    rfl
  · unfold Stream.setBack
    rw [Nat.mul_assoc]

theorem passes_of_transmittable {s : State} {x : Stream} {cues : List Cue} (h : ∀ y ∈ cues, s.Transmittable x y) :
    tooSlowAt s x.q x.egress 0 cues = none := tooSlowAt_none 0 h

theorem decideReplace_accepted {s : State} {n : StreamId} {b : List Byte} {cues : List Cue}
    (accepted : checkCues s.decoder [] 0 (rawCues b 16 (u8 b 7)) = .accepted cues)
    (fast : ∀ y ∈ cues, s.Transmittable (s.stream n) y) :
    decideReplace s n b =
      ⟨if (clampPosition cues (u8 b 6) (u32 b 8)).2.2 then .clamped else .ok, 0,
        fun t => t.replaceCues n cues (clampPosition cues (u8 b 6) (u32 b 8)).1 (clampPosition cues (u8 b 6) (u32 b 8)).2.1⟩ := by
  unfold decideReplace
  rw [accepted]
  dsimp only
  rw [passes_of_transmittable fast]
  rfl

/-- Settles O30. -/
theorem cuesReplaceTheList : Obligations.CuesReplaceTheList := by
  unfold Obligations.CuesReplaceTheList
  intro c r s n cues h
  dsimp only
  intro long hn mode some_ few able accepted fast
  have takes : (s.stream n).TakesCues (u8 r.body 5) := by
    refine ⟨by omega, fun closed => ?_, fun _ seeking => ?_⟩
    · rw [closed] at able
      simp at able
    · rw [seeking] at able
      simp at able
  have decision : decideCues s r.body = _ := (decideCues_action hn takes some_ few).trans
    ((if_pos mode).trans (decideReplace_accepted accepted fast))
  have ran := (h.cues long).carried decision
  generalize clampPosition cues (u8 r.body 6) (u32 r.body 8) = position at ran ⊢
  generalize (if position.2.2 = true then Result.clamped else .ok) = code at ran ⊢
  obtain ⟨t, replaced, begun, start⟩ :=
    (s.answered tagCUES r code 0).replaceCues_eq n cues position.1 position.2.1
  rw [answered_stream] at replaced
  have idle : ¬ (t.stream n).Waits := by
    rw [replaced]
    rintro (seeking | slip)
    · exact takes.2.2 mode seeking
    · exact slip rfl
  have awake : t.region.engine ≠ .halted := by
    rw [begun.region.engine, answered_engine, h.readable.running]
    decide
  obtain ⟨added, grown, none_, filled⟩ := State.project_settles (u := t.project n) idle
  rw [start] at ran
  rw [replaced] at grown filled none_
  have calm := (begun.trans (Calm.project t n rfl)).wakeOthers
  obtain ⟨cueAt, offsetAt⟩ := (s.stream n).replaced_fresh cues position.1 position.2.1
  refine ⟨_, added, ran, calm.mono fun k => Or.imp id fun waits => ?_, by rw [grown.fields]; rfl, by rw [grown.fields]; rfl,
    by rw [grown.fields]; rfl, by rw [grown.fields]; rfl, by rw [grown.fields]; rfl, by rw [grown.fields]; rfl,
    by rw [grown.fields]; rfl, by rw [grown.fields]; rfl, by rw [List.map_append]; exact grown.window, none_,
    fun running shallow => ⟨filled awake running shallow, grown.projected, fun e first => ?_, fun e paced first => ?_⟩⟩
  · rwa [answered_stream] at waits
  · obtain ⟨cue, offset⟩ := grown.first e first
    exact ⟨cue.trans cueAt, offset.trans offsetAt⟩
  · exact (grown.times _ _ paced.congr (Stream.replaced_atTick running first cues position.1 position.2.1)).1

/-! ### APPEND (R82) -/

/-- The stream with cues appended to its list, before its projection (R82). -/
def Stream.appended (x : Stream) (cues : List Cue) : Stream :=
  { x with
    cues := cues
    proj := { x.proj with counters := x.proj.counters ++ liveCounters (cues.drop x.cues.length) }
    window := x.window.map fun e =>
      if e.stage ≠ .sending ∧ e.listEnd = some .atEnd then { e with listEnd := none } else e }

theorem decideAppend_accepted {s : State} {n : StreamId} {b : List Byte} {cues : List Cue}
    (room : (s.stream n).cues.length + u8 b 7 ≤ 64)
    (accepted : checkCues s.decoder (s.stream n).cues 0 (rawCues b 16 (u8 b 7)) = .accepted cues)
    (fast : ∀ y ∈ cues.drop (s.stream n).cues.length, s.Transmittable (s.stream n) y) :
    decideAppend s n b = ⟨.ok, (s.stream n).cues.length, fun t => t.appendCues n cues⟩ := by
  unfold decideAppend
  dsimp only
  rw [if_neg (by omega), accepted]
  dsimp only
  rw [passes_of_transmittable fast]

/-- Settles O31. -/
theorem cuesAppendToTheList : Obligations.CuesAppendToTheList := by
  unfold Obligations.CuesAppendToTheList
  intro c r s n cues h
  dsimp only
  intro long hn mode some_ room opened accepted fast
  have takes : (s.stream n).TakesCues (u8 r.body 5) := ⟨by omega, opened, fun zero => absurd zero (by omega)⟩
  have decision : decideCues s r.body = _ := (decideCues_action hn takes some_ (by omega)).trans
    ((if_neg (by omega)).trans (decideAppend_accepted room accepted fast))
  have ran := (h.cues long).carried decision
  have same : (s.answered tagCUES r .ok (s.stream n).cues.length).stream n = s.stream n := answered_stream ..
  have running : (s.answered tagCUES r .ok (s.stream n).cues.length).region.engine ≠ .halted := by
    rw [answered_engine, h.readable.running]
    decide
  generalize s.answered tagCUES r .ok (s.stream n).cues.length = a at ran same running ⊢
  have begun : Calm (fun k => k = n) a (a.setStream n ((s.stream n).appended cues)) := Calm.setStream a n _ rfl
  have append : a.appendCues n cues = (a.setStream n ((s.stream n).appended cues)).project n := by
    unfold State.appendCues
    dsimp only
    rw [same]
    rfl
  obtain ⟨added, grown, none_, filled⟩ := (a.setStream n ((s.stream n).appended cues)).project_grown n
  rw [append] at ran
  rw [State.setStream_stream] at grown none_ filled
  exact ⟨_, added, ran, begun.trans (Calm.project _ n rfl), by rw [grown.fields]; rfl, by rw [grown.fields]; rfl,
    by rw [grown.fields]; rfl, by rw [grown.fields]; rfl, by rw [grown.fields]; rfl, grown.window, none_,
    fun runs shallow => ⟨filled (by rw [begun.region.engine]; exact running) runs shallow, grown.projected⟩⟩

end Sys2Proof.Machine
end

section
/-! SUPPORT. The release of a hold (R51, R52, R73). -/

namespace Sys2Proof.Machine

theorem Stream.Alike.thenGrown {x y z : Stream} {l : List Entry} (h : x.Alike y) (k : y.Grown z l) : x.Grown z l where
  fields := by rw [k.fields, h.1]
  window := by rw [k.window, h.2]
  anchor := by rw [k.anchor, h.1]
  projected := by
    have grown := k.projected
    rw [h.1] at grown
    exact grown
  tick := by rw [k.tick, h.1]
  times a j paced at_ := by
    have grown := k.times a j
    rw [h.1] at grown
    exact grown paced.congr at_
  first := by
    have grown := k.first
    rw [h.1] at grown
    exact grown

theorem Stream.RunTimes.append {x : Stream} {a : Time} {k : Nat} {l m : List Entry} (h : x.RunTimes a k l)
    (next : x.RunTimes a (k + l.length) m) : x.RunTimes a k (l ++ m) := by
  intro i e at_
  by_cases inside : i < l.length
  · exact h i e (by rwa [List.getElem?_append_left inside] at at_)
  · rw [List.getElem?_append_right (by omega)] at at_
    have times := next (i - l.length) e at_
    rwa [show k + l.length + (i - l.length) = k + i by omega] at times

/-! ### Entries re-timed as the first run ticks (R73) -/

theorem retimeEntries_untimed (x : Stream) (p : Projection) (l : List Entry) :
    (retimeEntries x p l).1.map Entry.untimed = l.map Entry.untimed := by
  induction l generalizing p with
  | nil => rfl
  | cons e l ih =>
    unfold retimeEntries
    split
    · exact congrArg (_ :: ·) (ih p)
    · exact congrArg (_ :: ·) (ih (p.step x))

theorem retimeEntries_stage (x : Stream) (p : Projection) (l : List Entry) :
    (retimeEntries x p l).1.map (fun e => e.stage) = l.map (fun e => e.stage) := by
  induction l generalizing p with
  | nil => rfl
  | cons e l ih =>
    unfold retimeEntries
    split
    · exact congrArg (_ :: ·) (ih p)
    · exact congrArg (_ :: ·) (ih (p.step x))

theorem retimeEntries_anchor (x : Stream) (p : Projection) (l : List Entry) : (retimeEntries x p l).2.anchor = p.anchor := by
  induction l generalizing p with
  | nil => rfl
  | cons e l ih =>
    unfold retimeEntries
    split
    · exact ih p
    · refine (ih (p.step x)).trans ?_
      unfold Projection.step
      dsimp only
      split
      · rfl
      · rfl

/-- The unsent entries become run ticks, one after another (R73). -/
theorem retimeEntries_times {x : Stream} {a : Time} (paced : x.Paced) (l : List Entry) {p : Projection} {k : Nat}
    (h : p.AtTick x a k) :
    x.RunTimes a k ((retimeEntries x p l).1.filter fun e => e.stage != .sending) ∧
      (retimeEntries x p l).2.AtTick x a (k + ((retimeEntries x p l).1.filter fun e => e.stage != .sending).length) := by
  induction l generalizing p k with
  | nil => exact ⟨fun i e none_ => (nomatch none_), h⟩
  | cons e l ih =>
    unfold retimeEntries
    split
    · next sending =>
      dsimp only
      rw [List.filter_cons_of_neg (by simp [sending])]
      exact ih h
    · next unsent =>
      dsimp only
      obtain ⟨times, last⟩ := ih (h.step paced)
      rw [List.filter_cons_of_pos (by simpa using unsent)]
      constructor
      · refine Stream.RunTimes.append (l := [_]) (fun i f at_ => ?_) times
        cases i with
        | zero =>
          cases at_
          exact ⟨h.1, h.2.1, fun kind => if_pos kind⟩
        | succ i => cases at_
      · rw [List.length_cons, Nat.add_comm _ 1, ← Nat.add_assoc]
        exact last

/-! ### The release (R73) -/

/-- The projection state at the start of a new run (R73). -/
def Stream.runStart (x : Stream) (anchor : Time) : Projection :=
  { x.proj with anchor := anchor, index := 0, deliver := anchor, acc := 0 }

/-- The stream released into a new run, before its projection (R73). -/
def Stream.released (x : Stream) (anchor : Time) : Stream :=
  { x with
    state := .running, releaseTime := none, releaseResume := false, slipEnd := none
    proj :=
      { (retimeEntries x (x.runStart anchor) x.window).2 with fresh := if x.unsent = [] then !x.shown else false }
    window := (retimeEntries x (x.runStart anchor) x.window).1 }

/-- A re-timed window is the one given, but for stages (R71). -/
theorem State.retime_alike (s : State) (n : StreamId) (w : List Entry) :
    Stream.Alike { s.stream n with window := w } ((s.retime n w).stream n) := by
  have reported := (Calm.foldl (A := fun _ => False) (Calm.reportEntry n) w
    (s.setStream n { s.stream n with window := w })).others n id
  rw [State.setStream_stream] at reported
  exact reported.alike

theorem State.releaseHold_eq (s : State) (n : StreamId) (anchor : Time) :
    ∃ t, ((s.stream n).released anchor).Alike (t.stream n) ∧ Calm (fun k => k = n) s t ∧
      s.releaseHold n anchor = t.project n := by
  set x := s.stream n with hx
  set y : Stream :=
    { x with
      state := .running, releaseTime := none, releaseResume := false, slipEnd := none
      proj :=
        { (retimeEntries x (x.runStart anchor) x.window).2 with fresh := if x.unsent = [] then !x.shown else false } }
  set window := (retimeEntries x (x.runStart anchor) x.window).1
  refine ⟨(s.setStream n y).retime n window, ?_,
    (Calm.setStream (A := fun k => k = n) s n _ rfl).trans (Calm.retime _ n _ rfl), rfl⟩
  have retimed := (s.setStream n y).retime_alike n window
  rw [State.setStream_stream] at retimed
  exact retimed

theorem State.raiseAt_notified (s : State) (t : Time) (b : NoticeBody) : (s.raiseAt t b).Notified b t := by
  rcases s.raiseAt_region_cases t b with h | ⟨-, -, h⟩
  · exact .inr (congrArg Region.noticesLost h)
  · exact .inl ((congrArg Region.notices h).symm ▸ List.mem_append_right _ (List.mem_singleton_self _))

/-- What the release of a hold comes to (R73). -/
structure Stream.ReleasedTo (x : Stream) (a : Time) (t : Stream) (old added : List Entry) : Prop where
  state : t.state = .running
  speed : t.speed = x.speed
  time : t.releaseTime = none
  resume : t.releaseResume = false
  anchor : t.proj.anchor = a
  window : t.window.map Entry.core = (old ++ added).map Entry.core
  untimed : old.map Entry.untimed = x.window.map Entry.untimed
  stages : old.map (fun e => e.stage) = x.window.map (fun e => e.stage)
  times : x.Paced → x.RunTimes a 0 ((old.filter fun e => e.stage != .sending) ++ added)
  projected : x.Projected x.speed added
  filled : x.depth ≤ 16 → t.Filled

/-- The release of a hold, and what wakes after it (R73). -/
theorem State.releaseHold_released {s : State} (awake : s.region.engine ≠ .halted) (n : StreamId) (a : Time) {u : State}
    (same : u.streams = (s.releaseHold n a).streams) :
    ∃ old added, (s.stream n).ReleasedTo a (u.wakeAll.stream n) old added := by
  obtain ⟨t, alike, begun, start⟩ := s.releaseHold_eq n a
  have idle : ¬ (t.stream n).Waits := by
    rw [alike.1]
    rintro (seeking | slip)
    · cases seeking
    · exact slip rfl
  obtain ⟨added, more, -, filled⟩ :=
    State.project_settles (u := u) idle ((State.stream_congr same n).trans (by rw [start]))
  have grown := alike.thenGrown more
  set x := s.stream n
  refine ⟨(retimeEntries x (x.runStart a) x.window).1, added, ?_, ?_, ?_, ?_, ?_, ?_, retimeEntries_untimed .., retimeEntries_stage ..,
    fun paced => ?_, grown.projected, fun shallow => ?_⟩
  · rw [grown.fields]; rfl
  · rw [grown.fields]; rfl
  · rw [grown.fields]; rfl
  · rw [grown.fields]; rfl
  · exact grown.anchor.trans (retimeEntries_anchor ..)
  · rw [List.map_append]
    exact grown.window
  · obtain ⟨times, last⟩ := retimeEntries_times paced x.window (Projection.atTick_zero (p := x.runStart a) paced rfl rfl rfl)
    exact times.append ((grown.times a _ paced.congr last).1)
  · exact filled (by rw [begun.region.engine]; exact awake) (by rw [alike.1]; rfl) (by rw [alike.1]; exact shallow)

/-- Settles O34. -/
theorem resumeReleasesTheHold : Obligations.ResumeReleasesTheHold := by
  unfold Obligations.ResumeReleasesTheHold
  intro c r s n h
  dsimp only
  intro long hn action held
  have decision : decideXprt s r.body = decideResume s n :=
    (decideXprt_action s hn).trans (congrArg (xprtAction s n r.body) action)
  have resume : decideResume s n =
      if (s.stream n).releaseResume then
        ⟨.ok, 0, fun t => (t.releaseHold n (t.runFloor (s.stream n))).markMirror n⟩
      else refuse .notPermitted := if_neg fun other => other held
  refine ⟨fun no => (h.xprt long).refused ?_, fun yes => ?_⟩
  · rw [decision, resume, no]
    rfl
  · rw [yes] at resume
    have ran := (h.xprt long).carried (decision.trans (resume.trans (if_pos rfl)))
    have same : (s.answered tagXPRT r .ok 0).stream n = s.stream n := answered_stream ..
    rw [floorAt_eq, answered_et] at ran
    obtain ⟨old, added, done⟩ := State.releaseHold_released (s := s.answered tagXPRT r .ok 0)
      (by rw [answered_engine, h.readable.running]; decide) n ((s.stream n).floorAt s.et)
      (u := ((s.answered tagXPRT r .ok 0).releaseHold n ((s.stream n).floorAt s.et)).markMirror n) (State.markMirror_streams ..)
    rw [same] at done
    refine ⟨_, old, added, ran, ?_, done.state, done.speed, done.time, done.resume, done.anchor,
      State.wakeAll_marked (State.markMirror_marked ..), done.window, done.untimed, done.stages, done.times,
      done.projected, done.filled⟩
    refine ((Calm.releaseHold (A := fun k => k = n) _ n _ rfl).trans (Calm.markMirror _ n)).wakeOthers.mono fun k =>
      Or.imp id fun waits => ?_
    rwa [answered_stream] at waits

/-! ### RLSD (R51) -/

theorem State.timeRelease_idle {s : State} {n : StreamId}
    (h : s.region.engine = .halted ∨ (s.stream n).state ≠ .held ∨ (s.stream n).releaseTime = none ∨
      ∃ a, (s.stream n).releaseTime = some a ∧ s.et.toNat < a.toNat) : s.timeRelease n = s := by
  unfold State.timeRelease
  split
  · rfl
  · next able =>
    rcases h with halted | state | timeless | ⟨a, time, early⟩
    · exact absurd (by simp [State.halted, halted]) able
    · exact absurd (by simp [state]) able
    · rw [timeless]
    · rw [time]
      refine if_neg ?_
      simp [State.reached, BitVec.ule]
      omega

/-- Settles O43. -/
theorem releaseTimeReleasesTheHold : Obligations.ReleaseTimeReleasesTheHold := by
  unfold Obligations.ReleaseTimeReleasesTheHold
  refine ⟨fun n a s awake held time late => ?_, fun n s idle => congrArg Host.Outcome.next (State.timeRelease_idle idle)⟩
  dsimp only
  have ran : exec (.rlsd n) s = .next (((s.releaseHold n a).raiseAt a (.rlsd n)).markMirror n).wakeAll := by
    refine congrArg Host.Outcome.next ?_
    have able : ¬ (s.halted || (s.stream n).state != .held) = true := by simp [State.halted, awake, held]
    unfold State.timeRelease
    rw [if_neg able, time]
    exact if_pos (by simpa [State.reached, BitVec.ule] using late)
  have released := Calm.releaseHold (A := fun k => k = n) s n a rfl
  have raised := Calm.raiseAt (A := fun k => k = n) (s.releaseHold n a) a (.rlsd n)
  obtain ⟨old, added, done⟩ := State.releaseHold_released awake n a
    (u := ((s.releaseHold n a).raiseAt a (.rlsd n)).markMirror n) (by simp)
  have notified := (State.raiseAt_notified (s.releaseHold n a) a (.rlsd n)).mild
    ((Calm.markMirror (A := fun _ => True) _ n).trans (Calm.wakeAll _)).toMild
  exact ⟨_, old, added, ran, ((released.trans raised).trans (Calm.markMirror _ n)).wakeOthers, done.state, done.speed, done.time,
    done.resume, done.anchor, State.wakeAll_marked (State.markMirror_marked ..), notified, done.window, done.untimed, done.stages,
    done.times, done.projected, done.filled⟩

end Sys2Proof.Machine
end

section
/-! SUPPORT. HOLD (R49, R50) and PARK (R53). -/

namespace Sys2Proof.Machine

/-! ### What asks for no waking (R74, R75) -/

theorem State.wakeable_idle {s : State} {n : StreamId} (idle : ¬ (s.stream n).Waits) : s.wakeable n = none := by
  by_contra wakes
  obtain ⟨e, some_⟩ := Option.ne_none_iff_exists'.1 wakes
  exact idle (Calm.wakeable_waits some_)

/-- Nothing wakes once the one stream that might has been replaced by one that does not. -/
theorem State.settled_replaced {s t : State} {n : StreamId} {x : Stream} (others : ∀ k, k ≠ n → s.wakeable k = none)
    (streams : t.streams = (s.setStream n x).streams) (et : t.et = s.et) (asleep : t.wakeable n = none) : t.Settled := by
  intro k
  by_cases same : n = k
  · rwa [← same]
  · rw [State.wakeable_congr ((State.stream_congr streams k).trans (State.setStream_stream_ne s x same)) et]
    exact others k fun e => same e.symm

theorem State.Settled.replaced {s t : State} (h : s.Settled) {n : StreamId} {x : Stream}
    (streams : t.streams = (s.setStream n x).streams) (et : t.et = s.et) (asleep : t.wakeable n = none) : t.Settled :=
  State.settled_replaced (fun k _ => h k) streams et asleep

theorem Stream.idle_of_state {x : Stream} (h : x.state ≠ .seeking) (slip : x.slipEnd = none) : ¬ x.Waits :=
  fun waits => waits.elim h fun some_ => some_ slip

/-! ### HOLD (R49, R50) -/

theorem not_earlier_none (d : Deadline) : earlier none d = false := by
  cases d with
  | none => rfl
  | some t => rfl

/-- A report of the deadline "none" changes no stream (R108). -/
theorem State.reportEntry_none_streams (n : StreamId) (s : State) {e : Entry} (h : e.stage ≠ .sending → e.deadline = none) :
    (State.reportEntry n s e).streams = s.streams := by
  unfold State.reportEntry
  split
  · next frame =>
    rw [h frame.2]
    split
    · next d =>
      unfold State.reportDeadline
      split
      · rfl
      · rw [not_earlier_none, if_neg Bool.false_ne_true]
    · exact State.moveWaiter_streams ..
  · rfl

/-- The stream held (R49, R50). -/
def Stream.heldUntil (x : Stream) (time : Option Time) (resume : Bool) : Stream :=
  { x with
    state := .held, releaseTime := time, releaseResume := resume, slipEnd := none
    window := x.window.map fun e => if e.stage = .sending then e else { e with deadline := none } }

theorem State.hold_streams (s : State) (n : StreamId) (time : Option Time) (resume : Bool) :
    (s.hold n time resume).streams = (s.setStream n ((s.stream n).heldUntil time resume)).streams := by
  have reports (l : List Entry) (t : State) : (∀ e ∈ l, e.stage ≠ .sending → e.deadline = none) →
      (l.foldl (State.reportEntry n) t).streams = t.streams := by
    induction l generalizing t with
    | nil => exact fun _ => rfl
    | cons e l ih =>
      intro none_
      rw [List.foldl_cons, ih _ fun f mem => none_ f (List.mem_cons_of_mem _ mem),
        State.reportEntry_none_streams n t (none_ e (List.mem_cons_self ..))]
  unfold State.hold State.retime
  dsimp only
  rw [reports]
  · rw [State.setStream_stream]
    simp only [State.setStream, Vector.set_set]
    rfl
  · intro e mem unsent
    obtain ⟨f, -, rfl⟩ := List.mem_map.1 mem
    by_cases sending : f.stage = .sending
    · rw [if_pos sending] at unsent
      exact absurd sending unsent
    · rw [if_neg sending]

theorem decideHold_eq {s : State} {n : StreamId} {b : List Byte} (running : (s.stream n).state = .running) :
    decideHold s n b =
      if u8 b 7 / 2 % 2 = 1 ∧ 2 ^ 63 ≤ u64 b 32 then refuse .badField
      else if u8 b 7 / 2 % 2 = 1 ∧ u64 b 32 ≤ s.et.toNat then refuse .notHeld
      else ⟨.ok, 0, fun t => (t.hold n (if u8 b 7 / 2 % 2 = 1 then some (BitVec.ofNat 64 (u64 b 32)) else none)
        (decide (u8 b 7 / 4 % 2 = 1))).markMirror n⟩ := by
  have resume : resumeFlag b = decide (u8 b 7 / 4 % 2 = 1) := by simp [resumeFlag, beq_eq_decide]
  unfold decideHold
  rw [if_neg fun other => other running, resume]
  simp only [timeFlag, beq_iff_eq]

/-- Settles O33. -/
theorem holdHoldsTheStream : Obligations.HoldHoldsTheStream := by
  unfold Obligations.HoldHoldsTheStream
  intro c r s n h
  dsimp only
  intro long hn action running
  have decision : decideXprt s r.body = _ :=
    (decideXprt_action s hn).trans ((congrArg (xprtAction s n r.body) action).trans (decideHold_eq running))
  refine ⟨fun flag far => (h.xprt long).refused (decision.trans (if_pos ⟨flag, far⟩)), fun flag near past =>
    (h.xprt long).refused (decision.trans ((if_neg (by omega)).trans (if_pos ⟨flag, past⟩))), fun later => ?_⟩
  have hold := decision.trans ((if_neg (by omega)).trans (if_neg (by omega)))
  generalize (if u8 r.body 7 / 2 % 2 = 1 then some (BitVec.ofNat 64 (u64 r.body 32)) else none) = time at hold ⊢
  generalize decide (u8 r.body 7 / 4 % 2 = 1) = resume at hold ⊢
  have streams : (((s.answered tagXPRT r .ok 0).hold n time resume).markMirror n).streams =
      (s.setStream n ((s.stream n).heldUntil time resume)).streams := by
    rw [State.markMirror_streams, State.hold_streams, answered_stream]
    simp only [State.setStream, answered_streams]
  have calm := (Calm.hold (A := fun k => k = n) (s.answered tagXPRT r .ok 0) n time resume rfl).trans (Calm.markMirror _ n)
  have held := (State.stream_congr streams n).trans (State.setStream_stream ..)
  have settled : State.Settled (((s.answered tagXPRT r .ok 0).hold n time resume).markMirror n) := by
    refine h.settled.replaced streams (calm.et.trans (answered_et ..)) (State.wakeable_idle ?_)
    rw [held]
    exact Stream.idle_of_state (fun seeking => nomatch seeking) rfl
  refine ⟨_, (h.xprt long).done hold settled, calm, ?_, State.markMirror_marked ..⟩
  rw [held]
  exact .refl _

/-! ### PARK (R53) -/

/-- The stream parked by an order (R53). -/
def Stream.parked (x : Stream) : Stream :=
  { x.cleared with
    state := .parked, speed := 0, shown := false, releaseTime := none, releaseResume := false, locate := none }

theorem State.raiseLocd_streams (s : State) (n : StreamId) (old : Option Locate) (r : Result) :
    (s.raiseLocd n old r).streams = s.streams := by
  cases old with
  | none => rfl
  | some l => exact State.raise_streams ..

theorem Calm.raiseLocd {A : StreamId → Prop} (s : State) (n : StreamId) (old : Option Locate) (r : Result) :
    Calm A s (s.raiseLocd n old r) := by
  cases old with
  | none => exact .refl s
  | some l => exact .raise s _

theorem State.park_eq (s : State) (n : StreamId) :
    ∃ t, t.streams = (s.setStream n (s.stream n).parked).streams ∧ Calm (fun k => k = n) s t ∧
      s.park n = (t.markMirror n).raiseLocd n (s.stream n).locate .abandoned := by
  refine ⟨((s.discard n).unmarkSending n).setStream n (s.stream n).parked, ?_,
    ((Calm.discard (A := fun k => k = n) s n rfl).trans (Calm.unmarkSending _ n rfl)).trans (Calm.setStream _ n _ rfl), ?_⟩
  · have cleared := s.cleared_streams n
    simp only [State.setStream] at cleared ⊢
    rw [cleared, Vector.set_set]
  · unfold State.park
    dsimp only
    rw [s.cleared_stream n]
    rfl

theorem decidePark_parked {s : State} {n : StreamId} (h : (s.stream n).state = .parked) : decidePark s n = ⟨.ok, 0, id⟩ := by
  unfold decidePark
  rw [h]

theorem decidePark_moving {s : State} {n : StreamId}
    (h : (s.stream n).state = .running ∨ (s.stream n).state = .held ∨ (s.stream n).state = .seeking) :
    decidePark s n = ⟨.ok, 0, fun t => t.park n⟩ := by
  unfold decidePark
  rcases h with h | h | h
  all_goals rw [h]

/-- Settles O35. -/
theorem parkStopsTheStream : Obligations.ParkStopsTheStream := by
  unfold Obligations.ParkStopsTheStream
  intro c r s n h
  dsimp only
  intro long hn action
  have decision : decideXprt s r.body = decidePark s n :=
    (decideXprt_action s hn).trans (congrArg (xprtAction s n r.body) action)
  refine ⟨fun parked => (h.xprt long).idle (decision.trans (decidePark_parked parked)), fun moving => ?_⟩
  have same : (s.answered tagXPRT r .ok 0).stream n = s.stream n := answered_stream ..
  obtain ⟨t, changed, begun, park⟩ := (s.answered tagXPRT r .ok 0).park_eq n
  rw [same] at changed park
  have streams : ((s.answered tagXPRT r .ok 0).park n).streams = (s.setStream n (s.stream n).parked).streams := by
    rw [park, State.raiseLocd_streams, State.markMirror_streams, changed]
    simp only [State.setStream, answered_streams]
  have calm := (begun.trans (Calm.markMirror t n)).trans (Calm.raiseLocd _ n (s.stream n).locate .abandoned)
  rw [← park] at calm
  have parked := (State.stream_congr streams n).trans (State.setStream_stream ..)
  have settled : ((s.answered tagXPRT r .ok 0).park n).Settled := by
    refine h.settled.replaced streams (calm.et.trans (answered_et ..)) (State.wakeable_idle ?_)
    rw [parked]
    exact Stream.idle_of_state (fun seeking => nomatch seeking) rfl
  refine ⟨_, (h.xprt long).done (decision.trans (decidePark_moving moving)) settled, calm, by rw [parked]; rfl,
    by rw [parked]; rfl, by rw [parked]; rfl, by rw [parked]; rfl, by rw [parked]; rfl, by rw [parked]; rfl,
    by rw [parked]; rfl, by rw [parked]; rfl, by rw [parked]; rfl, by rw [parked]; rfl, by rw [parked]; rfl, ?_,
    fun l locating => ?_⟩
  · rw [park]
    exact (Calm.raiseLocd (A := fun _ => True) _ n _ _).region.marks (State.markMirror_marked ..)
  · have raised := (t.markMirror n).raise_notified (.locd l.ref n .abandoned l.cue l.offset)
    rw [(begun.trans (Calm.markMirror t n)).et, answered_et] at raised
    rw [park, locating]
    exact raised

end Sys2Proof.Machine
end

section
/-! SUPPORT. The beginning of a presentation (R74, R75, R95, R150): what the stream, its record and the other streams are
once an entry has begun sending on an UP port. -/

namespace Sys2Proof.Machine

/-! ### What is still owed (R151, R152) -/

/-- A presentation differs from another by what is still owed only (R151). -/
def Presentation.Owes (x y : Presentation) : Prop := y = { x with fragment := y.fragment, todo := y.todo }

theorem Presentation.Owes.trans {x y z : Presentation} (h : x.Owes y) (k : y.Owes z) : x.Owes z := by
  unfold Presentation.Owes at *
  rw [k, h]

theorem Presentation.owes_settle (x : Presentation) (rest : List Recipient) :
    x.Owes ({ x with todo := rest } : Presentation).settle := by
  rw [Presentation.settle_eq]
  split
  · rfl
  · rfl

theorem State.sendNext_record {s : State} {p : Port} {n k : StreamId} {x y : Presentation} (h : s.presentation n = some x)
    (own : k = n → y = x) : ∃ z, (s.sendNext p k y).presentation n = some z ∧ x.Owes z := by
  unfold State.sendNext
  split
  · exact ⟨x, h, rfl⟩
  · next r rest todo =>
    dsimp only
    have sent (t : State) (v : Option Viewer) :
        (match v with | some v => t.emit (.delivery p (deliveryBytes k y v (s.messageFor y r))) | none => t).presentation n =
          t.presentation n := by
      cases v with
      | none => rfl
      | some v => rfl
    by_cases same : k = n
    · subst same
      obtain rfl : x = y := (own rfl).symm
      exact ⟨_, (sent _ _).trans (State.setPresentation_presentation ..), x.owes_settle rest⟩
    · refine ⟨x, (sent _ _).trans ?_, rfl⟩
      rw [State.setPresentation_presentation_ne _ _ same, State.setPort_presentation, h]

/-- The arbiter drops no presentation record (R152). -/
theorem State.transmit_record {s : State} (p : Port) {n : StreamId} {x : Presentation} (h : s.presentation n = some x) :
    ∃ z, (s.transmit p).presentation n = some z ∧ x.Owes z := by
  unfold State.transmit
  split
  · exact ⟨x, h, rfl⟩
  · have best := s.chosenStream_best p
    cases chosen : s.chosenStream p with
    | none => exact ⟨x, h, rfl⟩
    | some b =>
      rw [chosen] at best
      refine State.sendNext_record h fun same => ?_
      have own := best.2.1.1
      rw [same, h] at own
      exact (Option.some.inj own).symm

/-! ### Beginning to send (R95, R150) -/

/-- The entry once it has begun sending (R95, R100). -/
def Entry.begun (e : Entry) (a : SentAs) : Entry :=
  { e with
    stage := .sending, sentAs := some a, ref := if isSubstitute e a then none else e.ref
    tags := if isSubstitute e a then [] else e.tags }

theorem State.handOver_streams (s : State) (n : StreamId) (e : Entry) (a : SentAs) :
    (s.handOver n e a).streams = (s.setStream n ((s.stream n).begun e a)).streams := by
  unfold State.handOver
  dsimp only
  rw [State.transmit_streams, State.setPresentation_streams]
  split
  · exact State.giveBack_streams ..
  · rfl

theorem State.handOver_stream (s : State) (n : StreamId) (e : Entry) (a : SentAs) :
    (s.handOver n e a).stream n = (s.stream n).begun e a :=
  (State.stream_congr (s.handOver_streams n e a) n).trans (State.setStream_stream ..)

theorem State.handOver_record (s : State) (n : StreamId) (e : Entry) (a : SentAs) :
    ∃ y, (s.handOver n e a).presentation n = some y ∧ (s.presentationOf (s.stream n) e a).Owes y :=
  State.transmit_record _ (State.setPresentation_presentation ..)

theorem State.begin_up {s : State} {n : StreamId} (up : (s.port (s.stream n).port).up = true) (e : Entry) (a : SentAs) :
    s.begin n e a = s.handOver n e a := by
  refine if_pos ?_
  rw [(Calm.handOver (A := fun _ => True) s n e a).links]
  exact up

theorem State.presentationOf_marked (s : State) (x : Stream) (e : Entry) (a : SentAs) :
    (s.presentationOf x e a).marked = true ↔
      (∃ k b d, a = .frame k b d) ∧ ∃ g ∈ e.tags, ∃ m : Mark, x.marks[g.slot] = some m ∧ m.serial = g.serial := by
  have live (g : Tag) : x.tagLive g = true ↔ ∃ m : Mark, x.marks[g.slot] = some m ∧ m.serial = g.serial := by
    unfold Stream.tagLive
    cases x.marks[g.slot] with
    | none => simp
    | some m => simp
  unfold State.presentationOf
  cases a with
  | frame k b d => simp [live]
  | repeated k => simp
  | fill r => simp

/-- Between a state and the one in which an entry has begun sending (R95, R150). -/
theorem State.handOver_began (s : State) (n : StreamId) (e : Entry) (a : SentAs) : s.Began (s.handOver n e a) n e a none := by
  obtain ⟨y, record, owes⟩ := s.handOver_record n e a
  have stream := s.handOver_stream n e a
  refine ⟨⟨y, record, by rw [owes]; rfl, by rw [owes]; rfl, by rw [owes]; rfl, by rw [owes]; rfl, by rw [owes]; rfl,
    by rw [owes]; rfl, by rw [owes]; rfl, by rw [owes]; rfl, ?_⟩, ⟨by rw [stream]; rfl, by rw [stream]; rfl, by rw [stream]; rfl⟩,
    ?_, by rw [stream]; rfl, by rw [stream]; rfl, by rw [stream]; rfl, fun _ _ _ none_ => nomatch none_⟩
  · rw [← s.presentationOf_marked, owes]
  · rw [stream]
    cases a with
    | frame k b d => rfl
    | repeated k => rfl
    | fill r => rfl

/-! ### What is SENDING (R150) -/

theorem Stream.begun_sending {x : Stream} {e : Entry} {a : SentAs} (idle : x.sendingEntry = none)
    (here : ∃ y ∈ x.window, y.tick = e.tick) : (x.begun e a).sendingEntry = some (e.begun a) := by
  have unsent : ∀ y ∈ x.window, y.stage ≠ .sending := by
    unfold Stream.sendingEntry at idle
    simpa using List.find?_eq_none.1 idle
  have window : (x.begun e a).window = x.window.map fun y => if y.tick = e.tick then e.begun a else y := rfl
  unfold Stream.sendingEntry
  rw [window]
  clear window idle
  obtain ⟨y, mem, tick⟩ := here
  generalize x.window = l at unsent mem ⊢
  induction l with
  | nil => cases mem
  | cons z l ih =>
    rw [List.map_cons]
    by_cases same : z.tick = e.tick
    · rw [if_pos same]
      exact List.find?_cons_of_pos rfl
    · rw [if_neg same, List.find?_cons_of_neg (by simpa using unsent z (List.mem_cons_self ..))]
      refine ih (fun w k => unsent w (List.mem_cons_of_mem _ k)) ((List.mem_cons.1 mem).resolve_left fun first => ?_)
      exact same (first ▸ tick)

theorem State.wakeable_sending {s : State} {n : StreamId} {e : Entry} (h : (s.stream n).sendingEntry = some e) :
    s.wakeable n = none := by
  unfold State.wakeable
  dsimp only
  split
  · rfl
  · simp [h]

theorem Stream.mem_of_unsent {x : Stream} {e : Entry} {rest : List Entry} (h : x.unsent = e :: rest) : e ∈ x.window := by
  have mem : e ∈ x.unsent := by rw [h]; exact List.mem_cons_self ..
  exact List.mem_of_mem_filter mem

/-- Nothing wakes once the one stream that might has begun sending. -/
theorem State.handOver_settled {s : State} {n : StreamId} {e : Entry} {a : SentAs}
    (others : ∀ k, k ≠ n → s.wakeable k = none) (idle : (s.stream n).sendingEntry = none)
    (here : ∃ y ∈ (s.stream n).window, y.tick = e.tick) : (s.handOver n e a).Settled := by
  refine State.settled_replaced others (s.handOver_streams n e a) (Calm.handOver (A := fun _ => True) s n e a).et
    (State.wakeable_sending (e := e.begun a) ?_)
  rw [s.handOver_stream]
  exact Stream.begun_sending idle here

/-! ### One stream wakes (R74, R75) -/

theorem wakeLoop_settled (fuel : Nat) {s : State} (h : s.Settled) : wakeLoop fuel s = s := by
  cases fuel with
  | zero => rfl
  | succ fuel =>
    have none_ : allStreams.findSome? (fun n => (s.wakeable n).map fun e => (n, e)) = none :=
      List.findSome?_eq_none_iff.2 fun n _ => by rw [h n]; rfl
    unfold wakeLoop
    rw [none_]

/-- The one stream that may wake does so first. -/
theorem State.wakeAll_first {s : State} {n : StreamId} {e : Entry} (others : ∀ k, k ≠ n → s.wakeable k = none)
    (wakes : s.wakeable n = some e) : s.wakeAll = wakeLoop 255 (s.wake n e) := by
  have found : allStreams.findSome? (fun k => (s.wakeable k).map fun f => (k, f)) = some (n, e) := by
    have some_ : (allStreams.findSome? fun k => (s.wakeable k).map fun f => (k, f)) ≠ none := fun none_ => by
      have asleep := List.findSome?_eq_none_iff.1 none_ n (List.mem_finRange n)
      rw [wakes] at asleep
      cases asleep
    obtain ⟨b, hb⟩ := Option.ne_none_iff_exists'.1 some_
    obtain ⟨k, -, hk⟩ := List.exists_of_findSome?_eq_some hb
    obtain ⟨f, hf, rfl⟩ := Option.map_eq_some_iff.1 hk
    by_cases same : k = n
    · subst same
      rw [wakes] at hf
      cases hf
      exact hb
    · rw [others k same] at hf
      cases hf
  conv_lhs =>
    unfold State.wakeAll wakeLoop
    rw [found]

theorem State.wakeAll_one {s : State} {n : StreamId} {e : Entry} (others : ∀ k, k ≠ n → s.wakeable k = none)
    (wakes : s.wakeable n = some e) (after : (s.wake n e).Settled) : s.wakeAll = s.wake n e :=
  (State.wakeAll_first others wakes).trans (wakeLoop_settled 255 after)

/-- The entry of a stream whose frame is settled begins sending, if the stream waits for it (R74, R75). -/
theorem State.wakeable_eq {s : State} {n : StreamId} {e : Entry} {rest : List Entry} (first : (s.stream n).unsent = e :: rest)
    (settled : e.stage = .ready ∨ e.stage = .failed) (idle : (s.stream n).sendingEntry = none)
    (waits : (s.stream n).state = .seeking ∧ e.locate = true ∨
      (s.stream n).state = .running ∧ ∃ t, (s.stream n).slipEnd = some t ∧ s.et.toNat ≤ t.toNat) :
    s.wakeable n = some e := by
  have stage : (e.stage == .ready || e.stage == .failed) = true := by simpa using settled
  have wait : ((s.stream n).state == .seeking && e.locate || s.inWait (s.stream n)) = true := by
    rcases waits with ⟨seeking, locate⟩ | ⟨running, t, slip, early⟩
    · simp [seeking, locate]
    · simp [State.inWait, running, slip, BitVec.ule, early]
  unfold State.wakeable
  dsimp only
  rw [first]
  dsimp only
  rw [stage, idle, wait]
  rfl

/-! ### What an entry is sent as (R95) -/

theorem State.TurnSends.settled {s : State} {n : StreamId} {e : Entry} {a : SentAs} (h : s.TurnSends n e a none) :
    (e.stage = .failed ∧ a = .fill .failed) ∨ (e.stage = .ready ∧ a = s.ownKind e) := by
  rcases h with failed | ⟨ready, own⟩
  · exact .inl failed
  · refine .inr ⟨ready, ?_⟩
    unfold State.ownKind
    rcases own with ⟨k, d, y, kind, frame, ref, entry, rfl⟩ | ⟨k, kind, frame, rfl⟩ | ⟨kind, rfl⟩
    · rw [kind, frame, ref]
      dsimp only
      rw [entry]
    · rw [kind, frame]
    · rw [kind]

end Sys2Proof.Machine
end

section
/-! SUPPORT. Locates (R55 to R58, R74). -/

namespace Sys2Proof.Machine

/-! ### A locate begins (R55) -/

/-- The stream with a locate recorded, before the locate entry is projected (R55). -/
def Stream.seeking (x : Stream) (l : Locate) : Stream :=
  { x.cleared with state := .seeking, speed := 0, releaseTime := none, releaseResume := false, locate := some l }

theorem State.beginSeek_eq (s : State) (n : StreamId) (l : Locate) :
    ∃ t, t.stream n = (s.stream n).seeking l ∧ Calm (fun k => k = n) s t ∧
      ((s.stream n).state ≠ .seeking → t.region.marks[n] = true) ∧
      (∀ m, (s.stream n).locate = some m → t.Notified (.locd m.ref n .superseded m.cue m.offset) s.et) ∧
      s.beginSeek n l = t.projectLocateIfDue n := by
  set u := ((s.discard n).unmarkSending n).setStream n ((s.stream n).seeking l)
  have begun : Calm (fun k => k = n) s u :=
    ((Calm.discard (A := fun k => k = n) s n rfl).trans (Calm.unmarkSending _ n rfl)).trans (Calm.setStream _ n _ rfl)
  set v := if (s.stream n).state == .seeking then u else u.markMirror n with hv
  have marked : Calm (fun k => k = n) u v := (Calm.refl u).ite (Calm.markMirror u n)
  have streams : v.streams = u.streams := by
    rw [hv]
    split
    · rfl
    · rfl
  refine ⟨v.raiseLocd n (s.stream n).locate .superseded, ?_, (begun.trans marked).trans (Calm.raiseLocd ..), fun other => ?_,
    fun m locating => ?_, ?_⟩
  · rw [State.stream_congr ((State.raiseLocd_streams ..).trans streams)]
    exact State.setStream_stream ..
  · refine (Calm.raiseLocd (A := fun _ => True) v n _ _).region.marks ?_
    rw [hv, if_neg (by simpa using other)]
    exact State.markMirror_marked ..
  · have raised := v.raise_notified (.locd m.ref n .superseded m.cue m.offset)
    rw [(begun.trans marked).et] at raised
    rw [locating]
    exact raised
  · unfold State.beginSeek
    dsimp only
    rw [s.cleared_stream n]
    rfl

/-- The locate entry of a locate (R56, R74). -/
theorem State.locateEntry_fields (s : State) (x : Stream) (l : Locate) :
    (s.locateEntry x l).tick = x.nextTick ∧ (s.locateEntry x l).cue = l.cue ∧ (s.locateEntry x l).offset = l.offset ∧
      (s.locateEntry x l).cls = .scrub ∧ (s.locateEntry x l).locate = true ∧ (s.locateEntry x l).deliver = l.decided ∧
      (s.locateEntry x l).deadline = if (s.locateEntry x l).kind = .frame then some l.decided else none := by
  unfold State.locateEntry
  dsimp only
  obtain ⟨tags, same⟩ := x.tagged_eq
    { s.entryAt x ⟨l.cue, l.offset, [], locateReloads l.cue 0 x.cues, none⟩ with
      index := 0, deliver := l.decided
      deadline := if (s.entryAt x ⟨l.cue, l.offset, [], locateReloads l.cue 0 x.cues, none⟩).kind = .frame then
        some l.decided else none
      cls := .scrub, direction := .none, locate := true }
  rw [same]
  exact ⟨rfl, rfl, rfl, rfl, rfl, rfl, rfl⟩

theorem Stream.kept_none {x : Stream} (h : x.sendingEntry = none) : x.kept = [] := by
  unfold Stream.kept
  unfold Stream.sendingEntry at h
  rw [List.filter_eq_nil_iff.2 (by simpa using List.find?_eq_none.1 h)]
  rfl

/-- What is SENDING stays SENDING in a cleared window (R97). -/
theorem Stream.cleared_sending (x : Stream) : x.cleared.sendingEntry.isSome = x.sendingEntry.isSome := by
  have window : x.cleared.window = x.kept := rfl
  have stage : ((fun e : Entry => e.stage == .sending) ∘ fun e : Entry => { e with listEnd := none }) = fun e => e.stage == .sending := rfl
  unfold Stream.sendingEntry
  rw [window, Stream.kept, List.find?_map, stage, Option.isSome_map, List.find?_filter]
  simp only [and_self, Bool.decide_eq_true]

/-- The stream once its locate entry is projected (R56). -/
theorem State.projectLocate_alike {s : State} {n : StreamId} {l : Locate} (locating : (s.stream n).locate = some l) :
    ∃ p, Stream.Alike
      { s.stream n with
        nextTick := (s.stream n).nextTick + 1, locate := some { l with projected := true }, proj := p
        window := (s.stream n).window ++ [s.locateEntry (s.stream n) l] }
      ((s.projectLocate n).stream n) := by
  unfold State.projectLocate
  dsimp only
  rw [locating]
  dsimp only
  set e := s.locateEntry (s.stream n) l
  refine ⟨{ (s.stream n).proj with
      counters := applyToCounters e.changes (s.stream n).proj.counters
      prev := if e.kind = .frame then e.frame else (s.stream n).proj.prev }, ?_⟩
  have asked := State.ask_alike (s.setStream n
    { s.stream n with
      nextTick := (s.stream n).nextTick + 1, locate := some { l with projected := true }
      proj := { (s.stream n).proj with
        counters := applyToCounters e.changes (s.stream n).proj.counters
        prev := if e.kind = .frame then e.frame else (s.stream n).proj.prev }
      window := (s.stream n).window ++ [e] }) n e
  rw [State.setStream_stream] at asked
  exact asked

/-- A locate as its order leaves it (R55, R56). -/
structure Stream.Seeks (x y : Stream) (l : Locate) (projected : Bool) : Prop where
  state : y.state = .seeking
  speed : y.speed = 0
  time : y.releaseTime = none
  slip : y.slipEnd = none
  locate : y.locate = some { l with projected := projected }
  busy : x.sendingEntry.isSome = true → projected = false ∧ y.window.map Entry.core = x.kept.map Entry.core
  free : x.sendingEntry = none → projected = true ∧
    ∃ e : Entry, y.window.map Entry.core = [e.core] ∧ e.tick = x.nextTick ∧ e.cue = l.cue ∧ e.offset = l.offset ∧
      e.cls = .scrub ∧ e.locate = true ∧ e.deliver = l.decided ∧
      e.deadline = if e.kind = .frame then some l.decided else none

theorem State.projectLocateIfDue_seeks {s : State} {n : StreamId} {x : Stream} {l : Locate} (seeking : s.stream n = x.seeking l)
    (fresh : l.projected = false) : ∃ projected, x.Seeks ((s.projectLocateIfDue n).stream n) l projected := by
  have locating : (s.stream n).locate = some l := by rw [seeking]; rfl
  have sending : (s.stream n).sendingEntry.isSome = x.sendingEntry.isSome := by
    rw [seeking]
    exact x.cleared_sending
  unfold State.projectLocateIfDue
  dsimp only
  rw [locating]
  dsimp only
  split
  · next due =>
    obtain ⟨p, alike⟩ := State.projectLocate_alike locating
    have idle : x.sendingEntry = none := by
      rw [due.2.2] at sending
      simpa using sending.symm
    rw [seeking] at alike
    have window := alike.2
    obtain ⟨tick, cue, offset, cls, locate, deliver, deadline⟩ := s.locateEntry_fields (x.seeking l) l
    refine ⟨true, by rw [alike.1]; rfl, by rw [alike.1]; rfl, by rw [alike.1]; rfl, by rw [alike.1]; rfl, by rw [alike.1],
      fun busy => ?_, fun _ => ⟨rfl, s.locateEntry (x.seeking l) l, ?_, tick, cue, offset, cls, locate, deliver, deadline⟩⟩
    · rw [idle] at busy
      cases busy
    · rw [window, show (x.seeking l).window = x.kept from rfl, x.kept_none idle]
      rfl
  · next undue =>
    have busy : x.sendingEntry.isSome = true := by
      rw [← sending]
      by_contra idle
      exact undue ⟨by rw [seeking]; rfl, fresh, by simpa using idle⟩
    rw [seeking]
    refine ⟨false, rfl, rfl, rfl, rfl, by rw [← fresh]; rfl, fun _ => ⟨rfl, rfl⟩, fun idle => ?_⟩
    rw [idle] at busy
    cases busy

/-! ### LOCATE and STEP (R55, R58) -/

/-- Where a LOCATE or a STEP goes, and at what speed it plays then (R55, R58). -/
def Stream.Seek (x : Stream) (b : List Byte) (target : Nat × Nat × Bool) (speed : Int) : Prop :=
  u8 b 5 = 5 ∧ x.state ≠ .closed ∧ u8 b 6 ≤ 1 ∧ (u8 b 6 = 1 → s16 b 10 ≠ 0) ∧
      target = clampPosition x.cues (u8 b 13) (u32 b 16) ∧
      speed = (if u8 b 6 = 1 then max (-256) (min 256 (s16 b 10)) else 0) ∨
    u8 b 5 = 6 ∧ x.state = .parked ∧ s8 b 12 ≠ 0 ∧ -32 ≤ s8 b 12 ∧ s8 b 12 ≤ 32 ∧
      target = stepTarget x.cues x.cue x.offset (s8 b 12) ∧ speed = 0

theorem decideSeek {s : State} {n : StreamId} {b : List Byte} {target : Nat × Nat × Bool} {speed : Int}
    (h : (s.stream n).Seek b target speed) :
    xprtAction s n b (u8 b 5) =
      ⟨if target.2.2 = true ∨ (u8 b 5 = 5 ∧ u8 b 6 = 1) ∧ speed ≠ s16 b 10 then .clamped else .ok, 0, fun t =>
        t.beginSeek n ⟨target.1, target.2.1, decide (u8 b 5 = 5 ∧ u8 b 6 = 1), speed, reference b, t.et, false⟩⟩ := by
  rcases h with ⟨action, opened, low, moving, rfl, rfl⟩ | ⟨action, parked, moving, low, high, rfl, rfl⟩
  · rw [action]
    unfold xprtAction decideLocate
    dsimp only
    rw [if_neg opened, if_neg (by omega)]
    by_cases play : u8 b 6 = 1
    · simp only [play, clampSpeed_eq, okOr, beq_self_eq_true, if_true, and_self, decide_true, true_and]
      simp only [Bool.or_eq_true, decide_eq_true_eq, or_comm]
    · simp only [play, okOr, beq_iff_eq, if_false, and_false, decide_false, false_and, or_false, Bool.false_or]
      simp only [beq_eq_false_iff_ne.2 play]
  · rw [action]
    unfold xprtAction decideStep
    dsimp only
    rw [if_neg (fun other => other parked), if_neg (by omega)]
    simp [okOr]

/-- The order of a locate, carried out (R55 to R58). -/
theorem State.Takes.seeks {c : Instr} {r : Record} {s : State} {n : StreamId} {target : Nat × Nat × Bool} {speed : Int}
    {code : Result} {play : Bool} (h : s.Takes c tagXPRT r) (long : 40 ≤ r.body.length)
    (decision : decideXprt s r.body = ⟨code, 0, fun t =>
      t.beginSeek n ⟨target.1, target.2.1, play, speed, reference r.body, t.et, false⟩⟩) :
    ∃ (u : State) (projected : Bool), exec c s = .next u.wakeAll ∧ Calm (fun k => k = n) (s.answered tagXPRT r code 0) u ∧
      (s.stream n).Seeks (u.stream n) ⟨target.1, target.2.1, play, speed, reference r.body, s.et, false⟩ projected ∧
      ((s.stream n).state ≠ .seeking → u.region.marks[n] = true) ∧
      (∀ l, (s.stream n).locate = some l → u.Notified (.locd l.ref n .superseded l.cue l.offset) s.et) := by
  have ran := (h.xprt long).carried decision
  rw [answered_et] at ran
  obtain ⟨t, seeking, begun, marked, notified, sought⟩ := (s.answered tagXPRT r code 0).beginSeek_eq n
    ⟨target.1, target.2.1, play, speed, reference r.body, s.et, false⟩
  rw [answered_stream] at seeking marked notified
  rw [answered_et] at notified
  rw [sought] at ran
  obtain ⟨projected, seeks⟩ := State.projectLocateIfDue_seeks seeking rfl
  have due := Calm.projectLocateIfDue (A := fun k => k = n) t n rfl
  exact ⟨_, projected, ran, begun.trans due, seeks, fun other => due.region.marks (marked other),
    fun l locating => (notified l locating).mild due.toMild⟩

/-- Settles O36. -/
theorem locateAndStepSeek : Obligations.LocateAndStepSeek := by
  unfold Obligations.LocateAndStepSeek
  constructor
  · intro c r s n target speed h
    dsimp only
    intro long hn seek
    obtain ⟨u, projected, ran, calm, seeks, marked, notified⟩ :=
      h.seeks long ((decideXprt_action s hn).trans (decideSeek seek))
    exact ⟨u, projected, ran, calm, seeks.state, seeks.speed, seeks.time, seeks.slip, seeks.locate, seeks.busy, seeks.free,
      marked, notified⟩
  · intro n e a s others seeking first idle locate up sends
    obtain ⟨rest, first⟩ := first
    have here : ∃ y ∈ (s.stream n).window, y.tick = ({ e with deliver := s.et } : Entry).tick :=
      ⟨e, Stream.mem_of_unsent first, rfl⟩
    have wakes : s.wakeable n = some e := State.wakeable_eq first
      (sends.settled.elim (fun failed => .inr failed.1) fun ready => .inl ready.1) idle (.inl ⟨seeking, locate⟩)
    have wake : s.wake n e = s.handOver n { e with deliver := s.et } a := by
      refine (if_pos seeking).trans ?_
      unfold State.beginLocate
      dsimp only
      rw [State.begin_up up]
      rcases sends.settled with ⟨failed, rfl⟩ | ⟨ready, rfl⟩
      · rw [if_pos failed]
      · rw [if_neg (by rw [ready]; decide)]
    have woken : s.wakeAll = s.handOver n { e with deliver := s.et } a :=
      (State.wakeAll_one others wakes (wake ▸ State.handOver_settled others idle here)).trans wake
    rw [woken]
    exact ⟨Calm.handOver s n _ a rfl, s.handOver_began n _ a, by rw [s.handOver_stream]; exact seeking⟩

end Sys2Proof.Machine
end

section
/-! SUPPORT. What an operation leaves of presentation records and of LATE notices (R15, R150): the operations of the blocks
drop and make no record but that of the stream they concern, and raise LATE only for a stream whose late policy they apply. -/

namespace Sys2Proof.Machine

/-- The stream that a LATE notice is about (R155). -/
def NoticeBody.lateOf : NoticeBody → Option StreamId
  | .late n .. => some n
  | _ => none

/-- The presentation records of the streams of which `A` does not hold stay, but for what is still owed, and no others come; and of the streams of
which `B` does not hold no LATE is raised. -/
structure Spares (A B : StreamId → Prop) (s t : State) : Prop where
  record : ∀ n, ¬ A n → ∀ x, s.presentation n = some x → ∃ y, t.presentation n = some y ∧ x.Owes y
  quiet : ∀ n, ¬ A n → s.presentation n = none → t.presentation n = none
  late : ∀ n, ¬ B n → ∀ b ∈ t.region.notices, b.body.lateOf = some n → b ∈ s.region.notices

namespace Spares

variable {A B : StreamId → Prop}

theorem refl (s : State) : Spares A B s s := ⟨fun _ _ x h => ⟨x, h, rfl⟩, fun _ _ h => h, fun _ _ _ h _ => h⟩

theorem trans {a b c : State} (h : Spares A B a b) (k : Spares A B b c) : Spares A B a c where
  record n free x held := by
    obtain ⟨y, middle, one⟩ := h.record n free x held
    obtain ⟨z, last, two⟩ := k.record n free y middle
    exact ⟨z, last, one.trans two⟩
  quiet n free none_ := k.quiet n free (h.quiet n free none_)
  late n free b mem about := h.late n free b (k.late n free b mem about) about

theorem mono {C D : StreamId → Prop} {s t : State} (h : Spares A B s t) (a : ∀ n, A n → C n) (b : ∀ n, B n → D n) :
    Spares C D s t :=
  ⟨fun n free => h.record n fun k => free (a n k), fun n free => h.quiet n fun k => free (a n k),
    fun n free => h.late n fun k => free (b n k)⟩

theorem foldl {α : Type} {f : State → α → State} (h : ∀ s x, Spares A B s (f s x)) (l : List α) (s : State) :
    Spares A B s (l.foldl f s) := by
  induction l generalizing s with
  | nil => exact refl s
  | cons x rest ih => exact (h s x).trans (ih _)

theorem ite {c : Prop} [Decidable c] {s a b : State} (ha : Spares A B s a) (hb : Spares A B s b) :
    Spares A B s (if c then a else b) := by
  split
  · exact ha
  · exact hb

/-- An operation that has nothing to do with presentation records and notices. -/
theorem ofSame {s t : State} (h : t.egress.presentations = s.egress.presentations := by rfl)
    (k : t.region.notices = s.region.notices := by rfl) : Spares A B s t where
  record n _ x held := ⟨x, by simpa [State.presentation, h] using held, rfl⟩
  quiet n _ none_ := by simpa [State.presentation, h] using none_
  late _ _ _ mem _ := k ▸ mem

theorem raiseAt (s : State) (at_ : Time) (b : NoticeBody) (h : ∀ n, b.lateOf = some n → B n := by exact fun _ h => nomatch h) :
    Spares A B s (s.raiseAt at_ b) where
  record n _ x held := ⟨x, by simpa [State.presentation] using held, rfl⟩
  quiet n _ none_ := by simpa [State.presentation] using none_
  late n free m mem about := by
    rcases s.raiseAt_region_cases at_ b with same | ⟨-, -, more⟩
    · rw [same] at mem
      exact mem
    · rw [more] at mem
      rcases List.mem_append.1 mem with old | new
      · exact old
      · obtain rfl := List.mem_singleton.1 new
        exact absurd (h n about) free

theorem raise (s : State) (b : NoticeBody) (h : ∀ n, b.lateOf = some n → B n := by exact fun _ h => nomatch h) :
    Spares A B s (s.raise b) := raiseAt s s.et b h

theorem draw (s : State) : Spares A B s s.draw := ofSame

theorem setPort (s : State) (p : Port) (x : PortState) : Spares A B s (s.setPort p x) :=
  ofSame (by cases p <;> rfl) (by simp)

theorem setPresentation (s : State) (n : StreamId) (x : Option Presentation) (h : A n) :
    Spares A B s (s.setPresentation n x) where
  record k free y held := by
    have other : n ≠ k := fun same => free (same ▸ h)
    exact ⟨y, by rwa [State.setPresentation_presentation_ne s x other], rfl⟩
  quiet k free none_ := by
    have other : n ≠ k := fun same => free (same ▸ h)
    rwa [State.setPresentation_presentation_ne s x other]
  late _ _ _ mem _ := mem

theorem transmit (s : State) (p : Port) : Spares A B s (s.transmit p) where
  record n _ x held := State.transmit_record p held
  quiet n _ := (Calm.transmit (A := fun _ => False) s p).quiet n id
  late _ _ b mem _ := by
    have same : (s.transmit p).region = s.region := by
      unfold State.transmit
      split
      · rfl
      · cases s.chosenStream p with
        | none => rfl
        | some c =>
          unfold State.sendNext
          dsimp only
          split
          · rfl
          · split
            · simp
            · simp
    rwa [same] at mem

/-! ### The directory and the dispatcher -/

theorem freeIfDone (s : State) (d : Nat) : Spares A B s (s.freeIfDone d) := by
  unfold State.freeIfDone
  split
  · exact refl s
  · exact ite ofSame (refl s)

theorem countDown (s : State) (d : Nat) : Spares A B s (s.countDown d) := by
  unfold State.countDown
  split
  · exact refl s
  · exact ofSame

theorem dropChunk (s : State) (c : Chunk) : Spares A B s (s.dropChunk c) := ofSame

theorem withdrawQueued (s : State) (d : Nat) : Spares A B s (s.withdrawQueued d) :=
  foldl (fun s c => ((dropChunk s c).trans (countDown _ c.frame)).trans (freeIfDone _ c.frame)) _ s

theorem report (s : State) (d : Nat) (g : Stage) : Spares A B s (s.report d g) := foldl (fun _ _ => ofSame) _ s

theorem failEntry (s : State) (d : Nat) (c : Cause) (k : Option (MemberId × Nat)) : Spares A B s (s.failEntry d c k) := by
  unfold State.failEntry
  split
  · exact refl s
  · next e _ =>
    have failed : Spares A B s (s.setDir { e with state := .failed, cause := some c }) := ofSame
    exact ((failed.trans (withdrawQueued _ d)).trans (report _ d .failed)).trans
      ((ite (refl _) (raise _ _)).trans (freeIfDone _ d))

theorem settleFailed (s : State) (c : Chunk) (k : Cause) : Spares A B s (s.settleFailed c k) := by
  refine ((dropChunk s c).trans (countDown _ c.frame)).trans ?_
  unfold State.settleFailed
  dsimp only
  split
  · exact refl _
  · exact ite (failEntry _ _ _ _) (freeIfDone _ _)

theorem opportunity (s : State) (m : MemberId) : Spares A B s (s.opportunity m) := by
  have loop (fuel : Nat) (s : State) : Spares A B s (arbiterLoop m fuel s) := by
    induction fuel generalizing s with
    | zero => exact refl s
    | succ fuel ih =>
      unfold arbiterLoop
      split
      · split
        · exact refl s
        · next c _ =>
          split
          · exact (settleFailed s c _).trans (ih _)
          · split
            · exact refl s
            · next t _ =>
              have issued : Spares A B s (s.issue m t c) := ofSame
              exact issued.trans (ih _)
      · exact refl s
  exact loop _ s

theorem touched (s : State) (d : Nat) : Spares A B s (s.touched d) := foldl (fun s m => ite (opportunity s m) (refl s)) _ s

/-! ### The frame buffer -/

theorem moveWaiter (s : State) (p : Waiter → Bool) (d : Deadline) : Spares A B s (s.moveWaiter p d) := by
  unfold State.moveWaiter
  split
  · exact refl s
  · exact ite (refl s) ofSame

theorem putDeadline (s : State) (e : DirEntry) (d : Deadline) : Spares A B s (s.putDeadline e d) := by
  have put : Spares A B s
      ((s.setDir { e with deadline := d }).changeChunks e.id fun c => { c with deadline := d }) := ofSame
  exact put.trans (ite (moveWaiter _ _ _) (refl _))

theorem reportDeadline (s : State) (d : Nat) (new : Deadline) : Spares A B s (s.reportDeadline d new) := by
  unfold State.reportDeadline
  split
  · exact refl s
  · exact ite ((putDeadline s _ _).trans (touched _ _)) (refl s)

theorem bringDeadline (s : State) (d : Nat) (new : Deadline) : Spares A B s (s.bringDeadline d new) := by
  unfold State.bringDeadline
  split
  · exact refl s
  · exact ite (putDeadline s _ _) (refl s)

theorem bringCls (s : State) (d : Nat) (new : Cls) : Spares A B s (s.bringCls d new) := by
  unfold State.bringCls
  split
  · exact refl s
  · exact ite ofSame (refl s)

theorem hit (s : State) (e : DirEntry) (d : Deadline) (c : Cls) : Spares A B s (s.hit e d c) := by
  have counted : Spares A B s ((s.setDir { e with users := e.users + 1 }).setBuffer
      { (s.setDir { e with users := e.users + 1 }).buffer with
        reclaim := (s.setDir { e with users := e.users + 1 }).buffer.reclaim.filter (· != e.id) }) := ofSame
  exact ((counted.trans (bringDeadline _ _ _)).trans (bringCls _ _ _)).trans (ite (touched _ _) (refl _))

theorem release (s : State) (d : Nat) : Spares A B s (s.release d) := by
  have idle (s : State) (e : DirEntry) : Spares A B s (s.idle e) := by
    unfold State.idle
    split
    · exact (withdrawQueued s _).trans (freeIfDone _ _)
    · split
      · exact ofSame
      · exact freeIfDone s _
      · refine (putDeadline s e none).trans ?_
        dsimp only
        split
        · exact ofSame
        · exact refl _
  unfold State.release
  split
  · exact refl s
  · next e _ =>
    have fewer : Spares A B s (s.setDir { e with users := e.users - 1 }) := ofSame
    exact fewer.trans (ite (idle _ _) (refl _))

theorem giveBack (n : StreamId) (s : State) (e : Entry) : Spares A B s (State.giveBack n s e) := by
  unfold State.giveBack
  split
  · exact release s _
  · exact ofSame

/-! ### Windows -/

theorem ask (s : State) (n : StreamId) (e : Entry) : Spares A B s (s.ask n e) := by
  unfold State.ask
  split
  · split
    · next d _ =>
      have changed : Spares A B s (s.changeEntry n e.tick fun x => { x with stage := d.stageOf, ref := some d.id }) := ofSame
      exact changed.trans (hit _ _ _ _)
    · exact ofSame
  · exact refl s

theorem setStream (s : State) (n : StreamId) (x : Stream) : Spares A B s (s.setStream n x) := ofSame

theorem project (s : State) (n : StreamId) : Spares A B s (s.project n) := by
  have loop (fuel : Nat) (s : State) : Spares A B s (projectLoop n fuel s) := by
    induction fuel generalizing s with
    | zero => exact refl s
    | succ fuel ih =>
      unfold projectLoop
      exact ite (((setStream s n _).trans (ask _ n _)).trans (ih _)) (refl s)
  exact loop 16 s

theorem projectLocateIfDue (s : State) (n : StreamId) : Spares A B s (s.projectLocateIfDue n) := by
  unfold State.projectLocateIfDue
  dsimp only
  split
  · exact refl s
  · refine ite ?_ (refl s)
    unfold State.projectLocate
    dsimp only
    split
    · exact refl s
    · exact (setStream s n _).trans (ask _ n _)

theorem discard (s : State) (n : StreamId) : Spares A B s (s.discard n) := (setStream s n _).trans (foldl (giveBack n) _ _)

theorem retime (s : State) (n : StreamId) (w : List Entry) : Spares A B s (s.retime n w) := by
  refine (setStream s n _).trans (foldl (fun s e => ?_) _ _)
  unfold State.reportEntry
  refine ite ?_ (refl s)
  split
  · exact reportDeadline s _ _
  · exact moveWaiter s _ _

theorem hold (s : State) (n : StreamId) (t : Option Time) (r : Bool) : Spares A B s (s.hold n t r) :=
  (setStream s n _).trans (retime _ n _)

/-! ### Streams -/

theorem setShown (s : State) (n : StreamId) (e : Entry) : Spares A B s (s.setShown n e) := by
  unfold State.setShown
  split
  · exact ofSame
  · exact ofSame

theorem evalTag (n : StreamId) (e : Entry) (s : State) (g : Tag) : Spares A B s (State.evalTag n e s g) := by
  unfold State.evalTag
  split
  · exact ite ((setStream s n _).trans (ite (raise _ _) (refl _))) (refl s)
  · exact refl s

theorem parkAtEnd (s : State) (n : StreamId) (e : Entry) (w : ListEnd) : Spares A B s (s.parkAtEnd n e w) := by
  have parked := (setStream (A := A) (B := B) s n { s.stream n with
    state := .parked, speed := 0, shown := false, slipEnd := none, releaseTime := none, releaseResume := false }).trans
      (discard _ n)
  unfold State.parkAtEnd
  dsimp only
  split
  · exact parked.trans (raise _ _)
  · exact parked.trans ((raise _ _).trans (draw _))

theorem consequences (s : State) (n : StreamId) (e : Entry) : Spares A B s (s.consequences n e) := by
  unfold State.consequences
  split
  · exact parkAtEnd s n e _
  · split
    · exact ite ((raise s _).trans (setStream _ n _)) (refl s)
    · exact refl s

theorem holdByMark (s : State) (n : StreamId) (e : Entry) (f : Option (Fin 8)) : Spares A B s (s.holdByMark n e f) := by
  unfold State.holdByMark
  split
  · exact refl s
  · exact ite ((hold s n none true).trans (raise _ _)) (refl s)

theorem finish (s : State) (n : StreamId) (i : Bool) : Spares A B s (s.finish n i) := by
  cases sending : (s.stream n).sendingEntry with
  | none =>
    rw [State.finish_idle i sending]
    exact refl s
  | some e =>
    rw [State.finish_sending i sending]
    have released (t : State) (r : Option Nat) : Spares A B t (match r with | some d => t.release d | none => t) := by
      cases r with
      | none => exact refl t
      | some d => exact release t d
    exact ((setShown s n e).trans (foldl (evalTag n e) _ _)).trans
      ((((((setStream _ n _).trans (released _ _)).trans (consequences _ n e)).trans (holdByMark _ n e _)).trans
        (project _ n)).trans ((projectLocateIfDue _ n).trans ofSame))

theorem endPresentation (s : State) (n : StreamId) (i : Bool) (h : A n) : Spares A B s (s.endPresentation n i) :=
  (setPresentation s n none h).trans (finish _ n i)

theorem handOver (s : State) (n : StreamId) (e : Entry) (a : SentAs) (h : A n) : Spares A B s (s.handOver n e a) :=
  (((setStream s n _).trans (ite (giveBack n _ e) (refl _))).trans (setPresentation _ n _ h)).trans (transmit _ _)

theorem begin (s : State) (n : StreamId) (e : Entry) (a : SentAs) (h : A n) : Spares A B s (s.begin n e a) :=
  (handOver s n e a h).trans (ite (refl _) (endPresentation _ n true h))

theorem applyLate (s : State) (n : StreamId) (e : Entry) (o : LateOutcome) (w : Time) (h : B n) :
    Spares A B s (s.applyLate n e o w) := by
  refine (setStream s n { s.stream n with lateCount := (s.stream n).lateCount + 1 }).trans ?_
  unfold State.applyLate
  dsimp only
  split
  · refine raise _ _ fun k about => ?_
    obtain rfl := Option.some.inj about
    exact h
  · exact refl _

theorem wake (s : State) (n : StreamId) (e : Entry) (a : A n) (b : B n) : Spares A B s (s.wake n e) := by
  have shifted (t : State) : Spares A B t (t.shift n e s.et) := (setStream t n _).trans (retime _ n _)
  unfold State.wake
  refine ite (begin s n _ _ a) ?_
  unfold State.endWait
  exact ite ((applyLate s n e _ _ b).trans (begin _ n _ _ a))
    (((applyLate s n e _ _ b).trans (shifted _)).trans (begin _ n _ _ a))

theorem wakeLoop (fuel : Nat) (s : State) (h : ∀ n, (s.stream n).Waits → A n ∧ B n) : Spares A B s (wakeLoop fuel s) := by
  induction fuel generalizing s with
  | zero => exact refl s
  | succ fuel ih =>
    unfold Machine.wakeLoop
    split
    · exact refl s
    · next c hc =>
      obtain ⟨n, -, hn⟩ := List.exists_of_findSome?_eq_some hc
      obtain ⟨e, wakes, rfl⟩ := Option.map_eq_some_iff.1 hn
      obtain ⟨a, b⟩ := h n (Calm.wakeable_waits wakes)
      refine (wake s n e a b).trans (ih _ fun k waits => ?_)
      by_cases same : k = n
      · exact same ▸ ⟨a, b⟩
      · exact h k (((Calm.wake (A := fun j => j = n) s n e rfl).others k same).waits.1 waits)

/-- Waking concerns the streams that wait. -/
theorem wakeAll (s : State) : Spares (fun n => (s.stream n).Waits) (fun n => (s.stream n).Waits) s s.wakeAll :=
  wakeLoop 256 s fun _ waits => ⟨waits, waits⟩

end Spares

end Sys2Proof.Machine
end

section
/-! SUPPORT. Turns and SLIP waits (R72, R75, R76, R155) on an UP port. -/

namespace Sys2Proof.Machine

/-! ### The application of a late policy (R155) -/

theorem State.applyLate_streams (s : State) (n : StreamId) (e : Entry) (o : LateOutcome) (w : Time) :
    (s.applyLate n e o w).streams = (s.setStream n { s.stream n with lateCount := (s.stream n).lateCount + 1 }).streams := by
  unfold State.applyLate
  dsimp only
  split
  · exact State.raise_streams ..
  · rfl

theorem State.applyLate_stream (s : State) (n : StreamId) (e : Entry) (o : LateOutcome) (w : Time) :
    (s.applyLate n e o w).stream n = { s.stream n with lateCount := (s.stream n).lateCount + 1 } :=
  (State.stream_congr (s.applyLate_streams n e o w) n).trans (State.setStream_stream ..)

theorem State.applyLate_asleep {s : State} {n : StreamId} (others : ∀ k, k ≠ n → s.wakeable k = none) (e : Entry)
    (o : LateOutcome) (w : Time) : ∀ k, k ≠ n → (s.applyLate n e o w).wakeable k = none := by
  intro k other
  rw [State.wakeable_congr ((State.stream_congr (s.applyLate_streams n e o w) k).trans
    (State.setStream_stream_ne _ _ fun same => other same.symm)) (Calm.applyLate (A := fun _ => True) s n e o w).et]
  exact others k other

theorem State.applyLate_notified (s : State) (n : StreamId) {e : Entry} (o : LateOutcome) (w : Time) {k : FrameKey}
    (frame : e.frame = some k) :
    (s.applyLate n e o w).Notified (.late n (s.stream n).policy o k.clip e.tick k.frame w e.deliver) s.et := by
  unfold State.applyLate
  dsimp only
  rw [frame]
  exact State.raise_notified ..

/-- An entry that begins sending late is counted, with LATE (R155). -/
theorem State.lateOver_began (s : State) (n : StreamId) (e : Entry) (a : SentAs) (o : LateOutcome) (w : Time) :
    s.Began ((s.applyLate n e o w).handOver n e a) n e a (some (o, w)) := by
  obtain ⟨record, position, -, counters, unwaited, count, -⟩ := (s.applyLate n e o w).handOver_began n e a
  have stream := (s.applyLate n e o w).handOver_stream n e a
  rw [s.applyLate_stream] at record counters count stream
  rw [(Calm.applyLate (A := fun _ => True) s n e o w).et] at record
  refine ⟨record, position, ?_, counters, unwaited, count, fun o' w' k same frame => ?_⟩
  · rw [stream]
    cases a with
    | frame k b d => rfl
    | repeated k => rfl
    | fill r => rfl
  cases same
  exact (s.applyLate_notified n o w frame).mild (Calm.handOver (A := fun _ => True) _ n e a).toMild

theorem State.lateOver_settled {s : State} {n : StreamId} {e : Entry} {a : SentAs} {o : LateOutcome} {w : Time}
    (others : ∀ k, k ≠ n → s.wakeable k = none) (idle : (s.stream n).sendingEntry = none)
    (here : ∃ y ∈ (s.stream n).window, y.tick = e.tick) : ((s.applyLate n e o w).handOver n e a).Settled := by
  have stream := s.applyLate_stream n e o w
  refine State.handOver_settled (State.applyLate_asleep others e o w) ?_ ?_
  · rw [stream]
    exact idle
  · rw [stream]
    exact here

theorem State.lateBegin_up {s : State} {n : StreamId} (up : (s.port (s.stream n).port).up = true) (e : Entry) (a : SentAs)
    (o : LateOutcome) (w : Time) : (s.applyLate n e o w).begin n e a = (s.applyLate n e o w).handOver n e a := by
  refine State.begin_up ?_ e a
  rw [s.applyLate_stream, (Calm.applyLate (A := fun _ => True) s n e o w).links]
  exact up

theorem Calm.lateOver {A : StreamId → Prop} (s : State) (n : StreamId) (e : Entry) (a : SentAs) (o : LateOutcome) (w : Time)
    (h : A n) : Calm A s ((s.applyLate n e o w).handOver n e a) :=
  (Calm.applyLate s n e o w h).trans (Calm.handOver _ n e a h)

/-! ### Turns (R72) -/

theorem State.Due.dueEntry {s : State} {n : StreamId} {e : Entry} (h : s.Due n e) : s.dueEntry n = some e := by
  obtain ⟨rest, first⟩ := h.first
  unfold State.dueEntry
  dsimp only
  rw [if_pos ⟨h.running, h.unwaited, h.idle⟩, first]
  exact if_pos (by simpa [State.reached, BitVec.ule] using h.reached)

theorem State.due_of_dueEntry {s : State} {n : StreamId} {e : Entry} (awake : s.region.engine ≠ .halted)
    (h : s.dueEntry n = some e) : s.Due n e := by
  unfold State.dueEntry at h
  dsimp only at h
  split at h
  · next able =>
    split at h
    · cases h
    · next f rest first =>
      obtain ⟨reached, same⟩ := Option.ite_none_right_eq_some.1 h
      cases same
      exact ⟨able.1, able.2.2, able.2.1, ⟨rest, first⟩, by simpa [State.reached, BitVec.ule] using reached, awake⟩
  · cases h

theorem exec_tickTurn {s : State} {n : StreamId} {e : Entry} (due : s.Due n e) :
    exec (.tickTurn n) s = .next (s.turn n e).wakeAll := by
  refine congrArg Host.Outcome.next ((if_neg (by simp [State.halted, due.awake])).trans ?_)
  rw [State.turnIfDue, due.dueEntry]

theorem State.Due.here {s : State} {n : StreamId} {e : Entry} (due : s.Due n e) : ∃ y ∈ (s.stream n).window, y.tick = e.tick := by
  obtain ⟨rest, first⟩ := due.first
  exact ⟨e, Stream.mem_of_unsent first, rfl⟩

theorem State.turn_late {s : State} {n : StreamId} {e : Entry} (ready : e.stage ≠ .ready) (failed : e.stage ≠ .failed) :
    s.turn n e = s.latePolicy n e := by
  unfold State.turn
  split
  · exact absurd ‹_› ready
  · exact absurd ‹_› failed
  · rfl

/-- A SLIP wait begins (R75). -/
theorem exec_tickTurn_slip {s : State} {n : StreamId} {e : Entry} (settled : s.Settled) (due : s.Due n e)
    (up : (s.port (s.stream n).port).up = true) (ready : e.stage ≠ .ready) (failed : e.stage ≠ .failed)
    (slip : (s.stream n).policy = .slip) (early : s.et.toNat < (e.deliver + BitVec.ofNat 64 (s.stream n).slipLimit).toNat) :
    exec (.tickTurn n) s =
      .next (s.setStream n { s.stream n with slipEnd := some (e.deliver + BitVec.ofNat 64 (s.stream n).slipLimit) }) := by
  obtain ⟨rest, first⟩ := due.first
  have waits : s.turn n e =
      s.setStream n { s.stream n with slipEnd := some (e.deliver + BitVec.ofNat 64 (s.stream n).slipLimit) } := by
    rw [State.turn_late ready failed]
    unfold State.latePolicy
    dsimp only
    rw [if_pos up, slip]
    refine if_neg ?_
    simpa [BitVec.ule, later] using early
  rw [exec_tickTurn due, waits]
  refine congrArg Host.Outcome.next (wakeAll_settled (settled.replaced (n := n) rfl rfl ?_))
  unfold State.wakeable
  rw [State.setStream_stream]
  have same (t : Option Time) : ({ s.stream n with slipEnd := t } : Stream).unsent = e :: rest := first
  dsimp only
  rw [same]
  exact if_neg (by simp [ready, failed])

/-! ### The end of a SLIP wait (R75) -/

theorem State.endSlip_idle {s : State} {n : StreamId}
    (h : s.region.engine = .halted ∨ (s.stream n).state ≠ .running ∨ (s.stream n).slipEnd = none) : s.endSlip n = s := by
  unfold State.endSlip
  dsimp only
  split
  · rfl
  · next able =>
    rcases h with halted | state | slip
    · exact absurd (by simp [State.halted, halted]) able
    · exact absurd (by simp [state]) able
    · rw [slip]

theorem State.endSlip_waiting {s : State} {n : StreamId} {e : Entry} {rest : List Entry} {limit : Time}
    (awake : s.region.engine ≠ .halted) (running : (s.stream n).state = .running) (slip : (s.stream n).slipEnd = some limit)
    (first : (s.stream n).unsent = e :: rest) :
    s.endSlip n =
      if limit.toNat ≤ s.et.toNat ∧ ((e.stage ≠ .ready ∧ e.stage ≠ .failed) ∨ limit ≠ s.et) then
        ((s.applyLate n e .fillMissing (s.et - e.deliver)).begin n e (.fill .missing)).wakeAll
      else s := by
  unfold State.endSlip
  dsimp only
  rw [if_neg (by simp [State.halted, awake, running]), slip, first]
  simp only [State.reached, BitVec.ule, decide_eq_true_eq]

theorem exec_slipWaitEnd_late {s : State} {n : StreamId} {e : Entry} {rest : List Entry} {limit : Time} (settled : s.Settled)
    (awake : s.region.engine ≠ .halted) (running : (s.stream n).state = .running) (slip : (s.stream n).slipEnd = some limit)
    (first : (s.stream n).unsent = e :: rest) (idle : (s.stream n).sendingEntry = none)
    (late : (e.stage ≠ .ready ∧ e.stage ≠ .failed) ∨ limit.toNat < s.et.toNat) (reached : limit.toNat ≤ s.et.toNat)
    (up : (s.port (s.stream n).port).up = true) :
    exec (.slipWaitEnd n) s =
      .next ((s.applyLate n e .fillMissing (s.et - e.deliver)).handOver n e (.fill .missing)) := by
  refine congrArg Host.Outcome.next ((State.endSlip_waiting awake running slip first).trans ?_)
  rw [if_pos ⟨reached, late.imp id fun past same => absurd past (by rw [same]; exact lt_irrefl _)⟩, State.lateBegin_up up]
  exact wakeAll_settled (State.lateOver_settled (fun k _ => settled k) idle ⟨e, Stream.mem_of_unsent first, rfl⟩)

/-! ### A frame settles within the wait (R75, R76) -/

/-- The stream with the timeline shifted, but for the window (R76). -/
def Stream.delayed (x : Stream) (delta : Time) : Stream :=
  { x with proj := { x.proj with anchor := x.proj.anchor + delta, deliver := x.proj.deliver + delta } }

/-- A window entry shifted (R76): the entry `e` itself takes the deliver time `t`. -/
def Entry.shifted (e : Entry) (margin : Nat) (t : Time) (y : Entry) : Entry :=
  if y.tick = e.tick then { y with deliver := t }
  else
    { y with
      deliver := y.deliver + (t - e.deliver)
      deadline := ({ y with deliver := y.deliver + (t - e.deliver) } : Entry).deadlineAt margin }

theorem Entry.shifted_tick (e : Entry) (margin : Nat) (t : Time) (y : Entry) : (e.shifted margin t y).tick = y.tick := by
  unfold Entry.shifted
  split
  · rfl
  · rfl

theorem State.shift_alike (s : State) (n : StreamId) (e : Entry) (t : Time) :
    Stream.Alike
      { (s.stream n).delayed (t - e.deliver) with window := (s.stream n).window.map (e.shifted (s.stream n).margin t) }
      ((s.shift n e t).stream n) := by
  set x := (s.stream n).delayed (t - e.deliver)
  set w := (s.stream n).window.map (e.shifted (s.stream n).margin t)
  have retimed := (s.setStream n x).retime_alike n w
  rw [State.setStream_stream] at retimed
  exact retimed

/-- A window entry of a stream that has begun sending `e`, but for stage and reference. -/
theorem Stream.begun_window {x : Stream} {e : Entry} {k : FrameKey} {b d : Nat} :
    (x.begun e (.frame k b d)).window.map Entry.core =
      (x.window.map Entry.core).map fun y => if y.tick = e.tick then { e.core with sentAs := some (.frame k b d) } else y := by
  have sent : isSubstitute e (.frame k b d) = false := by simp [isSubstitute]
  have window : (x.begun e (.frame k b d)).window =
      x.window.map fun y => if y.tick = e.tick then e.begun (.frame k b d) else y := rfl
  rw [window, List.map_map, List.map_map]
  refine List.map_congr_left fun y _ => ?_
  dsimp only [Function.comp]
  by_cases same : y.tick = e.tick
  · rw [if_pos same, if_pos (show y.core.tick = e.tick from same)]
    unfold Entry.begun
    rw [sent]
    rfl
  · rw [if_neg same, if_neg (show ¬ y.core.tick = e.tick from same)]

theorem State.ownKind_frame {s : State} {e : Entry} {k : FrameKey} {d : Nat} {y : DirEntry} (kind : e.kind = .frame)
    (frame : e.frame = some k) (ref : e.ref = some d) (entry : s.dirEntry d = some y) : s.ownKind e = .frame k y.bytes d := by
  unfold State.ownKind
  rw [kind, frame, ref]
  dsimp only
  rw [entry]

/-- The state in which a frame that came within the wait begins sending (R75, R76). -/
def State.caughtUp (s : State) (n : StreamId) (e : Entry) : State :=
  (s.applyLate n e .frameAfterWait (s.et - e.deliver)).shift n e s.et

theorem Calm.caughtUp {A : StreamId → Prop} (s : State) (n : StreamId) (e : Entry) (h : A n) : Calm A s (s.caughtUp n e) :=
  (Calm.applyLate s n e _ _ h).trans (Calm.shift _ n e _ h)

theorem State.caughtUp_alike (s : State) (n : StreamId) (e : Entry) :
    Stream.Alike
      { ({ s.stream n with lateCount := (s.stream n).lateCount + 1 } : Stream).delayed (s.et - e.deliver) with
        window := (s.stream n).window.map (e.shifted (s.stream n).margin s.et) }
      ((s.caughtUp n e).stream n) := by
  have shifted := (s.applyLate n e .frameAfterWait (s.et - e.deliver)).shift_alike n e s.et
  rw [s.applyLate_stream] at shifted
  exact shifted

/-- The frame begins sending, and the timeline is shifted (R76). -/
theorem State.caughtUp_began {s : State} {n : StreamId} (e : Entry) (k : FrameKey) (b d : Nat)
    (running : (s.stream n).state = .running) (frame : e.frame = some k) :
    s.BeganAfterWait ((s.caughtUp n e).handOver n { e with deliver := s.et } (.frame k b d)) n e k b d := by
  obtain ⟨p, record, owes⟩ := (s.caughtUp n e).handOver_record n { e with deliver := s.et } (.frame k b d)
  have stream := (s.caughtUp n e).handOver_stream n { e with deliver := s.et } (.frame k b d)
  have alike := s.caughtUp_alike n e
  have et := (Calm.caughtUp (A := fun _ => True) s n e trivial).et
  have window := ((s.caughtUp n e).stream n).begun_window (e := { e with deliver := s.et }) (k := k) (b := b) (d := d)
  rw [alike.2] at window
  refine ⟨⟨p, record, by rw [owes, alike.1]; rfl, by rw [owes, alike.1]; rfl, by rw [owes]; rfl, by rw [owes]; rfl,
    by rw [owes]; exact et, by rw [owes]; rfl, by rw [owes]; rfl⟩, ?_, by rw [stream, alike.1]; rfl,
    ⟨by rw [stream, alike.1]; exact running, by rw [stream]; rfl, by rw [stream]; rfl, by rw [stream]; rfl, by rw [stream]; rfl⟩,
    by rw [stream, alike.1]; rfl, by rw [stream]; rfl, by rw [stream, alike.1]; rfl, ?_⟩
  · rw [stream, window]
    simp only [List.map_map]
    refine List.map_congr_left fun y _ => ?_
    dsimp only [Function.comp]
    have tick : (e.shifted (s.stream n).margin s.et y).core.tick = y.tick := Entry.shifted_tick ..
    by_cases same : y.tick = e.tick
    · refine (if_pos (tick.trans same)).trans (Eq.trans ?_ (congrArg Entry.core (if_pos same)).symm)
      rfl
    · refine (if_neg fun other => same (tick.symm.trans other)).trans ?_
      exact congrArg Entry.core ((if_neg same).trans (if_neg same).symm)
  · exact ((s.applyLate_notified n .frameAfterWait (s.et - e.deliver) frame).mild
      ((Calm.shift (A := fun _ => True) _ n e s.et).trans (Calm.handOver _ n _ _)).toMild)

/-- What other streams do then changes nothing of it (R150). -/
theorem State.BeganAfterWait.later {s t u : State} {n : StreamId} {e : Entry} {k : FrameKey} {b d : Nat}
    {A B C : StreamId → Prop} (h : s.BeganAfterWait t n e k b d) (like : (t.stream n).Like (u.stream n))
    (spares : Spares A B t u) (free : ¬ A n) (mild : Mild C t u) : s.BeganAfterWait u n e k b d := by
  obtain ⟨⟨p, record, fields⟩, window, run, position, counters, unwaited, count, notice⟩ := h
  obtain ⟨q, same, owes⟩ := spares.record n free p record
  refine ⟨⟨q, same, by rw [owes]; exact fields⟩, like.alike.2.trans window, by rw [like.1]; exact run,
    by rw [like.1]; exact position, by rw [like.1]; exact counters, by rw [like.1]; exact unwaited,
    by rw [like.1]; exact count, notice.mild mild⟩

/-- A FILL FAILED begins within the wait (R75). -/
theorem State.endWait_failed {s : State} {n : StreamId} {e : Entry} (others : ∀ k, k ≠ n → s.wakeable k = none)
    (wakes : s.wakeable n = some e) (running : (s.stream n).state = .running) (failed : e.stage = .failed)
    (idle : (s.stream n).sendingEntry = none) (here : ∃ y ∈ (s.stream n).window, y.tick = e.tick)
    (up : (s.port (s.stream n).port).up = true) :
    s.wakeAll = (s.applyLate n e .fillFailed (s.et - e.deliver)).handOver n e (.fill .failed) := by
  have wake : s.wake n e = (s.applyLate n e .fillFailed (s.et - e.deliver)).handOver n e (.fill .failed) := by
    refine (if_neg (by rw [running]; decide)).trans ((if_pos failed).trans ?_)
    exact State.lateBegin_up up ..
  exact (State.wakeAll_one others wakes (wake ▸ State.lateOver_settled others idle here)).trans wake

/-- The frame begins within the wait, and what wakes after it (R75, R76). -/
theorem State.endWait_ready {s : State} {n : StreamId} {e : Entry} {k : FrameKey} {d : Nat} {y : DirEntry}
    (others : ∀ k, k ≠ n → s.wakeable k = none) (wakes : s.wakeable n = some e) (running : (s.stream n).state = .running)
    (ready : e.stage = .ready) (kind : e.kind = .frame) (frame : e.frame = some k) (ref : e.ref = some d)
    (entry : s.dirEntry d = some y) (up : (s.port (s.stream n).port).up = true) :
    Calm (fun i => i = n ∨ (s.stream i).Waits) s s.wakeAll ∧ s.BeganAfterWait s.wakeAll n e k y.bytes d := by
  have caught := Calm.caughtUp (A := fun i => i = n) s n e rfl
  have wake : s.wake n e = (s.caughtUp n e).handOver n { e with deliver := s.et } (.frame k y.bytes d) := by
    refine (if_neg (by rw [running]; decide)).trans ((if_neg (by rw [ready]; decide)).trans ?_)
    rw [State.ownKind_frame kind frame ref entry]
    refine State.begin_up (s := s.caughtUp n e) ?_ _ _
    rw [(s.caughtUp_alike n e).1, caught.links]
    exact up
  have began := State.caughtUp_began e k y.bytes d running frame
  have calm := caught.trans (Calm.handOver _ n { e with deliver := s.et } (.frame k y.bytes d) rfl)
  rw [← wake] at began calm
  have asleep : ¬ ((s.wake n e).stream n).Waits :=
    Stream.idle_of_state (by rw [began.position.1]; decide) began.unwaited
  have rest := Calm.wakeLoop 255 (s.wake n e) (A := fun i => ((s.wake n e).stream i).Waits) fun _ h => h
  have spares := Spares.wakeLoop 255 (s.wake n e) (A := fun i => ((s.wake n e).stream i).Waits)
    (B := fun i => ((s.wake n e).stream i).Waits) fun _ h => ⟨h, h⟩
  rw [State.wakeAll_first others wakes]
  refine ⟨(calm.mono fun _ => .inl).trans (rest.mono fun i waits => ?_),
    began.later (rest.others n asleep) spares asleep rest.toMild⟩
  by_cases same : i = n
  · exact .inl same
  · exact .inr ((calm.others i same).waits.1 waits)

/-- Settles O42. -/
theorem slipWaits : Obligations.SlipWaits := by
  unfold Obligations.SlipWaits
  refine ⟨?_, ?_, fun n s idle => congrArg Host.Outcome.next (State.endSlip_idle idle), ?_⟩
  · intro n e s settled due up ready failed slip
    exact exec_tickTurn_slip settled due up ready failed slip
  · intro n e limit s settled awake running slip first idle late
    obtain ⟨rest, first⟩ := first
    refine ⟨fun early => ?_, fun reached up => ⟨_, exec_slipWaitEnd_late settled awake running slip first idle late reached up,
      Calm.lateOver s n e _ _ _ rfl, s.lateOver_began n e _ _ _⟩⟩
    refine congrArg Host.Outcome.next ((State.endSlip_waiting awake running slip first).trans (if_neg ?_))
    omega
  · intro n e limit s running slip first early settledFrame
    obtain ⟨rest, first⟩ := first
    refine ⟨congrArg Host.Outcome.next ?_, fun others idle up => ?_⟩
    · by_cases halted : s.region.engine = .halted
      · exact State.endSlip_idle (.inl halted)
      · refine (State.endSlip_waiting halted running slip first).trans (if_neg ?_)
        rintro ⟨reached, unsettled | other⟩
        · exact settledFrame.elim unsettled.1 unsettled.2
        · exact other (BitVec.eq_of_toNat_eq (by omega))
    · have wakes : s.wakeable n = some e :=
        State.wakeable_eq first settledFrame idle (.inr ⟨running, limit, slip, early⟩)
      refine ⟨fun failed => ?_, fun k d y ready kind frame ref entry =>
        State.endWait_ready others wakes running ready kind frame ref entry up⟩
      rw [State.endWait_failed others wakes running failed idle ⟨e, Stream.mem_of_unsent first, rfl⟩ up]
      exact ⟨Calm.lateOver s n e _ _ _ rfl, s.lateOver_began n e _ _ _⟩

end Sys2Proof.Machine
end

section
/-! SUPPORT. The end of a presentation (R96): what it leaves of the stream, and what follows from it. -/

namespace Sys2Proof.Machine

/-! ### What is shown, and that nothing is SENDING -/

/-- Two records of a stream agree in what was last shown, in the marks and in the late count. -/
structure Stream.SameShown (x y : Stream) : Prop where
  tick : y.shownTick = x.shownTick
  clip : y.shownClip = x.shownClip
  frame : y.shownFrame = x.shownFrame
  marks : y.marks = x.marks
  late : y.lateCount = x.lateCount

theorem Stream.SameShown.refl (x : Stream) : x.SameShown x := ⟨rfl, rfl, rfl, rfl, rfl⟩

theorem Stream.SameShown.trans {x y z : Stream} (h : x.SameShown y) (k : y.SameShown z) : x.SameShown z :=
  ⟨k.tick.trans h.tick, k.clip.trans h.clip, k.frame.trans h.frame, k.marks.trans h.marks, k.late.trans h.late⟩

/-- Nothing of the stream is SENDING. -/
def Stream.Idle (x : Stream) : Prop := ∀ y ∈ x.window, y.stage ≠ .sending

theorem Stream.idle_iff (x : Stream) : x.Idle ↔ x.sendingEntry = none := by
  unfold Stream.Idle Stream.sendingEntry
  simp

theorem Stream.Idle.unsent {x : Stream} (h : x.Idle) : x.unsent = x.window := by
  unfold Stream.unsent
  exact List.filter_eq_self.2 fun y mem => by simpa using h y mem

theorem Stream.Like.idle {x y : Stream} (h : x.Like y) (k : x.Idle) : y.Idle := by
  intro e mem sending
  have seen : e.seen ∈ x.window.map Entry.seen := by
    rw [← h.2]
    exact List.mem_map_of_mem mem
  obtain ⟨f, old, same⟩ := List.mem_map.1 seen
  have stage := congrArg Entry.stage same
  unfold Entry.seen at stage
  simp [sending, k f old] at stage

/-- Between two states of which the second follows from the end of stream `n`'s presentation in the first (R96): what is
shown, the marks and the late count stay, and nothing begins sending. -/
structure Ending (n : StreamId) (s t : State) : Prop where
  shown : (s.stream n).SameShown (t.stream n)
  idle : (s.stream n).Idle → (t.stream n).Idle

namespace Ending

theorem refl (n : StreamId) (s : State) : Ending n s s := ⟨.refl _, id⟩

theorem trans {n : StreamId} {a b c : State} (h : Ending n a b) (k : Ending n b c) : Ending n a c :=
  ⟨h.shown.trans k.shown, fun idle => k.idle (h.idle idle)⟩

theorem ofLike {n : StreamId} {s t : State} (h : (s.stream n).Like (t.stream n)) : Ending n s t where
  shown := by
    rw [h.1]
    exact ⟨rfl, rfl, rfl, rfl, rfl⟩
  idle := h.idle

theorem ofCalm {n : StreamId} {s t : State} (h : Calm (fun _ => False) s t) : Ending n s t := ofLike (h.others n id)

theorem ite {n : StreamId} {c : Prop} [Decidable c] {s a b : State} (ha : Ending n s a) (hb : Ending n s b) :
    Ending n s (if c then a else b) := by
  split
  · exact ha
  · exact hb

theorem setStream (s : State) (n : StreamId) (x : Stream) (shown : (s.stream n).SameShown x := by exact ⟨rfl, rfl, rfl, rfl, rfl⟩)
    (idle : (s.stream n).Idle → x.Idle := by exact fun h => h) : Ending n s (s.setStream n x) := by
  refine ⟨?_, ?_⟩
  · rw [State.setStream_stream]
    exact shown
  · rw [State.setStream_stream]
    exact idle

theorem discard (s : State) (n : StreamId) : Ending n s (s.discard n) := by
  refine (setStream s n _ (idle := fun idle y mem => ?_)).trans
    (ofCalm (Calm.foldl (Calm.giveBack n) _ _))
  exact idle y (List.mem_of_mem_filter mem)

theorem retime (s : State) (n : StreamId) (w : List Entry) (idle : (s.stream n).Idle → ∀ y ∈ w, y.stage ≠ .sending) :
    Ending n s (s.retime n w) :=
  (setStream s n { s.stream n with window := w } (idle := idle)).trans (ofCalm (Calm.foldl (Calm.reportEntry n) _ _))

theorem hold (s : State) (n : StreamId) (time : Option Time) (r : Bool) : Ending n s (s.hold n time r) := by
  refine (setStream s n _).trans (retime _ n _ fun idle y mem => ?_)
  obtain ⟨z, old, rfl⟩ := List.mem_map.1 mem
  have unsent := idle z old
  rw [if_neg unsent]
  exact unsent

theorem ask (s : State) (n : StreamId) (e : Entry) : Ending n s (s.ask n e) := by
  unfold State.ask
  split
  · split
    · next d _ =>
      refine (setStream s n _ (idle := fun idle y mem => ?_)).trans (ofCalm (Calm.hit _ d _ _))
      obtain ⟨z, old, rfl⟩ := List.mem_map.1 mem
      split
      · unfold DirEntry.stageOf
        cases d.state with
        | filling => exact fun h => nomatch h
        | ready => exact fun h => nomatch h
        | failed => exact fun h => nomatch h
      · exact idle z old
    · exact ofCalm (Calm.addWaiter s _)
  · exact refl n s

theorem appended {x : Stream} {l : List Entry} {e : Entry} (h : e.stage ≠ .sending) (idle : x.Idle) (window : l = x.window) :
    ∀ y ∈ l ++ [e], y.stage ≠ .sending := by
  intro y mem
  rcases List.mem_append.1 mem with old | new
  · exact idle y (window ▸ old)
  · rwa [List.mem_singleton.1 new]

theorem entryAt_stage (s : State) (x : Stream) (a : Advance) : (s.entryAt x a).stage ≠ .sending := by
  unfold State.entryAt
  dsimp only
  split
  · exact fun h => nomatch h
  · exact fun h => nomatch h

theorem tagged_stage (x : Stream) (e : Entry) : (x.tagged e).stage = e.stage := by
  obtain ⟨l, same⟩ := x.tagged_eq e
  rw [same]

theorem nextEntry_stage (s : State) (x : Stream) : (s.nextEntry x).stage ≠ .sending := by
  unfold State.nextEntry
  dsimp only
  rw [tagged_stage]
  exact entryAt_stage s x _

theorem locateEntry_stage (s : State) (x : Stream) (l : Locate) : (s.locateEntry x l).stage ≠ .sending := by
  unfold State.locateEntry
  dsimp only
  rw [tagged_stage]
  exact entryAt_stage s x _

theorem project (s : State) (n : StreamId) : Ending n s (s.project n) := by
  have loop (fuel : Nat) (s : State) : Ending n s (projectLoop n fuel s) := by
    induction fuel generalizing s with
    | zero => exact refl n s
    | succ fuel ih =>
      unfold projectLoop
      refine ite (((setStream s n _ (idle := fun idle => ?_)).trans (ask _ n _)).trans (ih _)) (refl n s)
      refine appended (x := s.stream n) ?_ idle rfl
      exact nextEntry_stage s _
  exact loop 16 s

theorem projectLocateIfDue (s : State) (n : StreamId) : Ending n s (s.projectLocateIfDue n) := by
  unfold State.projectLocateIfDue
  dsimp only
  split
  · exact refl n s
  · refine ite ?_ (refl n s)
    unfold State.projectLocate
    dsimp only
    split
    · exact refl n s
    · refine (setStream s n _ (idle := fun idle => ?_)).trans (ask _ n _)
      refine appended (x := s.stream n) ?_ idle rfl
      exact locateEntry_stage s _ _

theorem parkAtEnd (s : State) (n : StreamId) (e : Entry) (w : ListEnd) : Ending n s (s.parkAtEnd n e w) := by
  have parked := (setStream s n { s.stream n with
    state := .parked, speed := 0, shown := false, slipEnd := none, releaseTime := none, releaseResume := false }).trans
      (discard _ n)
  unfold State.parkAtEnd
  dsimp only
  split
  · exact parked.trans (ofCalm (Calm.raise _ _))
  · exact parked.trans (ofCalm ((Calm.raise _ _).trans (Calm.draw _)))

theorem consequences (s : State) (n : StreamId) (e : Entry) : Ending n s (s.consequences n e) := by
  unfold State.consequences
  split
  · exact parkAtEnd s n e _
  · split
    · next l _ =>
      refine ite ?_ (refl n s)
      refine (ofCalm (Calm.raise s (.locd l.ref n e.locateResult l.cue l.offset))).trans ?_
      unfold State.finishLocate
      dsimp only
      split
      · exact setStream _ n _
      · exact setStream _ n _
    · exact refl n s

theorem holdByMark (s : State) (n : StreamId) (e : Entry) (f : Option (Fin 8)) : Ending n s (s.holdByMark n e f) := by
  unfold State.holdByMark
  split
  · exact refl n s
  · exact ite ((hold s n none true).trans (ofCalm (Calm.raise _ _))) (refl n s)

end Ending

/-! ### A presentation leaves (R96, R101) -/

/-- The stream once its presentation, of entry `e`, has left the window, with the clip, the frame and the marks that it then
has (R96, R101). -/
def Stream.leaves (x : Stream) (e : Entry) (clip : Byte) (frame : Word) (marks : Vector (Option Mark) 8) : Stream :=
  { x with shownTick := e.tick, shownClip := clip, shownFrame := frame, marks := marks, window := x.unsent }

theorem State.setShown_stream (s : State) (n : StreamId) (e : Entry) :
    ∃ c f, (s.setShown n e).streams =
        (s.setStream n { s.stream n with shownTick := e.tick, shownClip := c, shownFrame := f }).streams ∧
      ∀ k, e.frame = some k → c.toNat = k.clip.val ∧ f = BitVec.ofNat 32 k.frame := by
  unfold State.setShown
  split
  · next k frame =>
    refine ⟨BitVec.ofNat 8 k.clip, BitVec.ofNat 32 k.frame, rfl, fun j same => ?_⟩
    rw [frame] at same
    cases same
    exact ⟨by rw [BitVec.toNat_ofNat]; exact Nat.mod_eq_of_lt k.clip.isLt, rfl⟩
  · next none_ =>
    refine ⟨_, _, rfl, fun j same => ?_⟩
    rw [none_] at same
    cases same

theorem State.setStream_own (s : State) (n : StreamId) : (s.setStream n (s.stream n)).streams = s.streams := by
  unfold State.setStream State.stream
  exact Vector.set_getElem_self ..

theorem State.setStream_over {s t : State} {n : StreamId} {x : Stream} (h : t.streams = (s.setStream n x).streams) (y : Stream) :
    (t.setStream n y).streams = (s.setStream n y).streams := by
  unfold State.setStream at h ⊢
  simp only [h, Vector.set_set]

theorem State.stream_of_streams {s t : State} {n : StreamId} {x : Stream} (h : t.streams = (s.setStream n x).streams) :
    t.stream n = x := (State.stream_congr h n).trans (State.setStream_stream ..)

theorem State.evalTag_streams (n : StreamId) (e : Entry) (s : State) (g : Tag) :
    ∃ m, (State.evalTag n e s g).streams = (s.setStream n { s.stream n with marks := m }).streams := by
  unfold State.evalTag
  split
  · split
    · dsimp only
      split
      · exact ⟨_, State.raise_streams ..⟩
      · exact ⟨_, rfl⟩
    · exact ⟨(s.stream n).marks, (s.setStream_own n).symm⟩
  · exact ⟨(s.stream n).marks, (s.setStream_own n).symm⟩

/-- The presentation's tags evaluated and its entry taken out of the window (R96, R101). -/
def State.left (s : State) (n : StreamId) (e : Entry) (tags : List Tag) : State :=
  let t := tags.foldl (State.evalTag n e) (s.setShown n e)
  let t := t.setStream n { t.stream n with window := (t.stream n).window.filter fun y => y.stage != .sending }
  match e.ref with | some d => t.release d | none => t

/-- What follows when the presentation has left (R96). -/
def State.after (s : State) (n : StreamId) (e : Entry) (fired : Option (Fin 8)) : State :=
  (((s.consequences n e).holdByMark n e fired).project n).projectLocateIfDue n

/-- The tags of a presentation change the marks of its stream only (R101). -/
theorem State.evalTags_streams (n : StreamId) (e : Entry) (tags : List Tag) (s : State) :
    ∃ m, (tags.foldl (State.evalTag n e) s).streams = (s.setStream n { s.stream n with marks := m }).streams := by
  induction tags generalizing s with
  | nil => exact ⟨(s.stream n).marks, (s.setStream_own n).symm⟩
  | cons g tags ih =>
    obtain ⟨m, one⟩ := State.evalTag_streams n e s g
    obtain ⟨m', more⟩ := ih (State.evalTag n e s g)
    rw [State.setStream_over one, State.stream_of_streams one] at more
    exact ⟨m', more⟩

/-- A presentation leaves its own stream, and touches no other (R96). -/
theorem State.left_streams (s : State) (n : StreamId) (e : Entry) (tags : List Tag) :
    ∃ c f m, (s.left n e tags).streams = (s.setStream n ((s.stream n).leaves e c f m)).streams ∧
      (∀ k, e.frame = some k → c.toNat = k.clip.val ∧ f = BitVec.ofNat 32 k.frame) ∧
      m = ((tags.foldl (State.evalTag n e) (s.setShown n e)).stream n).marks := by
  obtain ⟨c, f, shown, picture⟩ := s.setShown_stream n e
  obtain ⟨m, marked⟩ := State.evalTags_streams n e tags (s.setShown n e)
  rw [State.setStream_over shown, State.stream_of_streams shown] at marked
  have stream := State.stream_of_streams marked
  refine ⟨c, f, m, ?_, picture, by rw [stream]⟩
  have released (t : State) (r : Option Nat) : (match r with | some d => t.release d | none => t).streams = t.streams := by
    cases r with
    | none => rfl
    | some d => exact State.release_streams t d
  unfold State.left
  dsimp only
  rw [released, stream, State.setStream_over marked]
  rfl

theorem Calm.left {A : StreamId → Prop} (s : State) (n : StreamId) (e : Entry) (tags : List Tag) (h : A n) :
    Calm A s (s.left n e tags) :=
  (((Calm.setShown s n e h).trans (Calm.foldl (fun s g => Calm.evalTag n e s g h) _ _)).trans (Calm.setStream _ n _ h)).trans
    (Calm.releaseRef _ _)

theorem Stream.leaves_idle (x : Stream) (e : Entry) (c : Byte) (f : Word) (m : Vector (Option Mark) 8) : (x.leaves e c f m).Idle := by
  intro z mem
  simpa using (List.mem_filter.1 mem).2

theorem State.finish_eq {s : State} {n : StreamId} {e : Entry} (i : Bool) (h : (s.stream n).sendingEntry = some e) :
    s.finish n i = ((s.left n e (e.tagsAtEnd i)).after n e
      (((s.setShown n e).stream n).holdFired (e.tagsAtEnd i))).markMirror n := State.finish_sending i h

end Sys2Proof.Machine
end

section
/-! SUPPORT. What follows from the end of a presentation, case by case (R54, R56, R92, R96, R102). -/

namespace Sys2Proof.Machine

/-! ### Operations that do nothing -/

theorem State.project_idle {s : State} {n : StreamId} (h : (s.stream n).state ≠ .running) : s.project n = s := by
  unfold State.project projectLoop
  exact if_neg fun able => h ((s.projects_iff n).1 able).2.1

theorem State.projectLocateIfDue_idle {s : State} {n : StreamId} (h : (s.stream n).state ≠ .seeking ∨ (s.stream n).locate = none) :
    s.projectLocateIfDue n = s := by
  unfold State.projectLocateIfDue
  dsimp only
  split
  · rfl
  · next l locating =>
    refine if_neg fun due => h.elim (fun other => other due.1) fun none_ => ?_
    rw [none_] at locating
    cases locating

/-- With no locate in progress a projection is all that projects (R56, R92). -/
theorem State.project_locateless {s : State} {n : StreamId} (h : (s.stream n).locate = none) :
    (s.project n).projectLocateIfDue n = s.project n := by
  obtain ⟨added, grown, -, -⟩ := s.project_grown n
  exact State.projectLocateIfDue_idle (.inr (by rw [grown.fields]; exact h))

theorem State.holdByMark_idle {s : State} {n : StreamId} {e : Entry} {f : Option (Fin 8)}
    (h : f = none ∨ (s.stream n).state ≠ .running) : s.holdByMark n e f = s := by
  unfold State.holdByMark
  cases f with
  | none => rfl
  | some i => exact if_neg (h.resolve_left fun same => nomatch same)

/-! ### The cases -/

variable {s : State} {n : StreamId} {e : Entry} {f : Option (Fin 8)}

theorem State.consequences_none (end_ : e.listEnd = none) (free : (s.stream n).locate = none) : s.consequences n e = s := by
  unfold State.consequences
  rw [end_, free]

/-- Without list end, locate and HOLD mark the stream projects on, if it runs (R92). -/
theorem State.after_plain (end_ : e.listEnd = none) (free : (s.stream n).locate = none)
    (h : f = none ∨ (s.stream n).state ≠ .running) : s.after n e f = s.project n := by
  unfold State.after
  rw [State.consequences_none end_ free, State.holdByMark_idle h, State.project_locateless free]

/-- A HOLD mark that fires holds a RUNNING stream (R102). -/
theorem State.after_holds (end_ : e.listEnd = none) (free : (s.stream n).locate = none)
    (running : (s.stream n).state = .running) (slot : Fin 8) :
    s.after n e (some slot) = (s.hold n none true).raise (.hldn n slot e.tick) := by
  have held := State.stream_of_streams (s.hold_streams n none true)
  have state : (((s.hold n none true).raise (.hldn n slot e.tick)).stream n) = (s.stream n).heldUntil none true :=
    (State.stream_congr (State.raise_streams ..) n).trans held
  have marked : s.holdByMark n e (some slot) = (s.hold n none true).raise (.hldn n slot e.tick) := if_pos running
  unfold State.after
  rw [State.consequences_none end_ free, marked, State.project_idle, State.projectLocateIfDue_idle]
  · exact .inl (by rw [state]; exact fun h => nomatch h)
  · rw [state]
    exact fun h => nomatch h

/-- The stream parked at a list end (R54, R89). -/
def Stream.ended (x : Stream) : Stream :=
  { x with
    state := .parked, speed := 0, shown := false, releaseTime := none, releaseResume := false, slipEnd := none
    window := x.window.filter fun y => y.stage == .sending : Stream }.resetProjection

theorem State.parkAtEnd_streams (s : State) (n : StreamId) (e : Entry) (which : ListEnd) :
    (s.parkAtEnd n e which).streams = (s.setStream n (s.stream n).ended).streams := by
  have discarded := (s.setStream n
    { s.stream n with
      state := .parked, speed := 0, shown := false, releaseTime := none, releaseResume := false, slipEnd := none }).discard_streams n
  rw [State.setStream_stream] at discarded
  have parked := discarded.trans (State.setStream_over rfl _)
  unfold State.parkAtEnd
  dsimp only
  split
  · exact (State.raise_streams ..).trans parked
  · exact (State.raise_streams ..).trans parked

theorem State.after_parks {which : ListEnd} (end_ : e.listEnd = some which) (f : Option (Fin 8)) :
    s.after n e f = s.parkAtEnd n e which := by
  have stream := State.stream_of_streams (s.parkAtEnd_streams n e which)
  have parked : ((s.parkAtEnd n e which).stream n).state = .parked := by rw [stream]; rfl
  have consequences : s.consequences n e = s.parkAtEnd n e which := by
    unfold State.consequences
    rw [end_]
  unfold State.after
  rw [consequences, State.holdByMark_idle (.inr (by rw [parked]; decide)), State.project_idle (by rw [parked]; decide),
    State.projectLocateIfDue_idle (.inl (by rw [parked]; decide))]

/-- ENDL of a list end (R54). -/
theorem State.parkAtEnd_notified (s : State) (n : StreamId) (e : Entry) (which : ListEnd) :
    (∀ k, e.frame = some k → (s.parkAtEnd n e which).Notified
      (.endl n which e.cue e.offset e.tick true (BitVec.ofNat 8 k.clip) (BitVec.ofNat 32 k.frame)) s.et) ∧
    (e.frame = none → ∃ a b, (s.parkAtEnd n e which).Notified (.endl n which e.cue e.offset e.tick false a b) s.et) := by
  set t := (s.setStream n
    { s.stream n with
      state := .parked, speed := 0, shown := false, releaseTime := none, releaseResume := false, slipEnd := none }).discard n
  have et : t.et = s.et := ((Calm.setStream (A := fun _ => True) s n _).trans (Calm.discard _ n)).et
  constructor
  · intro k frame
    have raised : s.parkAtEnd n e which =
        t.raise (.endl n which e.cue e.offset e.tick true (BitVec.ofNat 8 k.clip) (BitVec.ofNat 32 k.frame)) := by
      unfold State.parkAtEnd
      dsimp only
      rw [frame]
    rw [raised, ← et]
    exact t.raise_notified _
  · intro none_
    have raised : s.parkAtEnd n e which =
        (t.raise (.endl n which e.cue e.offset e.tick false (Config.freeByte t.drawn) (Config.freeWord t.drawn))).draw := by
      unfold State.parkAtEnd
      dsimp only
      rw [none_]
    rw [raised, ← et]
    exact ⟨_, _, t.raise_notified _⟩

/-- The stream once its locate is complete (R56). -/
def Stream.located (x : Stream) (l : Locate) (anchor : Time) : Stream :=
  if l.thenPlay then ({ x with locate := none } : Stream).runFromLocate l anchor
  else { x with locate := none, state := .parked, speed := 0, shown := false }

theorem State.finishLocate_streams (s : State) (n : StreamId) (e : Entry) (l : Locate) :
    (s.finishLocate n e l).streams = (s.setStream n ((s.stream n).located l e.deliver)).streams := by
  unfold State.finishLocate
  dsimp only
  rw [State.setStream_over (State.raise_streams s _ |>.trans (s.setStream_own n).symm),
    State.stream_congr (State.raise_streams ..)]
  rfl

theorem State.consequences_locate {l : Locate} (end_ : e.listEnd = none) (locating : (s.stream n).locate = some l)
    (locate : e.locate = true) (projected : l.projected = true) : s.consequences n e = s.finishLocate n e l := by
  unfold State.consequences
  rw [end_, locating]
  exact if_pos ⟨locate, projected⟩

/-- A locate completes without a run (R56). -/
theorem State.after_located {l : Locate} (end_ : e.listEnd = none) (locating : (s.stream n).locate = some l)
    (locate : e.locate = true) (projected : l.projected = true) (still : l.thenPlay = false) (f : Option (Fin 8)) :
    s.after n e f = s.finishLocate n e l := by
  have stream := State.stream_of_streams (s.finishLocate_streams n e l)
  have parked : ((s.finishLocate n e l).stream n).state = .parked := by
    rw [stream, Stream.located, still]
    rfl
  unfold State.after
  rw [State.consequences_locate end_ locating locate projected, State.holdByMark_idle (.inr (by rw [parked]; decide)),
    State.project_idle (by rw [parked]; decide), State.projectLocateIfDue_idle (.inl (by rw [parked]; decide))]

/-- A locate completes and its run projects (R56). -/
theorem State.after_plays {l : Locate} (end_ : e.listEnd = none) (locating : (s.stream n).locate = some l)
    (locate : e.locate = true) (projected : l.projected = true) (play : l.thenPlay = true) :
    s.after n e none = (s.finishLocate n e l).project n := by
  have stream := State.stream_of_streams (s.finishLocate_streams n e l)
  have free : ((s.finishLocate n e l).stream n).locate = none := by
    rw [stream, Stream.located, play]
    rfl
  unfold State.after
  rw [State.consequences_locate end_ locating locate projected, State.holdByMark_idle (.inl rfl),
    State.project_locateless free]

theorem State.finishLocate_notified (s : State) (n : StreamId) (e : Entry) (l : Locate) :
    (s.finishLocate n e l).Notified
      (.locd l.ref n (if e.sentAs = some (.fill .failed) then .failed else .ok) l.cue l.offset) s.et :=
  (s.raise_notified (.locd l.ref n e.locateResult l.cue l.offset)).mild (Calm.setStream (A := fun _ => True) _ n _).toMild

end Sys2Proof.Machine
end

section
/-! SUPPORT. The end of a presentation as a whole (R96, R154, R156), and turns (R72). -/

namespace Sys2Proof.Machine

/-! ### The end of a presentation (R96) -/

theorem Stream.holdFired_congr {x y : Stream} (h : y.marks = x.marks) (tags : List Tag) : y.holdFired tags = x.holdFired tags := by
  induction tags with
  | nil => rfl
  | cons g tags ih => simp only [Stream.holdFired, h, ih]

/-- The stream's presentation, of entry `e`, has been dropped and has left the window (R96). -/
def State.leaving (s : State) (n : StreamId) (e : Entry) (i : Bool) : State :=
  (s.setPresentation n none).left n e (e.tagsAtEnd i)

theorem Calm.leaving {A : StreamId → Prop} (s : State) (n : StreamId) (e : Entry) (i : Bool) (h : A n) :
    Calm A s (s.leaving n e i) := (Calm.setPresentation s n none (.inl rfl)).trans (Calm.left _ n e _ h)

theorem State.leaving_streams (s : State) (n : StreamId) (e : Entry) (i : Bool) :
    ∃ c f m, (s.leaving n e i).streams = (s.setStream n ((s.stream n).leaves e c f m)).streams ∧
      (∀ k, e.frame = some k → c.toNat = k.clip.val ∧ f = BitVec.ofNat 32 k.frame) ∧
      (e.tagsAtEnd i = [] → m = (s.stream n).marks) := by
  obtain ⟨c, f, m, streams, picture, marks⟩ := (s.setPresentation n none).left_streams n e (e.tagsAtEnd i)
  refine ⟨c, f, m, streams, picture, fun none_ => ?_⟩
  obtain ⟨c', f', shown, -⟩ := (s.setPresentation n none).setShown_stream n e
  rw [marks, none_, List.foldl_nil, State.stream_of_streams shown]
  rfl

theorem State.endPresentation_eq {s : State} {n : StreamId} {e : Entry} (i : Bool) (h : (s.stream n).sendingEntry = some e) :
    s.endPresentation n i =
      ((s.leaving n e i).after n e ((s.stream n).holdFired (e.tagsAtEnd i))).markMirror n := by
  obtain ⟨c, f, shown, -⟩ := (s.setPresentation n none).setShown_stream n e
  have fired : (((s.setPresentation n none).setShown n e).stream n).holdFired (e.tagsAtEnd i) =
      (s.stream n).holdFired (e.tagsAtEnd i) := Stream.holdFired_congr (by rw [State.stream_of_streams shown]; rfl) _
  rw [← fired]
  exact State.finish_eq i h

/-- The end of the presentation of entry `e`, however it ends (R96). -/
structure State.Over (s t : State) (n : StreamId) (e : Entry) : Prop where
  record : t.presentation n = none
  idle : (t.stream n).Idle
  tick : (t.stream n).shownTick = e.tick
  picture : ∀ k, e.frame = some k →
    (t.stream n).shownClip.toNat = k.clip.val ∧ (t.stream n).shownFrame = BitVec.ofNat 32 k.frame
  late : (t.stream n).lateCount = (s.stream n).lateCount
  mirror : t.region.marks[n] = true

theorem Ending.after (n : StreamId) (s : State) (e : Entry) (f : Option (Fin 8)) : Ending n s (s.after n e f) :=
  (((Ending.consequences s n e).trans (Ending.holdByMark _ n e f)).trans (Ending.project _ n)).trans
    (Ending.projectLocateIfDue _ n)

theorem State.endPresentation_over {s : State} {n : StreamId} {e : Entry} (i : Bool) (h : (s.stream n).sendingEntry = some e) :
    s.Over (s.endPresentation n i) n e := by
  obtain ⟨c, f, m, streams, picture, -⟩ := s.leaving_streams n e i
  have stream := State.stream_of_streams streams
  have ending := (Ending.after n (s.leaving n e i) e ((s.stream n).holdFired (e.tagsAtEnd i))).trans
    (.ofCalm (Calm.markMirror _ n))
  rw [← State.endPresentation_eq i h] at ending
  have shown := ending.shown
  rw [stream] at shown
  refine ⟨?_, ending.idle (by rw [stream]; exact (s.stream n).leaves_idle e c f m), shown.tick, fun k frame => ?_, shown.late, ?_⟩
  · exact (Spares.finish (A := fun _ => False) (B := fun _ => False) (s.setPresentation n none) n i).quiet n id
      (State.setPresentation_presentation ..)
  · rw [shown.clip, shown.frame]
    exact picture k frame
  · rw [State.endPresentation_eq i h]
    exact State.markMirror_marked ..

/-- Without tags the end of a presentation leaves the marks as they are (R101). -/
theorem State.endPresentation_marks {s : State} {n : StreamId} {e : Entry} {i : Bool} (h : (s.stream n).sendingEntry = some e)
    (none_ : e.tagsAtEnd i = []) : ((s.endPresentation n i).stream n).marks = (s.stream n).marks := by
  obtain ⟨c, f, m, streams, -, marks⟩ := s.leaving_streams n e i
  have stream := State.stream_of_streams streams
  have ending := (Ending.after n (s.leaving n e i) e ((s.stream n).holdFired (e.tagsAtEnd i))).trans
    (.ofCalm (Calm.markMirror _ n))
  rw [← State.endPresentation_eq i h] at ending
  have shown := ending.shown.marks
  rw [stream] at shown
  exact shown.trans (marks none_)

theorem Entry.tagsAtEnd_interrupted (e : Entry) : e.tagsAtEnd true = [] := by
  unfold Entry.tagsAtEnd
  split
  · rfl
  · rfl

/-! ### Nothing waits after the end of a presentation (R74, R75) -/

theorem Stream.not_waits (x : Stream) : ¬ x.Waits ↔ x.state ≠ .seeking ∧ x.slipEnd = none := by
  unfold Stream.Waits
  simp

theorem State.consequences_awake {s : State} {n : StreamId} (e : Entry) (h : ¬ (s.stream n).Waits) :
    ¬ ((s.consequences n e).stream n).Waits := by
  unfold State.consequences
  split
  · next which _ =>
    rw [State.stream_of_streams (s.parkAtEnd_streams n e which)]
    exact Stream.idle_of_state (fun h => nomatch h) rfl
  · split
    · next l _ =>
      split
      · rw [State.stream_of_streams (s.finishLocate_streams n e l)]
        have slip := ((Stream.not_waits _).1 h).2
        unfold Stream.located
        split
        · exact Stream.idle_of_state (fun h => nomatch h) slip
        · exact Stream.idle_of_state (fun h => nomatch h) slip
      · exact h
    · exact h

theorem State.holdByMark_awake {s : State} {n : StreamId} (e : Entry) (f : Option (Fin 8)) (h : ¬ (s.stream n).Waits) :
    ¬ ((s.holdByMark n e f).stream n).Waits := by
  unfold State.holdByMark
  split
  · exact h
  · split
    · rw [State.stream_congr (State.raise_streams ..), State.stream_of_streams (s.hold_streams n none true)]
      exact Stream.idle_of_state (fun h => nomatch h) rfl
    · exact h

theorem State.after_awake {s : State} {n : StreamId} (e : Entry) (f : Option (Fin 8)) (h : ¬ (s.stream n).Waits) :
    ¬ ((s.after n e f).stream n).Waits := by
  obtain ⟨added, grown, -, -⟩ := ((s.consequences n e).holdByMark n e f).project_grown n
  have asleep := grown.waits (State.holdByMark_awake e f (State.consequences_awake e h))
  unfold State.after
  rw [State.projectLocateIfDue_idle (.inl ((Stream.not_waits _).1 asleep).1)]
  exact asleep

theorem State.endPresentation_awake {s : State} {n : StreamId} {e : Entry} (i : Bool) (sending : (s.stream n).sendingEntry = some e)
    (h : ¬ (s.stream n).Waits) : ¬ ((s.endPresentation n i).stream n).Waits := by
  obtain ⟨c, f, m, streams, -, -⟩ := s.leaving_streams n e i
  rw [State.endPresentation_eq i sending]
  refine State.after_awake (s := s.leaving n e i) e _ ?_
  rw [State.stream_of_streams streams]
  exact h

/-- What waking leaves of a presentation's end (R74, R75). -/
theorem State.Over.wakeAll {s t : State} {n : StreamId} {e : Entry} (h : s.Over t n e) (asleep : ¬ (t.stream n).Waits) :
    s.Over t.wakeAll n e := by
  have calm := Calm.wakeAll_waiting t
  have like := calm.others n asleep
  refine ⟨calm.quiet n asleep h.record, like.idle h.idle, ?_, ?_, ?_, State.wakeAll_marked h.mirror⟩
  · rw [like.1]
    exact h.tick
  · rw [like.1]
    exact h.picture
  · rw [like.1]
    exact h.late

/-! ### Turns (R72) -/

theorem State.turn_settled {s : State} {n : StreamId} {e : Entry} {a : SentAs} (h : s.TurnSends n e a none) :
    s.turn n e = s.begin n e a := by
  unfold State.turn
  rcases h.settled with ⟨failed, rfl⟩ | ⟨ready, rfl⟩
  · rw [failed]
  · rw [ready]

theorem State.turn_substitute {s : State} {n : StreamId} {e : Entry} {a : SentAs} {o : LateOutcome}
    (h : s.TurnSends n e a (some o)) (up : (s.port (s.stream n).port).up = true) :
    s.turn n e = (s.applyLate n e o 0).begin n e a := by
  obtain ⟨ready, failed, late⟩ := h
  rw [State.turn_late ready failed]
  unfold State.latePolicy
  dsimp only
  rw [if_pos up]
  rcases late with ⟨k, policy, last, rfl, rfl⟩ | ⟨skip | ⟨policy, last⟩ | ⟨slip, reached⟩, rfl, rfl⟩
  · rw [policy]
    simp only [Stream.substitute, policy, last]
  · rw [skip]
    simp only [Stream.substitute, skip]
  · rw [policy]
    simp only [Stream.substitute, policy, last]
  · rw [slip]
    exact if_pos (by simpa [BitVec.ule, later] using reached)

/-- On a DOWN port a turn sends nothing (R156). -/
theorem State.turn_down {s : State} {n : StreamId} {e : Entry} (down : (s.port (s.stream n).port).up = false) :
    ∃ a, s.turn n e = s.begin n e a := by
  unfold State.turn
  split
  · exact ⟨_, rfl⟩
  · exact ⟨_, rfl⟩
  · refine ⟨_, if_neg ?_⟩
    rw [down]
    exact Bool.false_ne_true

theorem Entry.begun_substitute {e : Entry} {a : SentAs} (h : ∀ k b d, a ≠ .frame k b d) (kind : e.kind = .frame) :
    (e.begun a).ref = none ∧ (e.begun a).tags = [] := by
  have sub : isSubstitute e a = true := by
    unfold isSubstitute
    rw [kind]
    cases a with
    | frame k b d => exact absurd rfl (h k b d)
    | repeated k => rfl
    | fill r => rfl
  exact ⟨if_pos sub, if_pos sub⟩

theorem Entry.begun_frame {e : Entry} {a : SentAs} (h : ∃ k b d, a = .frame k b d) :
    (e.begun a).ref = e.ref ∧ (e.begun a).tags = e.tags := by
  obtain ⟨k, b, d, rfl⟩ := h
  have own : isSubstitute e (.frame k b d) = false := by simp [isSubstitute]
  exact ⟨if_neg (by rw [own]; exact Bool.false_ne_true), if_neg (by rw [own]; exact Bool.false_ne_true)⟩

/-- What a turn leaves of its stream's window (R72, R95). -/
theorem Stream.begun_facts {x : Stream} {e : Entry} {a : SentAs} (idle : x.sendingEntry = none)
    (here : ∃ y ∈ x.window, y.tick = e.tick) :
    (∃ y : Entry, (x.begun e a).sendingEntry = some y ∧ y.tick = e.tick ∧ y.deliver = e.deliver ∧ y.sentAs = some a ∧
      ((∀ k b d, a ≠ .frame k b d) → e.kind = .frame → y.ref = none ∧ y.tags = []) ∧
      ((∃ k b d, a = .frame k b d) → y.ref = e.ref ∧ y.tags = e.tags)) ∧
    ∀ y ∈ x.window, y.tick ≠ e.tick → y ∈ (x.begun e a).window := by
  refine ⟨⟨e.begun a, Stream.begun_sending idle here, rfl, rfl, rfl, Entry.begun_substitute, Entry.begun_frame⟩,
    fun y mem other => List.mem_map.2 ⟨y, mem, if_neg other⟩⟩

/-- A turn on a DOWN port (R156). -/
theorem State.begin_down {s : State} {n : StreamId} {e : Entry} {a : SentAs} (down : (s.port (s.stream n).port).up = false) :
    s.begin n e a = (s.handOver n e a).endPresentation n true := by
  refine if_neg ?_
  rw [(Calm.handOver (A := fun _ => True) s n e a).links, down]
  exact Bool.false_ne_true

/-- Settles O41. -/
theorem turnSendsTheEntry : Obligations.TurnSendsTheEntry := by
  unfold Obligations.TurnSendsTheEntry
  refine ⟨fun n e a o s settled due up sends => ?_, fun n s settled none_ => ?_, fun n e s settled due down => ?_⟩
  · cases o with
    | none =>
      have turn := (State.turn_settled sends).trans (State.begin_up up e a)
      have asleep := State.handOver_settled (a := a) (fun k _ => settled k) due.idle due.here
      have stream := s.handOver_stream n e a
      obtain ⟨sending, others⟩ := Stream.begun_facts (a := a) due.idle due.here
      rw [← stream] at sending others
      refine ⟨s.handOver n e a, ?_, Calm.handOver s n e a rfl, s.handOver_began n e a, ?_, sending, others⟩
      · rw [exec_tickTurn due, turn, wakeAll_settled asleep]
      · rw [stream]
        exact due.running
    | some o =>
      have turn := (State.turn_substitute sends up).trans (State.lateBegin_up up e a o 0)
      have asleep := State.lateOver_settled (a := a) (o := o) (w := 0) (fun k _ => settled k) due.idle due.here
      have stream := (s.applyLate n e o 0).handOver_stream n e a
      rw [s.applyLate_stream] at stream
      obtain ⟨sending, others⟩ := Stream.begun_facts
        (x := { s.stream n with lateCount := (s.stream n).lateCount + 1 }) (a := a) due.idle due.here
      rw [← stream] at sending others
      refine ⟨(s.applyLate n e o 0).handOver n e a, ?_, Calm.lateOver s n e a o 0 rfl, s.lateOver_began n e a o 0, ?_, sending,
        others⟩
      · rw [exec_tickTurn due, turn, wakeAll_settled asleep]
      · rw [stream]
        exact due.running
  · refine congrArg Host.Outcome.next ?_
    split
    · rfl
    · next awake =>
      have undue : s.dueEntry n = none := by
        by_contra some_
        obtain ⟨e, due⟩ := Option.ne_none_iff_exists'.1 some_
        exact none_ e (State.due_of_dueEntry (by simpa [State.halted] using awake) due)
      unfold State.turnIfDue
      rw [undue]
      exact wakeAll_settled settled
  · obtain ⟨a, turn⟩ := State.turn_down (e := e) down
    have stream := s.handOver_stream n e a
    have sending : ((s.handOver n e a).stream n).sendingEntry = some (e.begun a) := by
      rw [stream]
      exact Stream.begun_sending due.idle due.here
    have awake : ¬ ((s.handOver n e a).stream n).Waits := by
      rw [stream]
      exact Stream.idle_of_state (x := (s.stream n).begun e a)
        (fun seeking => nomatch (due.running.symm.trans seeking : Transport.running = .seeking)) rfl
    have over_ := (State.endPresentation_over true sending).wakeAll (State.endPresentation_awake true sending awake)
    have calm := (Calm.handOver (A := fun k => k = n) s n e a rfl).trans (Calm.endPresentation _ n true rfl)
    refine ⟨_, exec_tickTurn due, ?_⟩
    rw [turn, State.begin_down down]
    refine ⟨calm.wakeOthers, over_.record, (Stream.idle_iff _).1 over_.idle, over_.tick, over_.late.trans ?_, over_.mirror⟩
    rw [stream]
    rfl

end Sys2Proof.Machine
end

section
/-! SUPPORT. What the end of a presentation comes to for its stream, case by case (R54, R56, R92, R96, R101, R102). -/

namespace Sys2Proof.Machine

/-! ### What the stream then is -/

/-- The stream runs on, its projection continued (R92). -/
def Stream.RunsOn (x y : Stream) : Prop :=
  y.state = .running ∧ y.speed = x.speed ∧
    ∃ added, y.window.map Entry.core = (x.unsent ++ added).map Entry.core ∧ x.Projected x.speed added ∧
      (x.depth ≤ 16 → y.Filled)

/-- The stream is parked with an empty window (R54, R89). -/
def Stream.Parks (y : Stream) : Prop :=
  y.state = .parked ∧ y.speed = 0 ∧ y.shown = false ∧ y.releaseTime = none ∧ y.releaseResume = false ∧ y.window = []

/-- The stream is parked at the end of a locate (R56). -/
def Stream.Rests (x y : Stream) : Prop :=
  y.locate = none ∧ y.state = .parked ∧ y.speed = 0 ∧ y.shown = false ∧ y.window.map Entry.core = x.unsent.map Entry.core

/-- The stream runs from the end of a locate, its entry being run tick 0 (R56, R74). -/
def Stream.Plays (x y : Stream) (l : Locate) (anchor : Time) : Prop :=
  y.locate = none ∧ y.slipEnd = x.slipEnd ∧ ∃ added, y.state = .running ∧ y.speed = l.thenSpeed ∧ y.proj.anchor = anchor ∧
    y.window.map Entry.core = (x.unsent ++ added).map Entry.core ∧ x.Projected l.thenSpeed added ∧
    (x.depth ≤ 16 → y.Filled) ∧ (x.Paced → x.RunTimes anchor 1 added) ∧
    ∀ z, added[0]? = some z →
      z.cue = (advance x.cues l.thenSpeed l.cue l.offset (liveCounters x.cues)).cue ∧
        z.offset = (advance x.cues l.thenSpeed l.cue l.offset (liveCounters x.cues)).offset

theorem Stream.RunsOn.alike {x y z : Stream} (h : x.RunsOn y) (k : y.Alike z) : x.RunsOn z := by
  obtain ⟨state, speed, added, window, projected, filled⟩ := h
  refine ⟨by rw [k.1]; exact state, by rw [k.1]; exact speed, added, k.2.trans window, projected, fun shallow => ?_⟩
  exact k.filled (filled shallow)

theorem Stream.Parks.alike {y z : Stream} (h : y.Parks) (k : y.Alike z) : z.Parks := by
  obtain ⟨state, speed, shown, time, resume, window⟩ := h
  refine ⟨by rw [k.1]; exact state, by rw [k.1]; exact speed, by rw [k.1]; exact shown, by rw [k.1]; exact time,
    by rw [k.1]; exact resume, ?_⟩
  have same := k.2
  rw [window] at same
  exact List.map_eq_nil_iff.1 same

theorem Stream.Rests.alike {x y z : Stream} (h : x.Rests y) (k : y.Alike z) : x.Rests z := by
  obtain ⟨locate, state, speed, shown, window⟩ := h
  exact ⟨by rw [k.1]; exact locate, by rw [k.1]; exact state, by rw [k.1]; exact speed, by rw [k.1]; exact shown,
    k.2.trans window⟩

theorem Stream.Plays.alike {x y z : Stream} {l : Locate} {a : Time} (h : x.Plays y l a) (k : y.Alike z) : x.Plays z l a := by
  obtain ⟨locate, slip, added, state, speed, anchor, window, projected, filled, rest⟩ := h
  exact ⟨by rw [k.1]; exact locate, by rw [k.1]; exact slip, added, by rw [k.1]; exact state,
    by rw [k.1]; exact speed, by rw [k.1]; exact anchor, k.2.trans window, projected, fun shallow => k.filled (filled shallow), rest⟩

/-! ### The cases -/

section

variable {s : State} {n : StreamId} {e : Entry} {i : Bool}

/-- A RUNNING stream without list end, locate and HOLD mark projects on (R92). -/
theorem State.endPresentation_grown (sending : (s.stream n).sendingEntry = some e) (awake : s.region.engine ≠ .halted)
    (running : (s.stream n).state = .running) (end_ : e.listEnd = none) (free : (s.stream n).locate = none)
    (unheld : (s.stream n).holdFired (e.tagsAtEnd i) = none) :
    ∃ c f m added, ((s.stream n).leaves e c f m).Grown ((s.endPresentation n i).stream n) added ∧
      ((s.stream n).depth ≤ 16 → ((s.endPresentation n i).stream n).Filled) := by
  obtain ⟨c, f, m, streams, -, -⟩ := s.leaving_streams n e i
  have stream := State.stream_of_streams streams
  obtain ⟨added, grown, -, filled⟩ := (s.leaving n e i).project_grown n
  rw [State.endPresentation_eq i sending, State.after_plain end_ (by rw [stream]; exact free) (.inl unheld)]
  rw [stream] at grown filled
  rw [(Calm.leaving (A := fun _ => True) s n e i trivial).region.engine] at filled
  exact ⟨c, f, m, added, grown, fun shallow => filled awake running shallow⟩

theorem State.endPresentation_runsOn (sending : (s.stream n).sendingEntry = some e) (awake : s.region.engine ≠ .halted)
    (running : (s.stream n).state = .running) (end_ : e.listEnd = none) (free : (s.stream n).locate = none)
    (unheld : (s.stream n).holdFired (e.tagsAtEnd i) = none) : (s.stream n).RunsOn ((s.endPresentation n i).stream n) := by
  obtain ⟨c, f, m, added, grown, filled⟩ := State.endPresentation_grown sending awake running end_ free unheld
  refine ⟨(congrArg Stream.state grown.fields).trans running, (congrArg Stream.speed grown.fields).trans rfl, added, ?_,
    grown.projected, filled⟩
  rw [List.map_append]
  exact grown.window

/-- A HELD stream without list end and locate stays as it is (R96). -/
theorem State.endPresentation_held (sending : (s.stream n).sendingEntry = some e) (held : (s.stream n).state = .held)
    (end_ : e.listEnd = none) (free : (s.stream n).locate = none) :
    s.endPresentation n i = (s.leaving n e i).markMirror n := by
  obtain ⟨c, f, m, streams, -, -⟩ := s.leaving_streams n e i
  have stream := State.stream_of_streams streams
  have state : ((s.leaving n e i).stream n).state ≠ .running := by
    rw [stream]
    exact fun running => nomatch (held.symm.trans running : Transport.held = .running)
  rw [State.endPresentation_eq i sending, State.after_plain end_ (by rw [stream]; exact free) (.inr state),
    State.project_idle state]

/-- A list end parks the stream, with ENDL (R54, R89). -/
theorem State.endPresentation_parks (sending : (s.stream n).sendingEntry = some e) {which : ListEnd}
    (end_ : e.listEnd = some which) :
    ((s.endPresentation n i).stream n).Parks ∧
      (∀ k, e.frame = some k → (s.endPresentation n i).Notified
        (.endl n which e.cue e.offset e.tick true (BitVec.ofNat 8 k.clip) (BitVec.ofNat 32 k.frame)) s.et) ∧
      (e.frame = none →
        ∃ a b, (s.endPresentation n i).Notified (.endl n which e.cue e.offset e.tick false a b) s.et) := by
  obtain ⟨c, f, m, streams, -, -⟩ := s.leaving_streams n e i
  have stream := State.stream_of_streams streams
  obtain ⟨shown, unshown⟩ := (s.leaving n e i).parkAtEnd_notified n e which
  rw [(Calm.leaving (A := fun _ => True) s n e i trivial).et] at shown unshown
  have parked := State.stream_of_streams ((s.leaving n e i).parkAtEnd_streams n e which)
  rw [stream] at parked
  rw [State.endPresentation_eq i sending, State.after_parks end_]
  have marked := (Calm.markMirror (A := fun _ => True) ((s.leaving n e i).parkAtEnd n e which) n).toMild
  refine ⟨?_, fun k frame => (shown k frame).mild marked, fun none_ => ?_⟩
  · have same : ((((s.leaving n e i).parkAtEnd n e which).markMirror n).stream n) =
        ((s.stream n).leaves e c f m).ended := parked
    rw [same]
    refine ⟨rfl, rfl, rfl, rfl, rfl, List.filter_eq_nil_iff.2 fun y mem => ?_⟩
    simpa using (s.stream n).leaves_idle e c f m y mem
  · obtain ⟨a, b, told⟩ := unshown none_
    exact ⟨a, b, told.mild marked⟩

/-- LOCD of a locate that completes (R56). -/
theorem State.endPresentation_locd (sending : (s.stream n).sendingEntry = some e) (end_ : e.listEnd = none)
    (locate : e.locate = true) {l : Locate} (locating : (s.stream n).locate = some l) (projected : l.projected = true) :
    (s.endPresentation n i).Notified
      (.locd l.ref n (if e.sentAs = some (.fill .failed) then .failed else .ok) l.cue l.offset) s.et := by
  obtain ⟨c, f, m, streams, -, -⟩ := s.leaving_streams n e i
  have stream := State.stream_of_streams streams
  have told := (s.leaving n e i).finishLocate_notified n e l
  rw [(Calm.leaving (A := fun _ => True) s n e i trivial).et] at told
  rw [← State.consequences_locate end_ (by rw [stream]; exact locating) locate projected] at told
  rw [State.endPresentation_eq i sending]
  exact told.mild ((((Calm.holdByMark (A := fun _ => True) _ n e _).trans (Calm.project _ n)).trans
    (Calm.projectLocateIfDue _ n)).trans (Calm.markMirror _ n)).toMild

/-- A locate completes without a run (R56). -/
theorem State.endPresentation_rests (sending : (s.stream n).sendingEntry = some e) (end_ : e.listEnd = none)
    (locate : e.locate = true) {l : Locate} (locating : (s.stream n).locate = some l) (projected : l.projected = true)
    (still : l.thenPlay = false) : (s.stream n).Rests ((s.endPresentation n i).stream n) := by
  obtain ⟨c, f, m, streams, -, -⟩ := s.leaving_streams n e i
  have stream := State.stream_of_streams streams
  have located := State.stream_of_streams ((s.leaving n e i).finishLocate_streams n e l)
  rw [stream] at located
  rw [State.endPresentation_eq i sending,
    State.after_located end_ (by rw [stream]; exact locating) locate projected still]
  have same : ((((s.leaving n e i).finishLocate n e l).markMirror n).stream n) =
      ((s.stream n).leaves e c f m).located l e.deliver := located
  rw [same, Stream.located, still]
  exact ⟨rfl, rfl, rfl, rfl, rfl⟩

theorem Projection.step_fields (p : Projection) (x : Stream) :
    (p.step x).cue = p.cue ∧ (p.step x).offset = p.offset ∧ (p.step x).counters = p.counters ∧ (p.step x).fresh = p.fresh ∧
      (p.step x).anchor = p.anchor := by
  unfold Projection.step
  dsimp only
  split
  · exact ⟨rfl, rfl, rfl, rfl, rfl⟩
  · exact ⟨rfl, rfl, rfl, rfl, rfl⟩

/-- A run from a locate projects its run ticks from 1 on (R56, R66, R74). -/
theorem Stream.runFromLocate_plays {x y : Stream} {l : Locate} {a : Time} {added : List Entry} (free : x.locate = none)
    (grown : (x.runFromLocate l a).Grown y added) (filled : x.depth ≤ 16 → y.Filled) (idle : x.unsent = x.window) :
    x.Plays y l a := by
  set start : Projection :=
    { anchor := a, index := 0, deliver := a, acc := 0, cue := l.cue, offset := l.offset,
      counters := liveCounters x.cues, prev := x.lastPresented, fresh := false }
  obtain ⟨cue, offset, counters, fresh, anchor⟩ := start.step_fields x
  have proj : (x.runFromLocate l a).proj = start.step x := rfl
  refine ⟨(congrArg Stream.locate grown.fields).trans free, (congrArg Stream.slipEnd grown.fields).trans rfl, added,
    congrArg Stream.state grown.fields, congrArg Stream.speed grown.fields, ?_, ?_, grown.projected, filled, fun paced => ?_, fun z first => ?_⟩
  · rw [grown.anchor, proj, anchor]
  · rw [idle, List.map_append]
    exact grown.window
  · have first := (Projection.atTick_zero (p := start) (a := a) paced rfl rfl rfl).step paced
    exact (grown.times a 1 paced.congr first).1
  · obtain ⟨atCue, atOffset⟩ := grown.first z first
    rw [atCue, atOffset, Stream.nextPosition, proj, cue, offset, counters, fresh]
    exact ⟨rfl, rfl⟩

/-- A locate completes and its run begins (R56). -/
theorem State.endPresentation_plays (sending : (s.stream n).sendingEntry = some e) (awake : s.region.engine ≠ .halted)
    (end_ : e.listEnd = none) (locate : e.locate = true) {l : Locate} (locating : (s.stream n).locate = some l)
    (projected : l.projected = true) (play : l.thenPlay = true)
    (unheld : (s.stream n).holdFired (e.tagsAtEnd i) = none) :
    (s.stream n).Plays ((s.endPresentation n i).stream n) l e.deliver := by
  obtain ⟨c, f, m, streams, -, -⟩ := s.leaving_streams n e i
  have stream := State.stream_of_streams streams
  have located := State.stream_of_streams ((s.leaving n e i).finishLocate_streams n e l)
  obtain ⟨added, grown, -, filled⟩ := ((s.leaving n e i).finishLocate n e l).project_grown n
  rw [State.endPresentation_eq i sending, unheld,
    State.after_plays end_ (by rw [stream]; exact locating) locate projected play]
  rw [located, stream, Stream.located, play, if_pos rfl] at grown filled
  rw [((Calm.leaving (A := fun _ => True) s n e i trivial).trans (Calm.finishLocate _ n e l)).region.engine] at filled
  have plays := Stream.runFromLocate_plays (x := { (s.stream n).leaves e c f m with locate := none }) rfl grown
    (fun shallow => filled awake rfl shallow) (Stream.Idle.unsent ((s.stream n).leaves_idle e c f m))
  obtain ⟨free, slip, added, state, speed, anchor, window, projected, filled, times, first⟩ := plays
  refine ⟨free, slip, added, state, speed, anchor, ?_, projected, filled, fun paced => times paced.congr, first⟩
  have same : ({ (s.stream n).leaves e c f m with locate := none } : Stream).unsent = (s.stream n).unsent :=
    Stream.Idle.unsent ((s.stream n).leaves_idle e c f m)
  rw [same] at window
  exact window

end

end Sys2Proof.Machine
end

section
/-! SUPPORT. Marks at the end of a presentation (R101, R102), and MESSAGE_SENT (R152, R154). -/

namespace Sys2Proof.Machine

/-! ### The count rule (R101) -/

theorem Mark.event_fires (m : Mark) : m.event.2 = true ↔ m.limit = none ∨ m.limit = some (m.count + 1) := by
  unfold Mark.event
  cases m.limit with
  | none => simp
  | some l =>
    dsimp only
    split
    · next last => simp [last]
    · next early => simpa using fun same : l = m.count + 1 => early same.symm

theorem Mark.event_mark (m : Mark) :
    m.event.1 = { m with
      count := if m.limit = none then m.count else if m.limit = some (m.count + 1) then 0 else m.count + 1 } := by
  obtain ⟨serial, clip, frame, kind, action, cond, limit, count⟩ := m
  unfold Mark.event
  cases limit with
  | none => rfl
  | some l =>
    dsimp only
    by_cases last : count + 1 = l
    · rw [if_pos last, if_pos (congrArg some last.symm)]
      rfl
    · rw [if_neg last, if_neg fun same => last (Option.some.inj same).symm]
      rfl

/-- One live tag evaluated (R101). -/
theorem State.evalTag_live {s : State} {n : StreamId} (e : Entry) {g : Tag} {m : Mark}
    (set_ : (s.stream n).marks[g.slot] = some m) (live : m.serial = g.serial) :
    ((State.evalTag n e s g).stream n).marks[g.slot] = some m.event.1 ∧
      (m.event.2 = true →
        (State.evalTag n e s g).Notified (.shwn n g.slot e.direction m.clip m.serial m.frame e.tick) s.et) := by
  set t := s.setStream n ((s.stream n).setMark g.slot (some m.event.1))
  have evaluated : State.evalTag n e s g =
      if m.event.2 then t.raise (.shwn n g.slot e.direction m.clip m.serial m.frame e.tick) else t := by
    unfold State.evalTag
    rw [set_]
    exact if_pos live
  have marked : (t.stream n).marks[g.slot] = some m.event.1 := by
    rw [State.setStream_stream]
    exact Vector.getElem_set_self ..
  have streams : (State.evalTag n e s g).streams = t.streams := by
    rw [evaluated]
    split
    · exact State.raise_streams ..
    · rfl
  have stream := State.stream_congr streams n
  rw [← stream] at marked
  refine ⟨marked, fun fires => ?_⟩
  rw [evaluated, if_pos fires]
  exact t.raise_notified _

theorem Entry.tagsAtEnd_frame {e : Entry} (h : ∃ k b d, e.sentAs = some (.frame k b d)) : e.tagsAtEnd false = e.tags := by
  obtain ⟨k, b, d, sent⟩ := h
  unfold Entry.tagsAtEnd
  rw [sent]
  rfl

/-- The one tag of a presentation that ends (R101). -/
theorem State.leaving_tag {s : State} {n : StreamId} {e : Entry} {g : Tag} {m : Mark} (tags : e.tags = [g])
    (set_ : (s.stream n).marks[g.slot] = some m) (live : m.serial = g.serial)
    (sent : ∃ k b d, e.sentAs = some (.frame k b d)) :
    ((s.leaving n e false).stream n).marks[g.slot] = some m.event.1 ∧
      (m.event.2 = true →
        (s.leaving n e false).Notified (.shwn n g.slot e.direction m.clip m.serial m.frame e.tick) s.et) := by
  obtain ⟨c, f, m', streams, -, marks⟩ := (s.setPresentation n none).left_streams n e (e.tagsAtEnd false)
  have stream : (s.leaving n e false).stream n = _ := State.stream_of_streams streams
  obtain ⟨c', f', shown, -⟩ := (s.setPresentation n none).setShown_stream n e
  have shownCalm := Calm.setShown (A := fun _ => True) (s.setPresentation n none) n e
  obtain ⟨mark, told⟩ := State.evalTag_live (s := (s.setPresentation n none).setShown n e) (n := n) e (g := g) (m := m)
    (by rw [State.stream_of_streams shown]; exact set_) live
  rw [Entry.tagsAtEnd_frame sent, tags, List.foldl_cons, List.foldl_nil] at marks
  constructor
  · rw [stream]
    exact (congrArg (fun v : Vector (Option Mark) 8 => v[g.slot]) marks).trans mark
  · intro fires
    have notified := told fires
    rw [shownCalm.et] at notified
    have rest := (Calm.setStream (A := fun _ => True) (State.evalTag n e ((s.setPresentation n none).setShown n e) g) n
      { (State.evalTag n e ((s.setPresentation n none).setShown n e) g).stream n with
        window := ((State.evalTag n e ((s.setPresentation n none).setShown n e) g).stream n).window.filter
          fun y => y.stage != .sending }).trans (Calm.releaseRef _ e.ref)
    unfold State.leaving State.left
    rw [Entry.tagsAtEnd_frame sent, tags]
    exact notified.mild rest.toMild

/-! ### HOLD marks (R102) -/

theorem Stream.Unheld.holdFired {x : Stream} {e : Entry} (h : x.Unheld e) (i : Bool) : x.holdFired (e.tagsAtEnd i) = none := by
  have all (tags : List Tag) (within : ∀ g ∈ tags, g ∈ e.tags) : x.holdFired tags = none := by
    induction tags with
    | nil => rfl
    | cons g tags ih =>
      have rest := ih fun g' mem => within g' (List.mem_cons_of_mem _ mem)
      unfold Stream.holdFired
      split
      · next m set_ =>
        have notify := h g (within g (List.mem_cons_self ..)) m set_
        rw [if_neg (by rw [notify]; exact fun fired => nomatch fired.2.2), rest]
      · exact rest
  unfold Entry.tagsAtEnd
  split
  · split
    · rfl
    · exact all _ fun _ => id
  · rfl

/-- A RUNNING stream is held by the mark of its one tag, if that fires (R102). -/
theorem State.endPresentation_holds {s : State} {n : StreamId} {e : Entry} {g : Tag} {m : Mark}
    (sending : (s.stream n).sendingEntry = some e) (running : (s.stream n).state = .running) (end_ : e.listEnd = none)
    (free : (s.stream n).locate = none) (tags : e.tags = [g]) (set_ : (s.stream n).marks[g.slot] = some m)
    (live : m.serial = g.serial) (sent : ∃ k b d, e.sentAs = some (.frame k b d)) (action : m.action = .hold)
    (fires : m.event.2 = true) :
    s.endPresentation n false =
      (((s.leaving n e false).hold n none true).raise (.hldn n g.slot e.tick)).markMirror n := by
  obtain ⟨c, f, m', streams, -, -⟩ := s.leaving_streams n e false
  have stream := State.stream_of_streams streams
  have fired : (s.stream n).holdFired (e.tagsAtEnd false) = some g.slot := by
    rw [Entry.tagsAtEnd_frame sent, tags, Stream.holdFired, set_]
    exact if_pos ⟨live, fires, action⟩
  rw [State.endPresentation_eq false sending, fired,
    State.after_holds end_ (by rw [stream]; exact free) (by rw [stream]; exact running)]

/-- What the mark leaves of the stream that it holds (R102). -/
theorem State.endPresentation_heldByMark {s : State} {n : StreamId} {e : Entry} {g : Tag} {m : Mark}
    (sending : (s.stream n).sendingEntry = some e) (running : (s.stream n).state = .running) (end_ : e.listEnd = none)
    (free : (s.stream n).locate = none) (tags : e.tags = [g]) (set_ : (s.stream n).marks[g.slot] = some m)
    (live : m.serial = g.serial) (sent : ∃ k b d, e.sentAs = some (.frame k b d)) (action : m.action = .hold)
    (fires : m.event.2 = true) :
    let w := s.endPresentation n false
    let y := w.stream n
    y.state = .held ∧ y.speed = (s.stream n).speed ∧ y.releaseTime = none ∧ y.releaseResume = true ∧ y.slipEnd = none ∧
      y.window.map Entry.core = ((s.stream n).unsent.map fun z => { z with deadline := none }).map Entry.core ∧
      w.Notified (.shwn n g.slot e.direction m.clip m.serial m.frame e.tick) s.et ∧
      w.Notified (.hldn n g.slot e.tick) s.et := by
  dsimp only
  rw [State.endPresentation_holds sending running end_ free tags set_ live sent action fires]
  obtain ⟨c, f, m', streams, -, -⟩ := s.leaving_streams n e false
  have held := Calm.hold (A := fun _ => True) (s.leaving n e false) n none true
  set v := (s.leaving n e false).hold n none true with hv
  have stream : ((((v.raise (.hldn n g.slot e.tick)).markMirror n)).stream n) = ((s.stream n).leaves e c f m').heldUntil none true := by
    rw [State.stream_congr ((State.markMirror_streams ..).trans (State.raise_streams ..)), hv,
      State.stream_of_streams (State.hold_streams ..), State.stream_of_streams streams]
  have later := (Calm.raise (A := fun _ => True) v (.hldn n g.slot e.tick)).trans (Calm.markMirror _ n)
  have et : v.et = s.et := held.et.trans (Calm.leaving (A := fun _ => True) s n e false trivial).et
  rw [stream]
  refine ⟨rfl, rfl, rfl, rfl, rfl, ?_, ?_, ?_⟩
  · refine congrArg (List.map Entry.core) (List.map_congr_left fun y mem => if_neg ?_)
    simpa using (List.mem_filter.1 mem).2
  · exact ((State.leaving_tag tags set_ live sent).2 fires).mild (held.trans later).toMild
  · have told := (v.raise_notified (.hldn n g.slot e.tick)).mild (Calm.markMirror (A := fun _ => True) _ n).toMild
    rwa [et] at told

/-- A locate that completes is over, whatever follows (R56). -/
theorem State.endPresentation_unlocated {s : State} {n : StreamId} {e : Entry} {i : Bool}
    (sending : (s.stream n).sendingEntry = some e) (end_ : e.listEnd = none) (locate : e.locate = true) {l : Locate}
    (locating : (s.stream n).locate = some l) (projected : l.projected = true) :
    ((s.endPresentation n i).stream n).locate = none := by
  obtain ⟨c, f, m, streams, -, -⟩ := s.leaving_streams n e i
  have stream := State.stream_of_streams streams
  have located := State.stream_of_streams ((s.leaving n e i).finishLocate_streams n e l)
  rw [stream] at located
  have free : (((s.leaving n e i).finishLocate n e l).stream n).locate = none := by
    rw [located]
    unfold Stream.located
    split
    · rfl
    · rfl
  have held (f : Option (Fin 8)) :
      ((((s.leaving n e i).finishLocate n e l).holdByMark n e f).stream n).locate = none := by
    unfold State.holdByMark
    split
    · exact free
    · split
      · rw [State.stream_congr (State.raise_streams ..), State.stream_of_streams (State.hold_streams ..)]
        exact free
      · exact free
  have after (f : Option (Fin 8)) : (((s.leaving n e i).after n e f).stream n).locate = none := by
    obtain ⟨added, grown, -, -⟩ := (((s.leaving n e i).finishLocate n e l).holdByMark n e f).project_grown n
    unfold State.after
    rw [State.consequences_locate end_ (by rw [stream]; exact locating) locate projected, State.project_locateless (held f)]
    exact (congrArg Stream.locate grown.fields).trans (held f)
  rw [State.endPresentation_eq i sending]
  exact after _

/-! ### MESSAGE_SENT (R152, R154) -/

theorem State.messageEnds_idle {s : State} {p : Port} (h : s.region.engine = .halted ∨ (s.port p).transmitting = none) :
    s.messageEnds p = s := by
  unfold State.messageEnds
  split
  · rfl
  · next awake =>
    rw [h.resolve_left fun halted => awake (by simp [State.halted, halted])]

theorem State.messageEnds_eq {s : State} {p : Port} {t : Transmission} (awake : s.region.engine ≠ .halted)
    (message : (s.port p).transmitting = some t) :
    s.messageEnds p =
      ((((s.setPort p { s.port p with transmitting := none }).completeIfDone t.stream).wakeAll).transmit p) := by
  unfold State.messageEnds
  rw [if_neg (by simp [State.halted, awake]), message]

theorem State.completeIfDone_owed {s : State} {n : StreamId} {x : Presentation} (record : s.presentation n = some x)
    (owed : x.todo ≠ []) : s.completeIfDone n = s := by
  refine if_neg ?_
  unfold State.complete
  rw [record]
  simp [owed]

theorem State.completeIfDone_last {s : State} {n : StreamId} {x : Presentation} (record : s.presentation n = some x)
    (last : x.todo = []) (free : (s.port x.port).transmitting = none) :
    s.completeIfDone n = (s.endPresentation n false).turnIfDue n := by
  refine if_pos ?_
  unfold State.complete State.inFlight
  rw [record]
  dsimp only
  rw [last, free]
  rfl

theorem State.messageEnds_last {s : State} {p : Port} {t : Transmission} {x : Presentation} (awake : s.region.engine ≠ .halted)
    (message : (s.port p).transmitting = some t) (record : s.presentation t.stream = some x) (own : x.port = p)
    (last : x.todo = []) :
    s.messageEnds p =
      (((((s.setPort p { s.port p with transmitting := none }).endPresentation t.stream false).turnIfDue t.stream).wakeAll).transmit
        p) := by
  rw [State.messageEnds_eq awake message,
    State.completeIfDone_last (x := x) (by rw [State.setPort_presentation]; exact record) last (by rw [own, State.setPort_port])]

theorem State.turnIfDue_idle {s : State} {n : StreamId} (h : (s.stream n).state ≠ .running) : s.turnIfDue n = s := by
  have undue : s.dueEntry n = none := if_neg fun able => h able.1
  unfold State.turnIfDue
  rw [undue]

/-- The end of a port's last message (R96, R154). -/
theorem State.Ends.completed {s : State} {p : Port} {n : StreamId} {e : Entry} (h : s.Ends p n e) :
    s.Completed ((s.setPort p { s.port p with transmitting := none }).endPresentation n false) p n e := by
  have sending : ((s.setPort p { s.port p with transmitting := none }).stream n).sendingEntry = some e := by
    rw [State.setPort_stream]
    exact h.entry
  have over_ := State.endPresentation_over false sending
  exact ⟨Calm.endPresentation _ n false rfl, over_.record, (Stream.idle_iff _).1 over_.idle, over_.tick, over_.picture,
    over_.mirror⟩

theorem exec_messageSent_last {s : State} {p : Port} {t : Transmission} {x : Presentation} (awake : s.region.engine ≠ .halted)
    (message : (s.port p).transmitting = some t) (record : s.presentation t.stream = some x) (own : x.port = p)
    (last : x.todo = []) :
    exec (.messageSent p) s =
      .next (((((s.setPort p { s.port p with transmitting := none }).endPresentation t.stream false).turnIfDue
        t.stream).wakeAll).transmit p) :=
  congrArg Host.Outcome.next (State.messageEnds_last awake message record own last)

theorem State.Ends.exec {s : State} {p : Port} {n : StreamId} {e : Entry} (h : s.Ends p n e) :
    exec (.messageSent p) s =
      .next (((((s.setPort p { s.port p with transmitting := none }).endPresentation n false).turnIfDue n).wakeAll).transmit
        p) := by
  obtain ⟨t, message, rfl⟩ := h.message
  obtain ⟨x, record, own, last⟩ := h.last
  exact exec_messageSent_last h.awake message record own last

/-- The last message of a HELD stream's presentation (R96, R154). -/
theorem State.messageEnds_held {s : State} {p : Port} {n : StreamId} {e : Entry} (settled : s.Settled)
    (sending : (s.stream n).sendingEntry = some e) (held : (s.stream n).state = .held) (end_ : e.listEnd = none)
    (free : (s.stream n).locate = none) :
    ((((s.setPort p { s.port p with transmitting := none }).endPresentation n false).turnIfDue n).wakeAll) =
      (s.setPort p { s.port p with transmitting := none }).endPresentation n false := by
  set t := s.setPort p { s.port p with transmitting := none }
  have same : t.stream n = s.stream n := State.setPort_stream ..
  obtain ⟨c, f, m, streams, -, -⟩ := t.leaving_streams n e false
  have stream := State.stream_of_streams streams
  have ended := State.endPresentation_held (i := false) (s := t) (by rw [same]; exact sending) (by rw [same]; exact held) end_
    (by rw [same]; exact free)
  have state : (((t.leaving n e false).markMirror n).stream n).state = .held := by
    refine (congrArg Stream.state stream).trans ?_
    rw [same]
    exact held
  rw [ended, State.turnIfDue_idle (by rw [state]; decide)]
  have asleep : t.Settled := settled_of_streams settled (State.setPort_streams ..) (State.setPort_et ..)
  refine wakeAll_settled (asleep.replaced (n := n) streams
    ((Calm.leaving (A := fun _ => True) t n e false trivial).trans (Calm.markMirror _ n)).et ?_)
  unfold State.wakeable
  dsimp only
  split
  · rfl
  · refine if_neg ?_
    rw [state]
    simp [State.inWait, state]

/-- Settles O56. -/
theorem messagesEndPresentations : Obligations.MessagesEndPresentations := by
  unfold Obligations.MessagesEndPresentations
  refine ⟨fun p s idle => congrArg Host.Outcome.next (State.messageEnds_idle idle), ?_, ?_, ?_⟩
  · intro p t x s settled awake message record owed
    refine congrArg Host.Outcome.next ?_
    rw [State.messageEnds_eq awake message,
      State.completeIfDone_owed (x := x) (by rw [State.setPort_presentation]; exact record) owed,
      wakeAll_settled (settled_of_streams settled (State.setPort_streams ..) (State.setPort_et ..))]
  · intro p ⟨n, tick, viewer⟩ x e k s settled awake message record own last held sending end_ free frame
    dsimp only at *
    have ran := exec_messageSent_last awake message record own last
    rw [State.messageEnds_held settled sending held end_ free] at ran
    have same : (s.setPort p { s.port p with transmitting := none }).stream n = s.stream n := State.setPort_stream ..
    have et : (s.setPort p { s.port p with transmitting := none }).et = s.et := State.setPort_et ..
    generalize s.setPort p { s.port p with transmitting := none } = v at *
    rw [← same] at sending held free
    have ended := State.endPresentation_held (i := false) sending held end_ free
    have over_ := State.endPresentation_over false sending
    obtain ⟨c, f, m', streams, -, -⟩ := v.leaving_streams n e false
    have left := State.stream_of_streams streams
    have stream : (((v.endPresentation n false).transmit p).stream n) = (v.leaving n e false).stream n := by
      rw [State.stream_congr (State.transmit_streams ..), ended]
      rfl
    have sent := Calm.transmit (A := fun _ => False) (v.endPresentation n false) p
    refine ⟨_, ran, (Calm.endPresentation (A := fun k => k = n) v n false rfl).trans (Calm.transmit _ p),
      sent.quiet n id over_.record, ?_, ?_, ?_,
      ?_, ?_, sent.region.marks over_.mirror, fun g m tags set_ live frameSent => ?_⟩
    · rw [stream, left]
      exact held
    · rw [stream, left, same]
      rfl
    · rw [stream, left]
      rfl
    · rw [State.stream_congr (State.transmit_streams ..)]
      exact (over_.picture k frame).1
    · rw [State.stream_congr (State.transmit_streams ..)]
      exact (over_.picture k frame).2
    · rw [← same] at set_
      obtain ⟨mark, told⟩ := State.leaving_tag tags set_ live frameSent
      refine ⟨fun fires => ?_, ?_⟩
      · have notified := (told (m.event_fires.2 fires)).mild
          ((Calm.markMirror (A := fun _ => False) _ n).trans (ended ▸ sent)).toMild
        rwa [et, ← ended] at notified
      · rw [stream, mark, m.event_mark]
  · intro p n e s ends
    have same : (s.setPort p { s.port p with transmitting := none }).stream n = s.stream n := State.setPort_stream ..
    have et : (s.setPort p { s.port p with transmitting := none }).et = s.et := State.setPort_et ..
    have sending := ends.entry
    have awake : (s.setPort p { s.port p with transmitting := none }).region.engine ≠ .halted := by
      rw [State.setPort_region]
      exact ends.awake
    refine ⟨_, ends.exec, ends.completed, ?_⟩
    dsimp only
    rw [← same, ← et]
    rw [← same] at sending
    generalize s.setPort p { s.port p with transmitting := none } = v at *
    refine ⟨fun running end_ free unheld => ?_, fun which _ end_ => ?_, fun l _ end_ locate locating projected => ⟨?_, ?_, ?_, ?_⟩,
      fun g m running end_ free tags set_ live frameSent action fires => ?_⟩
    · obtain ⟨state, speed, added, rest⟩ :=
        State.endPresentation_runsOn sending awake running end_ free (unheld.holdFired false)
      exact ⟨added, state, speed, rest⟩
    · obtain ⟨⟨state, speed, shown, time, resume, window⟩, told⟩ := State.endPresentation_parks (i := false) sending end_
      exact ⟨state, speed, shown, time, resume, window, told⟩
    · exact State.endPresentation_unlocated sending end_ locate locating projected
    · exact State.endPresentation_locd sending end_ locate locating projected
    · intro still
      exact (State.endPresentation_rests (i := false) sending end_ locate locating projected still).2
    · intro play unheld
      obtain ⟨-, -, plays⟩ :=
        State.endPresentation_plays sending awake end_ locate locating projected play (unheld.holdFired false)
      exact plays
    · exact State.endPresentation_heldByMark sending running end_ free tags set_ live frameSent action (m.event_fires.2 fires)

end Sys2Proof.Machine
end

section
/-! SUPPORT. The loss of a port's link (R144, R156): the streams are interrupted one after another. -/

namespace Sys2Proof.Machine

/-! ### Streams that a report may wake (R74, R75) -/

/-- A report of a frame may set the stream going: it is SEEKING, or RUNNING in a SLIP wait. -/
def Stream.Wakes (x : Stream) : Prop := x.state = .seeking ∨ x.state = .running ∧ x.slipEnd ≠ none

theorem Stream.Like.wakes {x y : Stream} (h : x.Like y) : y.Wakes ↔ x.Wakes := by
  rw [h.1]
  rfl

theorem State.wakes_of_wakeable {s : State} {n : StreamId} {e : Entry} (h : s.wakeable n = some e) : (s.stream n).Wakes := by
  unfold State.wakeable at h
  dsimp only at h
  split at h
  · cases h
  · obtain ⟨able, -⟩ := Option.ite_none_right_eq_some.1 h
    simp only [Bool.and_eq_true, Bool.or_eq_true, beq_iff_eq] at able
    rcases able.2 with ⟨seeking, -⟩ | wait
    · exact .inl seeking
    · unfold State.inWait at wait
      simp only [Bool.and_eq_true, beq_iff_eq] at wait
      refine .inr ⟨wait.1, fun none_ => ?_⟩
      rw [none_] at wait
      cases wait.2

/-- Waking concerns the streams that a report may set going, and raises LATE for no other. -/
theorem wakeLoop_wakes {A B : StreamId → Prop} (fuel : Nat) (s : State) (h : ∀ n, (s.stream n).Wakes → A n ∧ B n) :
    Calm A s (wakeLoop fuel s) ∧ Spares A B s (wakeLoop fuel s) := by
  induction fuel generalizing s with
  | zero => exact ⟨.refl s, .refl s⟩
  | succ fuel ih =>
    unfold wakeLoop
    split
    · exact ⟨.refl s, .refl s⟩
    · next c hc =>
      obtain ⟨n, -, hn⟩ := List.exists_of_findSome?_eq_some hc
      obtain ⟨e, wakes, rfl⟩ := Option.map_eq_some_iff.1 hn
      obtain ⟨a, b⟩ := h n (State.wakes_of_wakeable wakes)
      obtain ⟨calm, spares⟩ := ih (s.wake n e) fun k may => by
        by_cases same : k = n
        · exact same ▸ ⟨a, b⟩
        · exact h k (((Calm.wake (A := fun j => j = n) s n e rfl).others k same).wakes.1 may)
      exact ⟨(Calm.wake s n e a).trans calm, (Spares.wake s n e a b).trans spares⟩

theorem State.wakeAll_wakes (s : State) :
    Calm (fun n => (s.stream n).Wakes) s s.wakeAll ∧
      Spares (fun n => (s.stream n).Wakes) (fun n => (s.stream n).Wakes) s s.wakeAll :=
  wakeLoop_wakes 256 s fun _ may => ⟨may, may⟩

/-! ### What a stream's likeness carries over -/

theorem Entry.seen_sending {e : Entry} (h : e.stage = .sending) : e.seen = e := by
  unfold Entry.seen
  rw [if_pos h, ← h]

theorem Entry.seen_stage (e : Entry) : e.seen.stage = .sending ↔ e.stage = .sending := by
  unfold Entry.seen
  dsimp only
  split
  · next sending => simp [sending]
  · next other => simp [other]

/-- What is SENDING is seen as it is (R91). -/
theorem Stream.sendingEntry_seen (x : Stream) :
    x.sendingEntry = (x.window.map Entry.seen).find? fun e => e.stage == .sending := by
  have stage : ((fun e : Entry => e.stage == .sending) ∘ Entry.seen) = fun e => e.stage == .sending := by
    funext e
    simp only [Function.comp, Bool.beq_eq_decide_eq]
    exact decide_eq_decide.2 e.seen_stage
  unfold Stream.sendingEntry
  rw [List.find?_map, stage]
  cases found : x.window.find? fun e => e.stage == .sending with
  | none => rfl
  | some e => exact congrArg some (Entry.seen_sending (by simpa using List.find?_some found)).symm

theorem Stream.Like.sendingEntry {x y : Stream} (h : x.Like y) : y.sendingEntry = x.sendingEntry := by
  rw [Stream.sendingEntry_seen, Stream.sendingEntry_seen, h.2]

theorem Stream.unsent_seen (x : Stream) :
    x.unsent.map Entry.seen = (x.window.map Entry.seen).filter fun e => e.stage != .sending := by
  have stage : ((fun e : Entry => e.stage != .sending) ∘ Entry.seen) = fun e => e.stage != .sending := by
    funext e
    simp only [Function.comp, bne, beq_eq_decide]
    exact congrArg _ (decide_eq_decide.2 e.seen_stage)
  rw [List.filter_map, stage]
  rfl

theorem Stream.Like.unsent {x y : Stream} (h : x.Like y) : y.unsent.map Entry.core = x.unsent.map Entry.core := by
  have seen : y.unsent.map Entry.seen = x.unsent.map Entry.seen := by
    rw [Stream.unsent_seen, Stream.unsent_seen, h.2]
  exact map_core_congr seen

theorem Stream.Like.runsOn {x y z : Stream} (h : x.Like y) (k : y.RunsOn z) : x.RunsOn z := by
  obtain ⟨state, speed, added, window, projected, filled⟩ := k
  have unsent := h.unsent
  rw [List.map_append, unsent, ← List.map_append] at window
  rw [h.1] at speed projected filled
  exact ⟨state, speed, added, window, projected, filled⟩

theorem Stream.Like.rests {x y z : Stream} (h : x.Like y) (k : y.Rests z) : x.Rests z := by
  obtain ⟨locate, state, speed, shown, window⟩ := k
  exact ⟨locate, state, speed, shown, window.trans h.unsent⟩

theorem Stream.Like.plays {x y z : Stream} {l : Locate} {a : Time} (h : x.Like y) (k : y.Plays z l a) : x.Plays z l a := by
  obtain ⟨locate, slip, added, state, speed, anchor, window, projected, filled, times, first⟩ := k
  have unsent := h.unsent
  rw [List.map_append, unsent, ← List.map_append] at window
  rw [h.1] at slip projected filled times first
  exact ⟨locate, slip, added, state, speed, anchor, window, projected, filled, fun paced => times paced.congr, first⟩

/-! ### One stream among all (R156) -/

theorem Calm.foldl_each {f : State → StreamId → State} (h : ∀ s n, Calm (fun k => k = n) s (f s n)) (l : List StreamId)
    (s : State) : Calm (fun k => k ∈ l) s (l.foldl f s) := by
  induction l generalizing s with
  | nil => exact .refl s
  | cons n l ih =>
    exact ((h s n).mono fun k same => same ▸ List.mem_cons_self ..).trans
      ((ih (f s n)).mono fun k mem => List.mem_cons_of_mem _ mem)

/-- A fold over all streams, seen from one of them: what comes before and after it concerns others. -/
theorem foldl_streams_at {f : State → StreamId → State} (h : ∀ s n, Calm (fun k => k = n) s (f s n)) (n : StreamId) (s : State) :
    ∃ l m : List StreamId, n ∉ l ∧ n ∉ m ∧
      allStreams.foldl f s = m.foldl f (f (l.foldl f s) n) ∧ Calm (fun k => k ≠ n) s (l.foldl f s) ∧
      Calm (fun k => k ≠ n) (f (l.foldl f s) n) (m.foldl f (f (l.foldl f s) n)) := by
  obtain ⟨l, m, split⟩ := List.append_of_mem (show n ∈ allStreams from List.mem_finRange n)
  have nodup : (l ++ n :: m).Nodup := split ▸ List.nodup_finRange 64
  obtain ⟨-, tail, apart⟩ := List.nodup_append.1 nodup
  have before : n ∉ l := fun mem => apart n mem n (List.mem_cons_self ..) rfl
  have later : n ∉ m := (List.nodup_cons.1 tail).1
  refine ⟨l, m, before, later, ?_, (Calm.foldl_each h l s).mono fun k mem same => before (same ▸ mem),
    (Calm.foldl_each h m _).mono fun k mem same => later (same ▸ mem)⟩
  rw [split, List.foldl_append]
  rfl

/-! ### An interruption (R156) -/

theorem Calm.interrupt (p : Port) (s : State) (n : StreamId) :
    Calm (fun k => k = n ∧ (s.stream k).state ≠ .closed ∧ (s.stream k).port = p) s (s.interrupt p n) := by
  unfold State.interrupt
  dsimp only
  split
  · exact .refl s
  · next open_ =>
    obtain ⟨opened, own⟩ := not_or.1 open_
    have here : n = n ∧ (s.stream n).state ≠ .closed ∧ (s.stream n).port = p := ⟨rfl, opened, not_not.1 own⟩
    refine Calm.ite (Calm.endPresentation s n true here) ?_
    split
    · exact Calm.begin s n _ _ here
    · exact .refl s

/-- The interruptions concern the open streams of the port. -/
theorem Calm.interrupts (p : Port) (l : List StreamId) (s : State) :
    Calm (fun k => (s.stream k).state ≠ .closed ∧ (s.stream k).port = p) s (l.foldl (State.interrupt p) s) := by
  induction l generalizing s with
  | nil => exact .refl s
  | cons n l ih =>
    refine ((Calm.interrupt p s n).mono fun k here => here.2).trans ((ih (s.interrupt p n)).mono fun k => ?_)
    have tied := (Tied.interrupt p s n).streams k
    rw [tied.port, ne_eq, tied.closed]
    exact id

theorem Spares.interrupt {B : StreamId → Prop} (p : Port) (s : State) (n : StreamId) :
    Spares (fun _ => True) B s (s.interrupt p n) := by
  unfold State.interrupt
  dsimp only
  refine .ite (.refl s) (.ite (.endPresentation s n true trivial) ?_)
  split
  · exact .begin s n _ _ trivial
  · exact .refl s

theorem State.interrupt_sending {p : Port} {s : State} {n : StreamId} {e : Entry} (opened : (s.stream n).state ≠ .closed)
    (own : (s.stream n).port = p) (sending : (s.stream n).sendingEntry = some e) :
    s.interrupt p n = s.endPresentation n true := by
  unfold State.interrupt
  dsimp only
  rw [if_neg (by simp [opened, own]), sending]
  rfl

theorem State.interrupt_waiting {p : Port} {s : State} {n : StreamId} {e : Entry} {rest : List Entry} {limit : Time}
    (opened : (s.stream n).state ≠ .closed) (own : (s.stream n).port = p) (idle : (s.stream n).sendingEntry = none)
    (slip : (s.stream n).slipEnd = some limit) (first : (s.stream n).unsent = e :: rest) (down : (s.port p).up = false) :
    s.interrupt p n = (s.handOver n e (.fill .missing)).endPresentation n true := by
  unfold State.interrupt
  dsimp only
  rw [if_neg (by simp [opened, own]), idle, slip, first]
  exact State.begin_down (by rw [own]; exact down)

end Sys2Proof.Machine
end

section
/-! SUPPORT. PORT_LINK_UP and PORT_LINK_DOWN (R144, R156 to R158). -/

namespace Sys2Proof.Machine

/-! ### The port alone (R144) -/

theorem State.portDown_halted {s : State} {p : Port} (halted : s.region.engine = .halted) :
    s.portDown p =
      { s.setPort p { s.port p with up := false } with region := { s.region with noticesLost := true } } := by
  have lost : (s.setPort p { s.port p with up := false }).raise (.pdwn p) =
      { s.setPort p { s.port p with up := false } with region := { s.region with noticesLost := true } } := by
    have still : (s.setPort p { s.port p with up := false }).halted = true := by simp [State.halted, halted]
    unfold State.raise State.raiseAt
    rw [if_pos (by rw [still]; rfl)]
    simp only [State.setRegion, State.setPort_region]
  have still : ((s.setPort p { s.port p with up := false }).raise (.pdwn p)).halted = true := by simp [State.halted, halted]
  exact (if_pos still).trans lost

theorem State.unplugged_awake {s : State} {p : Port} (awake : s.region.engine ≠ .halted) :
    s.unplugged p = ((s.setPort p { s.port p with up := false }).raise (.pdwn p)).cutTransmission p :=
  if_neg (by simp [State.halted, awake])

theorem State.portDown_awake {s : State} {p : Port} (awake : s.region.engine ≠ .halted) :
    s.portDown p = (allStreams.foldl (State.interrupt p) (s.unplugged p)).wakeAll := by
  rw [State.unplugged_awake awake]
  exact if_neg (by simp [State.halted, awake])

section

variable {s : State} {p : Port} (awake : s.region.engine ≠ .halted)

include awake

theorem Calm.unplugged {A : StreamId → Prop} :
    Calm A ((s.setPort p { s.port p with up := false }).raise (.pdwn p)) (s.unplugged p) := by
  rw [State.unplugged_awake awake]
  exact Calm.cutTransmission _ p

theorem State.unplugged_streams : (s.unplugged p).streams = s.streams := by
  rw [State.unplugged_awake awake, State.cutTransmission_streams, State.raise_streams, State.setPort_streams]

theorem State.unplugged_et : (s.unplugged p).et = s.et := by
  rw [(Calm.unplugged (A := fun _ => True) awake).et]
  simp

theorem State.unplugged_engine : (s.unplugged p).region.engine = s.region.engine := by
  rw [(Calm.unplugged (A := fun _ => True) awake).region.engine]
  simp

theorem State.unplugged_port : ((s.unplugged p).port p).up = false ∧ ((s.unplugged p).port p).transmitting = none := by
  constructor
  · rw [(Calm.unplugged (A := fun _ => True) awake).links]
    simp
  · rw [State.unplugged_awake awake]
    exact State.cutTransmission_idle ..

theorem State.unplugged_silent (silent : s.Silent) : (s.unplugged p).Silent := by
  intro q quiet
  by_cases same : p = q
  · exact same ▸ (State.unplugged_port awake).2
  · have kept : (s.unplugged p).port q = s.port q := by
      rw [State.unplugged_awake awake, State.cutTransmission_port_ne _ same, State.raise_port, State.setPort_port_ne s _ same]
    have halted : (s.unplugged p).halted = s.halted := by
      unfold State.halted
      rw [State.unplugged_engine awake]
    rw [kept, halted] at quiet
    rw [kept]
    exact silent q quiet

/-- No LATE comes of the loss itself (R156). -/
theorem Spares.unplugged : Spares (fun _ => True) (fun _ => False) s (s.unplugged p) := by
  rw [State.unplugged_awake awake]
  refine ((Spares.setPort s p { s.port p with up := false }).trans (Spares.raise _ (.pdwn p))).trans ?_
  unfold State.cutTransmission
  exact .ite ((Spares.setPort _ p _).trans .ofSame) (.refl _)

end

/-! ### One stream at the loss of its port (R156) -/

/-- Stream `n` at the loss of port `p`: it is as before until its turn comes, from `a` to `b`, and from then on as that leaves
it, unless a report sets it going. -/
theorem State.portDown_at {s : State} {p : Port} (awake : s.region.engine ≠ .halted) (n : StreamId) :
    ∃ a : State, (s.stream n).Like (a.stream n) ∧ a.et = s.et ∧ a.region.engine = s.region.engine ∧ (a.port p).up = false ∧
      (¬ ((a.interrupt p n).stream n).Wakes →
        ((a.interrupt p n).stream n).Like ((s.portDown p).stream n) ∧
        ((a.interrupt p n).presentation n = none → (s.portDown p).presentation n = none) ∧
        Mild (fun _ => True) (a.interrupt p n) (s.portDown p) ∧
        ∀ b ∈ (s.portDown p).region.notices, b.body.lateOf = some n → b ∈ s.region.notices) := by
  obtain ⟨l, m, -, -, all, before, later⟩ := foldl_streams_at (f := State.interrupt p)
    (fun t k => (Calm.interrupt p t k).mono fun _ here => here.1) n (s.unplugged p)
  set a := l.foldl (State.interrupt p) (s.unplugged p)
  set c := m.foldl (State.interrupt p) (a.interrupt p n)
  have like := before.others n fun other => other rfl
  rw [State.stream_congr (State.unplugged_streams awake) n] at like
  refine ⟨a, like, before.et.trans (State.unplugged_et awake), before.region.engine.trans (State.unplugged_engine awake),
    by rw [before.links]; exact (State.unplugged_port awake).1, fun asleep => ?_⟩
  have then_ := later.others n fun other => other rfl
  have still : ¬ (c.stream n).Wakes := fun wakes => asleep (then_.wakes.1 wakes)
  obtain ⟨calm, spares⟩ := c.wakeAll_wakes
  have lost : s.portDown p = c.wakeAll := by
    rw [State.portDown_awake awake, all]
  rw [lost]
  refine ⟨then_.trans (calm.others n still), fun none_ => calm.quiet n still (later.quiet n (fun other => other rfl) none_),
    ((later.mono fun _ _ => trivial).trans (calm.mono fun _ _ => trivial)).toMild, fun b mem about => ?_⟩
  have none_ : Spares (fun _ => True) (fun _ => False) s c :=
    (Spares.unplugged awake).trans (all ▸ Spares.foldl (Spares.interrupt p) allStreams _)
  exact none_.late n id b (spares.late n still b mem about) about

/-- What a presentation that ends INTERRUPTED leaves, when nothing sets its stream going again (R96, R156). -/
structure State.Interrupted (s t : State) (n : StreamId) (e : Entry) : Prop where
  record : t.presentation n = none
  late : (t.stream n).lateCount = (s.stream n).lateCount
  marks : (t.stream n).marks = (s.stream n).marks
  mirror : t.region.marks[n] = true
  tick : (t.stream n).shownTick = e.tick
  picture : ∀ k, e.frame = some k →
    (t.stream n).shownClip.toNat = k.clip.val ∧ (t.stream n).shownFrame = BitVec.ofNat 32 k.frame
  idle : (t.stream n).sendingEntry = none

theorem Stream.Wakes.waits {x : Stream} (h : x.Wakes) : x.Waits := h.imp id fun waits => waits.2

theorem Stream.not_wakes_of_state {x : Stream} (h : x.state = .held ∨ x.state = .parked) : ¬ x.Wakes := by
  rintro (seeking | ⟨running, -⟩)
  · rw [seeking] at h
    simp at h
  · rw [running] at h
    simp at h

/-- A stream whose presentation is interrupted (R96, R156): it is as the end of the presentation leaves it. -/
theorem State.portDown_interrupts {s : State} {p : Port} {n : StreamId} {e : Entry} (awake : s.region.engine ≠ .halted)
    (opened : (s.stream n).state ≠ .closed) (own : (s.stream n).port = p) (sending : (s.stream n).sendingEntry = some e) :
    ∃ a : State, (s.stream n).Like (a.stream n) ∧ (a.stream n).sendingEntry = some e ∧ a.et = s.et ∧
      a.region.engine ≠ .halted ∧
      (¬ ((a.endPresentation n true).stream n).Wakes →
        ((a.endPresentation n true).stream n).Like ((s.portDown p).stream n) ∧
        Mild (fun _ => True) (a.endPresentation n true) (s.portDown p) ∧ s.Interrupted (s.portDown p) n e) := by
  obtain ⟨a, like, et, engine, down, rest⟩ := s.portDown_at (p := p) awake n
  have sent : (a.stream n).sendingEntry = some e := like.sendingEntry.trans sending
  have interrupt : a.interrupt p n = a.endPresentation n true :=
    State.interrupt_sending (by rw [like.1]; exact opened) (by rw [like.1]; exact own) sent
  rw [interrupt] at rest
  refine ⟨a, like, sent, et, by rw [engine]; exact awake, fun asleep => ?_⟩
  obtain ⟨same, quiet, mild, -⟩ := rest asleep
  have over_ := State.endPresentation_over true sent
  have marks := State.endPresentation_marks sent e.tagsAtEnd_interrupted
  refine ⟨same, mild, quiet over_.record, ?_, ?_, mild.region.marks over_.mirror, ?_, ?_,
    (Stream.idle_iff _).1 (same.idle over_.idle)⟩
  · rw [same.1]
    exact over_.late.trans (by rw [like.1])
  · rw [same.1]
    exact marks.trans (by rw [like.1])
  · rw [same.1]
    exact over_.tick
  · rw [same.1]
    exact over_.picture

theorem Stream.not_wakes_running {x : Stream} (running : x.state = .running) (slip : x.slipEnd = none) : ¬ x.Wakes := by
  rintro (seeking | ⟨-, waits⟩)
  · exact nomatch (running.symm.trans seeking : Transport.running = .seeking)
  · exact waits slip

/-! ### A SLIP wait at the loss of its port (R77) -/

/-- A window whose first entry is the only one of its tick, once that entry has begun and ended (R96). -/
theorem Stream.begun_unsent {x : Stream} {e : Entry} {rest : List Entry} {a : SentAs} (idle : x.Idle) (window : x.window = e :: rest)
    (apart : ∀ z ∈ rest, z.tick ≠ e.tick) : (x.begun e a).unsent = rest := by
  have kept : rest.map (fun y => if y.tick = e.tick then e.begun a else y) = rest :=
    (List.map_congr_left fun y mem => if_neg (apart y mem)).trans (List.map_id' rest)
  have begun : (x.begun e a).window = e.begun a :: rest := by
    change x.window.map (fun y => if y.tick = e.tick then e.begun a else y) = _
    rw [window, List.map_cons, if_pos rfl, kept]
  have unsent : rest.filter (fun y => y.stage != .sending) = rest :=
    List.filter_eq_self.2 fun y mem => by
      have still := idle y (window ▸ List.mem_cons_of_mem _ mem)
      simpa using still
  unfold Stream.unsent
  rw [begun, List.filter_cons_of_neg (by simp [Entry.begun]), unsent]

theorem Entry.fields_of_core {e f : Entry} (h : e.core = f.core) :
    e.tick = f.tick ∧ e.cue = f.cue ∧ e.offset = f.offset ∧ e.changes = f.changes ∧ e.listEnd = f.listEnd :=
  ⟨(congrArg Entry.tick h :), (congrArg Entry.cue h :), (congrArg Entry.offset h :), (congrArg Entry.changes h :),
    (congrArg Entry.listEnd h :)⟩

/-- What comes of a SLIP wait whose port is lost (R77). -/
structure State.Unslipped (s t : State) (n : StreamId) (e : Entry) (rest : List Entry) : Prop where
  record : t.presentation n = none
  idle : (t.stream n).sendingEntry = none
  tick : (t.stream n).shownTick = e.tick
  mirror : t.region.marks[n] = true
  marks : (t.stream n).marks = (s.stream n).marks
  late : (t.stream n).lateCount = (s.stream n).lateCount
  state : (t.stream n).state = .running
  slip : (t.stream n).slipEnd = none
  shown : (t.stream n).shown = true
  cue : (t.stream n).cue = e.cue
  offset : (t.stream n).offset = e.offset
  cues : (t.stream n).cues = applyChanges e.changes (s.stream n).cues
  anchor : (t.stream n).proj.anchor = (s.stream n).proj.anchor
  window : ∃ added, (t.stream n).window.map Entry.core = (rest ++ added).map Entry.core ∧
    ((s.stream n).depth ≤ 16 → (t.stream n).Filled)

section

variable {s : State} {n : StreamId} {e : Entry} {rest : List Entry}

/-- An entry of a RUNNING stream that begins sending and is cut off in the same step (R77, R96). -/
theorem State.begunAndEnded (a : SentAs) (awake : s.region.engine ≠ .halted) (running : (s.stream n).state = .running)
    (idle : (s.stream n).Idle) (window : (s.stream n).window = e :: rest) (apart : ∀ z ∈ rest, z.tick ≠ e.tick)
    (end_ : e.listEnd = none) (free : (s.stream n).locate = none) :
    s.Unslipped ((s.handOver n e a).endPresentation n true) n e rest := by
  have stream := s.handOver_stream n e a
  have here : ∃ y ∈ (s.stream n).window, y.tick = e.tick := ⟨e, window ▸ List.mem_cons_self .., rfl⟩
  have sending : ((s.handOver n e a).stream n).sendingEntry = some (e.begun a) := by
    rw [stream]
    exact Stream.begun_sending ((Stream.idle_iff _).1 idle) here
  have untagged := (e.begun a).tagsAtEnd_interrupted
  have over_ := State.endPresentation_over true sending
  have marks := State.endPresentation_marks sending untagged
  have late := over_.late
  have engine := (Calm.handOver (A := fun _ => True) s n e a).region.engine
  obtain ⟨c, f, m, added, grown, filled⟩ := State.endPresentation_grown (i := true) sending (by rw [engine]; exact awake)
    (by rw [stream]; exact running) end_ (by rw [stream]; exact free) (by rw [untagged]; rfl)
  rw [stream] at grown filled marks late
  have fields := grown.fields
  refine ⟨over_.record, (Stream.idle_iff _).1 over_.idle, over_.tick, over_.mirror, marks, late,
    (congrArg Stream.state fields).trans running, (congrArg Stream.slipEnd fields).trans rfl,
    (congrArg Stream.shown fields).trans rfl, (congrArg Stream.cue fields).trans rfl,
    (congrArg Stream.offset fields).trans rfl, (congrArg Stream.cues fields).trans rfl, grown.anchor, added, ?_, filled⟩
  have unsent := Stream.begun_unsent (a := a) idle window apart
  rw [List.map_append, ← unsent]
  exact grown.window

theorem State.Unslipped.like {t u : State} {e' : Entry} {rest' : List Entry} (before : (s.stream n).Like (t.stream n))
    (entry : e'.core = e.core) (others : rest'.map Entry.core = rest.map Entry.core) (h : t.Unslipped u n e' rest') :
    s.Unslipped u n e rest where
  record := h.record
  idle := h.idle
  tick := h.tick.trans (Entry.fields_of_core entry).1
  mirror := h.mirror
  marks := h.marks.trans (by rw [before.1])
  late := h.late.trans (by rw [before.1])
  state := h.state
  slip := h.slip
  shown := h.shown
  cue := h.cue.trans (Entry.fields_of_core entry).2.1
  offset := h.offset.trans (Entry.fields_of_core entry).2.2.1
  cues := by
    obtain ⟨-, -, -, changes, -⟩ := Entry.fields_of_core entry
    rw [h.cues, before.1, changes]
  anchor := h.anchor.trans (by rw [before.1])
  window := by
    obtain ⟨added, window, filled⟩ := h.window
    rw [List.map_append, others, ← List.map_append] at window
    rw [before.1] at filled
    exact ⟨added, window, filled⟩

/-- Nothing of it is undone by what happens to the other streams. -/
theorem State.Unslipped.after {t u : State} (h : s.Unslipped t n e rest) (after : (t.stream n).Like (u.stream n))
    (quiet : t.presentation n = none → u.presentation n = none) (mild : Mild (fun _ => True) t u) :
    s.Unslipped u n e rest where
  record := quiet h.record
  idle := after.sendingEntry.trans h.idle
  tick := by rw [after.1]; exact h.tick
  mirror := mild.region.marks h.mirror
  marks := by rw [after.1]; exact h.marks
  late := by rw [after.1]; exact h.late
  state := by rw [after.1]; exact h.state
  slip := by rw [after.1]; exact h.slip
  shown := by rw [after.1]; exact h.shown
  cue := by rw [after.1]; exact h.cue
  offset := by rw [after.1]; exact h.offset
  cues := by rw [after.1]; exact h.cues
  anchor := by rw [after.1]; exact h.anchor
  window := by
    obtain ⟨added, window, filled⟩ := h.window
    exact ⟨added, after.alike.2.trans window, fun shallow => after.alike.filled (filled shallow)⟩

/-- A SLIP wait whose port is lost (R77). -/
theorem State.portDown_waits {p : Port} {limit : Time} (awake : s.region.engine ≠ .halted) (own : (s.stream n).port = p)
    (running : (s.stream n).state = .running) (slip : (s.stream n).slipEnd = some limit)
    (idle : (s.stream n).sendingEntry = none) (window : (s.stream n).window = e :: rest)
    (apart : ∀ z ∈ rest, z.tick ≠ e.tick) (end_ : e.listEnd = none) (free : (s.stream n).locate = none) :
    s.Unslipped (s.portDown p) n e rest ∧
      ∀ b ∈ (s.portDown p).region.notices, b.body.lateOf = some n → b ∈ s.region.notices := by
  obtain ⟨a, like, -, engine, down, later⟩ := s.portDown_at (p := p) awake n
  have cores := like.alike.2
  rw [window, List.map_cons] at cores
  obtain ⟨e', rest', split, entry, others⟩ := List.map_eq_cons_iff.1 cores
  obtain ⟨tick, -, -, -, ends⟩ := Entry.fields_of_core entry
  have state : (a.stream n).state = .running := by rw [like.1]; exact running
  have still : (a.stream n).Idle := like.idle ((Stream.idle_iff _).2 idle)
  have first : (a.stream n).unsent = e' :: rest' := still.unsent.trans split
  have apart' : ∀ z ∈ rest', z.tick ≠ e'.tick := by
    intro z mem
    obtain ⟨y, member, same⟩ := List.mem_map.1 (others ▸ List.mem_map_of_mem (f := Entry.core) mem)
    obtain ⟨ticks, -⟩ := Entry.fields_of_core same
    rw [tick, ← ticks]
    exact apart y member
  have interrupt : a.interrupt p n = (a.handOver n e' (.fill .missing)).endPresentation n true :=
    State.interrupt_waiting (fun closed => nomatch (state.symm.trans closed : Transport.running = .closed))
      (by rw [like.1]; exact own) ((Stream.idle_iff _).1 still) (by rw [like.1]; exact slip) first down
  have ended := State.begunAndEnded (.fill .missing) (by rw [engine]; exact awake) state still split apart'
    (ends.trans end_) (by rw [like.1]; exact free)
  rw [← interrupt] at ended
  obtain ⟨same, quiet, mild, late⟩ := later (Stream.not_wakes_running ended.state ended.slip)
  exact ⟨(ended.like like entry others).after same quiet mild, late⟩

end

/-! ### The loss as a whole (R144, R156) -/

theorem State.portDown_calm {s : State} {p : Port} (awake : s.region.engine ≠ .halted) :
    Calm (fun n => (s.stream n).state ≠ .closed ∧ (s.stream n).port = p ∨ (s.stream n).Waits)
      ((s.setPort p { s.port p with up := false }).raise (.pdwn p)) (s.portDown p) := by
  rw [State.portDown_awake awake]
  have streams (k : StreamId) : (s.unplugged p).stream k = s.stream k := State.stream_congr (State.unplugged_streams awake) k
  have cut := Calm.interrupts p allStreams (s.unplugged p)
  refine ((Calm.unplugged awake).trans (cut.mono fun k here => ?_)).trans ((Calm.wakeAll_waiting _).mono fun k waits => ?_)
  · rw [streams] at here
    exact .inl here
  · by_cases here : (s.stream k).state ≠ .closed ∧ (s.stream k).port = p
    · exact .inl here
    · have like := cut.others k (by rw [streams]; exact here)
      rw [streams] at like
      exact .inr (like.waits.1 waits)

theorem State.portDown_notified {s : State} {p : Port} (awake : s.region.engine ≠ .halted) :
    (s.portDown p).Notified (.pdwn p) s.et := by
  have told := (s.setPort p { s.port p with up := false }).raise_notified (.pdwn p)
  rw [State.setPort_et] at told
  exact told.mild (State.portDown_calm awake).toMild

theorem State.portDown_silent {s : State} {p : Port} (awake : s.region.engine ≠ .halted) (silent : s.Silent) :
    ((s.portDown p).port p).up = false ∧ ((s.portDown p).port p).transmitting = none := by
  have calm := (Calm.interrupts p allStreams (s.unplugged p)).mono (B := fun _ => True) fun _ _ => trivial
  have all := calm.trans (Calm.wakeAll (allStreams.foldl (State.interrupt p) (s.unplugged p)))
  rw [← State.portDown_awake awake] at all
  have down : ((s.portDown p).port p).up = false := by
    rw [all.links]
    exact (State.unplugged_port awake).1
  exact ⟨down, all.silent (State.unplugged_silent awake silent) p (.inl down)⟩

end Sys2Proof.Machine
end

section
/-! SUPPORT. What an INTERRUPTED presentation comes to for its stream, case by case (R54, R56, R92, R96, R156). -/

namespace Sys2Proof.Machine

section

variable {s : State} {p : Port} {n : StreamId} {e : Entry}

theorem State.Interrupted.facts {t : State} (h : s.Interrupted t n e) :
    t.presentation n = none ∧ (t.stream n).lateCount = (s.stream n).lateCount ∧
      (t.stream n).marks = (s.stream n).marks ∧ t.region.marks[n] = true ∧ (t.stream n).shownTick = e.tick ∧
      ∀ k, e.frame = some k →
        (t.stream n).shownClip.toNat = k.clip.val ∧ (t.stream n).shownFrame = BitVec.ofNat 32 k.frame :=
  ⟨h.record, h.late, h.marks, h.mirror, h.tick, h.picture⟩

theorem State.portDown_held (awake : s.region.engine ≠ .halted) (own : (s.stream n).port = p)
    (sending : (s.stream n).sendingEntry = some e) (held : (s.stream n).state = .held) (end_ : e.listEnd = none)
    (free : (s.stream n).locate = none) :
    s.Interrupted (s.portDown p) n e ∧ ((s.portDown p).stream n).state = .held := by
  obtain ⟨a, like, sent, -, -, later⟩ := State.portDown_interrupts awake (by rw [held]; exact fun h => nomatch h) own sending
  obtain ⟨c, f, m, streams, -, -⟩ := a.leaving_streams n e true
  have state : ((a.endPresentation n true).stream n).state = .held := by
    rw [State.endPresentation_held sent (by rw [like.1]; exact held) end_ (by rw [like.1]; exact free),
      State.stream_congr (State.markMirror_streams ..), State.stream_of_streams streams]
    change (a.stream n).state = .held
    rw [like.1]
    exact held
  obtain ⟨same, -, ended⟩ := later (Stream.not_wakes_of_state (.inl state))
  refine ⟨ended, ?_⟩
  rw [same.1]
  exact state

theorem State.portDown_runsOn (awake : s.region.engine ≠ .halted) (own : (s.stream n).port = p)
    (sending : (s.stream n).sendingEntry = some e) (running : (s.stream n).state = .running) (end_ : e.listEnd = none)
    (free : (s.stream n).locate = none) (slip : (s.stream n).slipEnd = none) :
    s.Interrupted (s.portDown p) n e ∧ (s.stream n).RunsOn ((s.portDown p).stream n) := by
  obtain ⟨a, like, sent, -, awake', later⟩ :=
    State.portDown_interrupts awake (by rw [running]; exact fun h => nomatch h) own sending
  have still : (a.stream n).state = .running := by rw [like.1]; exact running
  have runs := State.endPresentation_runsOn (i := true) sent awake' still end_ (by rw [like.1]; exact free)
    (by rw [e.tagsAtEnd_interrupted]; rfl)
  have asleep : ¬ (a.stream n).Waits :=
    Stream.idle_of_state (fun seeking => nomatch (still.symm.trans seeking : Transport.running = .seeking))
      (by rw [like.1]; exact slip)
  obtain ⟨same, -, ended⟩ := later fun wakes => State.endPresentation_awake true sent asleep wakes.waits
  exact ⟨ended, like.runsOn (runs.alike same.alike)⟩

theorem State.portDown_parks (awake : s.region.engine ≠ .halted) (opened : (s.stream n).state ≠ .closed)
    (own : (s.stream n).port = p) (sending : (s.stream n).sendingEntry = some e) {which : ListEnd}
    (end_ : e.listEnd = some which) :
    s.Interrupted (s.portDown p) n e ∧ ((s.portDown p).stream n).Parks ∧
      (∀ k, e.frame = some k → (s.portDown p).Notified
        (.endl n which e.cue e.offset e.tick true (BitVec.ofNat 8 k.clip) (BitVec.ofNat 32 k.frame)) s.et) ∧
      (e.frame = none → ∃ a b, (s.portDown p).Notified (.endl n which e.cue e.offset e.tick false a b) s.et) := by
  obtain ⟨a, -, sent, et, -, later⟩ := State.portDown_interrupts awake opened own sending
  obtain ⟨parks, shown, unshown⟩ := State.endPresentation_parks (i := true) sent end_
  rw [et] at shown unshown
  obtain ⟨same, mild, ended⟩ := later (Stream.not_wakes_of_state (.inr parks.1))
  refine ⟨ended, parks.alike same.alike, fun k frame => (shown k frame).mild mild, fun none_ => ?_⟩
  obtain ⟨b, c, told⟩ := unshown none_
  exact ⟨b, c, told.mild mild⟩

theorem State.portDown_locates (awake : s.region.engine ≠ .halted) (own : (s.stream n).port = p)
    (sending : (s.stream n).sendingEntry = some e) (seeking : (s.stream n).state = .seeking) (end_ : e.listEnd = none)
    (locate : e.locate = true) {l : Locate} (locating : (s.stream n).locate = some l) (projected : l.projected = true)
    (slip : (s.stream n).slipEnd = none) :
    s.Interrupted (s.portDown p) n e ∧
      (s.portDown p).Notified
        (.locd l.ref n (if e.sentAs = some (.fill .failed) then .failed else .ok) l.cue l.offset) s.et ∧
      (l.thenPlay = false → (s.stream n).Rests ((s.portDown p).stream n)) ∧
      (l.thenPlay = true → (s.stream n).Plays ((s.portDown p).stream n) l e.deliver) := by
  obtain ⟨a, like, sent, et, awake', later⟩ :=
    State.portDown_interrupts awake (by rw [seeking]; exact fun h => nomatch h) own sending
  have locating' : (a.stream n).locate = some l := by rw [like.1]; exact locating
  have told := State.endPresentation_locd (i := true) sent end_ locate locating' projected
  rw [et] at told
  cases play : l.thenPlay with
  | false =>
    have rests := State.endPresentation_rests (i := true) sent end_ locate locating' projected play
    obtain ⟨same, mild, ended⟩ := later (Stream.not_wakes_of_state (.inr rests.2.1))
    exact ⟨ended, told.mild mild, fun _ => like.rests (rests.alike same.alike), fun h => nomatch h⟩
  | true =>
    have plays := State.endPresentation_plays (i := true) sent awake' end_ locate locating' projected play
      (by rw [e.tagsAtEnd_interrupted]; rfl)
    have asleep : ¬ ((a.endPresentation n true).stream n).Wakes := by
      obtain ⟨-, slip', -, running, -⟩ := plays
      exact Stream.not_wakes_running running (slip'.trans (by rw [like.1]; exact slip))
    obtain ⟨same, mild, ended⟩ := later asleep
    exact ⟨ended, told.mild mild, (fun h => nomatch h), fun _ => like.plays (plays.alike same.alike)⟩

end

/-- Settles O57. -/
theorem portLinksChange : Obligations.PortLinksChange := by
  unfold Obligations.PortLinksChange
  intro p f s
  refine ⟨rfl, fun up => ?_, fun down => ⟨?_, ?_⟩, fun up halted => ?_, fun up awake silent => ?_⟩
  · exact congrArg Host.Outcome.next (if_pos up)
  · exact congrArg Host.Outcome.next (if_neg (by rw [down]; exact Bool.false_ne_true))
  · exact congrArg Host.Outcome.next (if_neg (by rw [down]; exact Bool.false_ne_true))
  · exact congrArg Host.Outcome.next ((if_pos up).trans (State.portDown_halted halted))
  obtain ⟨down, quiet⟩ := State.portDown_silent (p := p) awake silent
  refine ⟨s.portDown p, congrArg Host.Outcome.next (if_pos up), State.portDown_calm awake, down, quiet,
    State.portDown_notified awake, fun n e own sending => ?_, fun n e rest limit own running slip idle window apart end_ free => ?_⟩
  · dsimp only
    refine ⟨fun held end_ free => ?_, fun running end_ free slip => ?_, fun which state end_ => ?_,
      fun l seeking end_ locate locating projected slip => ?_⟩
    · obtain ⟨ended, state⟩ := State.portDown_held awake own sending held end_ free
      exact ⟨ended.facts, state, ended.idle⟩
    · obtain ⟨ended, state, speed, added, grown⟩ := State.portDown_runsOn awake own sending running end_ free slip
      exact ⟨ended.facts, state, speed, added, grown⟩
    · have opened : (s.stream n).state ≠ .closed := by rcases state with running | held <;> simp [*]
      obtain ⟨ended, ⟨parked, speed, shown, -, -, window⟩, told⟩ := State.portDown_parks awake opened own sending end_
      exact ⟨ended.facts, parked, speed, shown, window, told⟩
    · obtain ⟨ended, told, rests, plays⟩ :=
        State.portDown_locates awake own sending seeking end_ locate locating projected slip
      refine ⟨ended.facts, ?_, told, fun still => (rests still).2, fun play => ?_⟩
      · cases play : l.thenPlay with
        | false => exact (rests play).1
        | true => exact (plays play).1
      · obtain ⟨-, -, added, state, speed, anchor, window, grown, filled, -⟩ := plays play
        exact ⟨state, speed, anchor, added, window, grown, filled⟩
  · obtain ⟨ended, late⟩ := State.portDown_waits awake own running slip idle window apart end_ free
    exact ⟨ended.record, ended.state, ended.slip, ended.idle, ended.cue, ended.offset, ended.shown, ended.tick, ended.cues,
      ended.late, ended.anchor, ended.marks, ended.mirror, ended.window, fun _ _ _ _ _ _ _ mem => late _ mem rfl⟩

end Sys2Proof.Machine
end

section
/-! SUPPORT. A viewer that is dropped from a stream, and from what is sent of it (R148, R149, R151, R154). -/

namespace Sys2Proof.Machine

/-! ### The slot and the rate (R145, R148, R149) -/

/-- The state once the slot holds what is left of the viewer, and `loss` times E has come off the rate. -/
def State.unseated (s : State) (n : StreamId) (v : Fin 8) (left : Option Viewer) (loss : Nat) : State :=
  (s.setStream n { s.stream n with viewers := (s.stream n).viewers.set v left }).setPort (s.stream n).port
    { s.port (s.stream n).port with
      allocated := (s.port (s.stream n).port).allocated - loss * (s.stream n).egress }

section

variable (s : State) (n : StreamId) (v : Fin 8) (left : Option Viewer) (loss : Nat)

theorem State.setPort_same (p : Port) : s.setPort p (s.port p) = s := by
  cases p with
  | e0 => rfl
  | e1 => rfl

theorem State.dropViewer_unmuted :
    s.dropViewer n v left true = ((s.unseated n v left 1).cancelViewer n v).completeIfDone n := by
  unfold State.dropViewer State.unseated State.withdrawRate
  dsimp only
  rw [State.setStream_port, Nat.one_mul]
  rfl

theorem State.dropViewer_muted :
    s.dropViewer n v left false = ((s.unseated n v left 0).cancelViewer n v).completeIfDone n := by
  have same := (s.setStream n ((s.stream n).setViewer v left)).setPort_same (s.stream n).port
  have unseated : s.unseated n v left 0 = s.setStream n ((s.stream n).setViewer v left) := by
    unfold State.unseated
    rw [Nat.zero_mul, Nat.sub_zero]
    rw [State.setStream_port] at same
    exact same
  rw [unseated]
  rfl

theorem State.unseated_transmitting (p : Port) : ((s.unseated n v left loss).port p).transmitting = (s.port p).transmitting := by
  unfold State.unseated
  by_cases same : (s.stream n).port = p
  · subst same
    rw [State.setPort_port]
  · rw [State.setPort_port_ne _ _ same, State.setStream_port]

theorem State.unseated_presentation : (s.unseated n v left loss).presentation n = s.presentation n := by
  unfold State.unseated
  simp

theorem State.Settled.unseated {s : State} (h : s.Settled) : (s.unseated n v left loss).Settled := by
  have seat := h.setStream (n := n) (x := { s.stream n with viewers := (s.stream n).viewers.set v left }) (by simp) (by simp) (by simp)
  exact settled_of_streams seat (by simp [State.unseated]) (by simp [State.unseated])

end

theorem State.setPresentation_ports (s : State) (n : StreamId) (x : Option Presentation) (p : Port) :
    (s.setPresentation n x).port p = s.port p := by
  cases p with
  | e0 => rfl
  | e1 => rfl

/-! ### The presentation (R148, R149, R151, R154) -/

/-- What is owed of a presentation once a viewer is listed no more. -/
def Presentation.without (p : Presentation) (v : Fin 8) : Presentation :=
  let listed := p.recipients.filter fun g => g.viewer != v
  let copies := listed.filter fun g => !g.muted
  let todo := p.todo.filter fun g => g.viewer != v
  let rounds := match p.sentAs with | .frame _ b _ => (b + 8191) / 8192 | _ => 1
  if todo = [] ∧ p.fragment + 1 < rounds ∧ copies ≠ [] then
    { p with recipients := listed, fragment := p.fragment + 1, todo := copies }
  else { p with recipients := listed, todo := todo }

theorem Presentation.without_eq (p : Presentation) (v : Fin 8) :
    ({ p with
        recipients := p.recipients.filter fun g => g.viewer != v
        todo := p.todo.filter fun g => g.viewer != v } : Presentation).settle = p.without v := by
  have settled := Presentation.settle_eq { p with recipients := p.recipients.filter fun g => g.viewer != v }
    (p.todo.filter fun g => g.viewer != v)
  rw [Presentation.rounds_eq] at settled
  exact settled

theorem Presentation.without_fields (p : Presentation) (v : Fin 8) :
    (p.without v).port = p.port ∧ (p.without v).tick = p.tick ∧
      (p.without v).recipients = p.recipients.filter fun g => g.viewer != v := by
  unfold Presentation.without
  dsimp only
  split_ifs
  · exact ⟨rfl, rfl, rfl⟩
  · exact ⟨rfl, rfl, rfl⟩

theorem State.cancelViewer_none {s : State} {n : StreamId} {v : Fin 8} (h : s.presentation n = none) : s.cancelViewer n v = s := by
  unfold State.cancelViewer
  rw [h]

theorem State.cancelViewer_some {s : State} {n : StreamId} {v : Fin 8} {p : Presentation} (h : s.presentation n = some p) :
    s.cancelViewer n v = s.setPresentation n (some (p.without v)) := by
  unfold State.cancelViewer
  rw [h, ← Presentation.without_eq]

theorem State.completeIfDone_none {s : State} {n : StreamId} (h : s.presentation n = none) : s.completeIfDone n = s := by
  unfold State.completeIfDone State.complete
  rw [h]
  rfl

/-- One of the presentation's messages to the recipients still listed is being transmitted (R154). -/
def State.UnderWay (s : State) (n : StreamId) (p : Presentation) (v : Fin 8) : Prop :=
  ∃ k, (s.port p.port).transmitting = some k ∧ k.stream = n ∧ k.tick = p.tick ∧
    ∃ g ∈ p.recipients.filter (fun g => g.viewer != v), g.viewer = k.viewer

theorem State.inFlight_iff {s : State} {n : StreamId} {p : Presentation} {v : Fin 8} :
    s.inFlight n (p.without v) = true ↔ s.UnderWay n p v := by
  obtain ⟨port, tick, recipients⟩ := p.without_fields v
  unfold State.inFlight State.UnderWay
  rw [port, tick, recipients]
  cases (s.port p.port).transmitting with
  | none => simp
  | some k => simp [and_assoc]

theorem State.completeIfDone_iff {s : State} {n : StreamId} {p : Presentation} {v : Fin 8} (h : s.presentation n = some (p.without v)) :
    (((p.without v).todo ≠ [] ∨ s.UnderWay n p v) → s.completeIfDone n = s) ∧
    ((p.without v).todo = [] → ¬ s.UnderWay n p v → s.completeIfDone n = (s.endPresentation n false).turnIfDue n) := by
  have complete : s.complete n = true ↔ (p.without v).todo = [] ∧ ¬ s.UnderWay n p v := by
    unfold State.complete
    rw [h]
    simp [← State.inFlight_iff]
  refine ⟨fun more => if_neg fun done => ?_, fun none_ still => if_pos (complete.2 ⟨none_, still⟩)⟩
  obtain ⟨none_, still⟩ := complete.1 done
  rcases more with some_ | busy
  · exact some_ none_
  · exact still busy

/-! ### REMOVE and MUTE (R148, R149) -/

theorem State.UnderWay.congr {s t : State} {n : StreamId} {p : Presentation} {v : Fin 8}
    (h : (t.port p.port).transmitting = (s.port p.port).transmitting) : t.UnderWay n p v ↔ s.UnderWay n p v := by
  unfold State.UnderWay
  rw [h]

/-- An order whose effect is to drop a viewer, without a presentation and with one. -/
theorem State.Decided.drops {s : State} {c : Instr} {r : Record} {d : Decision} {n : StreamId} {v : Fin 8} {left : Option Viewer}
    {k loss : Nat} {f : State → State} (h : s.Decided c tagSHAR r d) (hd : d = ⟨.ok, k, f⟩)
    (hf : ∀ t : State, f t = ((t.unseated n v left loss).cancelViewer n v).completeIfDone n) :
    let w := (s.answered tagSHAR r .ok k).unseated n v left loss
    (s.presentation n = none → exec c s = .next w) ∧
    ∀ p, s.presentation n = some p →
      let u := w.setPresentation n (some (p.without v))
      (((p.without v).todo ≠ [] ∨ s.UnderWay n p v) → exec c s = .next u) ∧
      ((p.without v).todo = [] → ¬ s.UnderWay n p v →
        exec c s = .next ((u.endPresentation n false).turnIfDue n).wakeAll) := by
  intro w
  have carried := h.carried hd
  rw [hf] at carried
  have record : w.presentation n = s.presentation n := by
    refine (State.unseated_presentation ..).trans ?_
    simp [State.answered, State.afterRecord, State.presentation]
  have settled : w.Settled := (h.settled.answered tagSHAR r .ok k).unseated n v left loss
  refine ⟨fun none_ => ?_, fun p some_ => ?_⟩
  · rw [State.cancelViewer_none (record.trans none_), State.completeIfDone_none (record.trans none_), wakeAll_settled settled] at carried
    exact carried
  · intro u
    rw [State.cancelViewer_some (record.trans some_)] at carried
    have held : u.presentation n = some (p.without v) := by simp [u]
    have busy : u.UnderWay n p v ↔ s.UnderWay n p v := State.UnderWay.congr <| by
      rw [State.setPresentation_ports, State.unseated_transmitting, answered_port]
    obtain ⟨more, done⟩ := State.completeIfDone_iff held
    rw [busy] at more done
    refine ⟨fun owed => ?_, fun none_ still => ?_⟩
    · have asleep : u.Settled := settled_of_streams settled (by simp [u]) (by simp [u])
      rw [more owed, wakeAll_settled asleep] at carried
      exact carried
    · rw [done none_ still] at carried
      exact carried

theorem State.unseated_answered (s : State) (r : Record) (k : Nat) (n : StreamId) (v : Fin 8) (left : Option Viewer) (loss : Nat) :
    (s.answered tagSHAR r .ok k).unseated n v left loss =
      ((s.answered tagSHAR r .ok k).setStream n { s.stream n with viewers := (s.stream n).viewers.set v left }).setPort
        (s.stream n).port
        { s.port (s.stream n).port with
          allocated := (s.port (s.stream n).port).allocated - loss * (s.stream n).egress } := by
  unfold State.unseated
  rw [answered_stream, answered_port]

/-- The unmuted viewers once what is left of a viewer is no unmuted one. -/
theorem Stream.unmuted_left {x : Stream} {v : Fin 8} {y : Viewer} {left : Option Viewer} (was : x.viewers[v] = some y)
    (quiet : left.any (fun z => !z.muted) = false) :
    (x.setViewer v left).unmuted = x.unmuted - if y.muted then 0 else 1 := by
  have count := x.unmuted_setViewer v left
  rw [was, quiet] at count
  cases muted : y.muted with
  | false =>
    simp [muted] at count ⊢
    omega
  | true => simpa [muted] using count

/-- What REMOVE and MUTE decide of a viewer that they may drop (R148, R149). -/
theorem sharAction_drops {s : State} {n : StreamId} {v : Fin 8} {y : Viewer} {b : List Byte} {k : Nat} {left : Option Viewer}
    (seat : (s.stream n).viewers[v] = some y)
    (op : k = 1 ∧ v ≠ 0 ∧ left = none ∨ k = 2 ∧ y.muted = false ∧ left = some { y with muted := true }) :
    sharAction s n v b k =
      ⟨.ok, (s.stream n).unmuted - if y.muted then 0 else 1, fun t => t.dropViewer n v left (!y.muted)⟩ := by
  rcases op with ⟨rfl, free, rfl⟩ | ⟨rfl, loud, rfl⟩
  · rw [← Stream.unmuted_left seat (left := none) rfl]
    change decideRemove s n v = _
    unfold decideRemove
    dsimp only
    rw [if_neg free, seat]
  · rw [← Stream.unmuted_left seat (left := some { y with muted := true }) rfl]
    change decideMute s n v = _
    unfold decideMute
    dsimp only
    rw [seat]
    refine (if_neg (by simp [loud])).trans ?_
    rw [loud]
    rfl

theorem State.dropViewer_loss (t : State) (n : StreamId) (v : Fin 8) (left : Option Viewer) (muted : Bool) :
    t.dropViewer n v left (!muted) =
      ((t.unseated n v left (if muted then 0 else 1)).cancelViewer n v).completeIfDone n := by
  cases muted with
  | false => exact t.dropViewer_unmuted n v left
  | true => exact t.dropViewer_muted n v left

/-- Settles O40. -/
theorem sharRemoveAndMute : Obligations.SharRemoveAndMute := by
  unfold Obligations.SharRemoveAndMute
  intro c r s n v takes
  dsimp only
  rw [← Stream.unmuted_eq]
  intro long hn hv opened op
  have decision {k : Nat} (op : u8 r.body 5 = k) (few : k ≤ 3) : decideShar s r.body = sharAction s n v r.body k :=
    decideShar_action hn hv opened op few
  refine ⟨fun remove own => ?_, fun free empty => ?_, fun y seat mute muted => ?_, fun y seat free loud => ?_⟩
  · exact (takes.shar long).refused ((decision remove (by decide)).trans (if_pos own))
  · refine (takes.shar long).refused ?_
    rcases op with remove | mute
    · rw [decision remove (by decide)]
      change decideRemove s n v = _
      unfold decideRemove
      dsimp only
      rw [if_neg (free remove), empty]
    · rw [decision mute (by decide)]
      change decideMute s n v = _
      unfold decideMute
      dsimp only
      rw [empty]
  · refine (takes.shar long).idle ((decision mute (by decide)).trans ?_)
    change decideMute s n v = _
    unfold decideMute
    dsimp only
    rw [seat]
    exact if_pos muted
  · have drops := sharAction_drops (b := r.body) seat (k := u8 r.body 5)
      (left := if u8 r.body 5 = 1 then none else some { y with muted := true }) (by
        rcases op with remove | mute
        · exact .inl ⟨remove, free remove, if_pos remove⟩
        · exact .inr ⟨mute, loud mute, if_neg (by omega)⟩)
    have all := (takes.shar long).drops (f := fun t => t.dropViewer n v _ (!y.muted))
      ((decision rfl (by omega)).trans drops) (fun t => t.dropViewer_loss n v _ y.muted)
    dsimp only at all
    rw [State.unseated_answered] at all
    exact all

end Sys2Proof.Machine
end

section
/-! SUPPORT. Resources for an allocation (R104, R110, R111): free numbers, free pages and entries, and needs that can be met. -/

namespace Sys2Proof.Machine

/-! ### Free numbers (R104) -/

theorem lowestFree_spec (taken : List Nat) (fuel next count : Nat) :
    (lowestFree taken fuel next count).Nodup ∧
      ∀ p ∈ lowestFree taken fuel next count, next ≤ p ∧ p < next + fuel ∧ p ∉ taken := by
  induction fuel generalizing next count with
  | zero =>
    cases count with
    | zero => simp [lowestFree]
    | succ count => simp [lowestFree]
  | succ fuel ih =>
    cases count with
    | zero => simp [lowestFree]
    | succ count =>
      unfold lowestFree
      split
      · obtain ⟨nodup, bounds⟩ := ih (next + 1) (count + 1)
        refine ⟨nodup, fun p mem => ?_⟩
        obtain ⟨low, high, free⟩ := bounds p mem
        exact ⟨by omega, by omega, free⟩
      · next free =>
        obtain ⟨nodup, bounds⟩ := ih (next + 1) count
        refine ⟨List.nodup_cons.2 ⟨fun mem => ?_, nodup⟩, fun p mem => ?_⟩
        · obtain ⟨low, -⟩ := bounds next mem
          omega
        · rcases List.mem_cons.1 mem with rfl | mem
          · exact ⟨le_refl p, by omega, by simpa using free⟩
          · obtain ⟨low, high, free⟩ := bounds p mem
            exact ⟨by omega, by omega, free⟩

theorem lowestFree_length (taken : List Nat) (fuel next count : Nat)
    (room : count + ((List.range' next fuel).countP fun p => taken.contains p) ≤ fuel) :
    (lowestFree taken fuel next count).length = count := by
  induction fuel generalizing next count with
  | zero =>
    obtain rfl : count = 0 := by omega
    simp [lowestFree]
  | succ fuel ih =>
    cases count with
    | zero => simp [lowestFree]
    | succ count =>
      rw [List.range'_succ, List.countP_cons] at room
      unfold lowestFree
      split
      · next used =>
        rw [if_pos used] at room
        exact ih _ _ (by omega)
      · next free =>
        rw [if_neg free] at room
        rw [List.length_cons, ih _ _ (by omega)]

/-- Of a range no more numbers are taken than there are takings. -/
theorem countP_taken_le (taken : List Nat) (next fuel : Nat) :
    ((List.range' next fuel).countP fun p => taken.contains p) ≤ taken.length := by
  rw [List.countP_eq_length_filter]
  refine (List.Nodup.subperm ((List.nodup_range' ..).filter _) fun p mem => ?_).length_le
  simpa using (List.mem_filter.1 mem).2

theorem lowestFree_full {taken : List Nat} {fuel count : Nat} (room : count + taken.length ≤ fuel) :
    (lowestFree taken fuel 0 count).length = count :=
  lowestFree_length _ _ _ _ (by have := countP_taken_le taken 0 fuel; omega)

/-- Free pages are pages of no entry, as many as are asked for (R104). -/
theorem FrameBuffer.takePages_spec {b : FrameBuffer} {count : Nat} (room : b.heldPages + count ≤ 32768) :
    (b.takePages count).length = count ∧ (b.takePages count).Nodup ∧
      ∀ p ∈ b.takePages count, p < 32768 ∧ ∀ y ∈ b.dir, p ∉ y.pages := by
  obtain ⟨nodup, free⟩ := lowestFree_spec (b.dir.flatMap (·.pages)) Config.pages 0 count
  have held : (b.dir.flatMap (·.pages)).length = b.heldPages := List.length_flatMap ..
  refine ⟨lowestFree_full (by rw [held]; have : Config.pages = 32768 := rfl; omega), nodup, fun p mem => ?_⟩
  obtain ⟨-, high, apart⟩ := free p mem
  have : Config.pages = 32768 := rfl
  exact ⟨by omega, fun y inDir held => apart (List.mem_flatMap.2 ⟨y, inDir, held⟩)⟩

/-- A FREE entry has a number of its own (R104). -/
theorem FrameBuffer.takeEntry_spec {b : FrameBuffer} (room : b.dir.length < 4096) :
    b.takeEntry < 4096 ∧ ∀ y ∈ b.dir, y.id ≠ b.takeEntry := by
  obtain ⟨-, free⟩ := lowestFree_spec (b.dir.map (·.id)) Config.directoryEntries 0 1
  have entries : Config.directoryEntries = 4096 := rfl
  have one : (lowestFree (b.dir.map (·.id)) Config.directoryEntries 0 1).length = 1 :=
    lowestFree_full (by rw [List.length_map]; omega)
  obtain ⟨d, only⟩ := List.length_eq_one_iff.1 one
  have taken : b.takeEntry = d := by
    unfold FrameBuffer.takeEntry
    rw [only]
  obtain ⟨-, high, apart⟩ := free d (by simp [only])
  rw [taken]
  exact ⟨by omega, fun y inDir same => apart (List.mem_map.2 ⟨y, inDir, same⟩)⟩

/-! ### Needs (R110, R111) -/

theorem pageCount_eq (bytes : Nat) : pageCount bytes = (bytes + 1048575) / 1048576 := by
  have size : Config.pageBytes = 1048576 := rfl
  unfold pageCount ceilDiv
  rw [size, Nat.add_sub_assoc (by decide)]

theorem FrameBuffer.freePages_eq (b : FrameBuffer) : b.freePages = 32768 - b.heldPages := rfl

theorem FrameBuffer.freeEntries_eq (b : FrameBuffer) : b.freeEntries = 4096 - b.dir.length := rfl

theorem Dispatcher.freeRecords_eq (d : Dispatcher) : d.freeRecords = 8192 - d.chunks.length := rfl

theorem State.canMeet_iff {s : State} {x : Needs} {target : Nat} (entry : x.entry = true) :
    s.canMeet x target = true ↔
      x.records ≤ 8192 - s.dispatcher.chunks.length ∧ target ≤ 32768 - s.buffer.heldPages + s.buffer.reclaimPages ∧
        1 ≤ 4096 - s.buffer.dir.length + s.buffer.reclaim.length := by
  unfold State.canMeet
  rw [entry, Dispatcher.freeRecords_eq, FrameBuffer.freePages_eq, FrameBuffer.freeEntries_eq]
  simp [and_assoc]

/-- With free pages and a FREE entry enough nothing is reclaimed (R111). -/
theorem State.reclaimFor_room {s : State} {x : Needs} {target : Nat} (pages : target ≤ 32768 - s.buffer.heldPages)
    (entry : s.buffer.dir.length < 4096) : s.reclaimFor x target = s := by
  have room : target ≤ s.buffer.freePages ∧ (x.entry = false ∨ 1 ≤ s.buffer.freeEntries) :=
    ⟨pages, .inr (by rw [FrameBuffer.freeEntries_eq]; omega)⟩
  unfold State.reclaimFor
  cases s.buffer.reclaim.length with
  | zero => rfl
  | succ fuel =>
    unfold reclaimLoop
    exact if_pos room

/-! ### Lookups (R106, R110) -/

/-- With none but FAILED entries of a key a lookup misses, and no stale entry stands in the way (R106, R110). -/
theorem FrameBuffer.lookup_failed {b : FrameBuffer} {key : FrameKey} (h : ∀ y ∈ b.dir, y.key = key → y.state = .failed) :
    b.lookup key = none := by
  unfold FrameBuffer.lookup
  rw [List.find?_eq_none]
  intro y mem hit
  simp only [Bool.and_eq_true, beq_iff_eq, bne_iff_ne] at hit
  exact hit.1.2 (h y mem hit.1.1)

theorem State.keyHeldStale_failed {s : State} {key : FrameKey} (h : ∀ y ∈ s.buffer.dir, y.key = key → y.state = .failed) :
    s.keyHeldStale key = false := by
  unfold State.keyHeldStale
  rw [List.any_eq_false]
  intro y mem hit
  simp only [Bool.and_eq_true, beq_iff_eq, bne_iff_ne] at hit
  exact hit.2 (h y mem hit.1.1)

end Sys2Proof.Machine
end

section
/-! SUPPORT. One service pass over a list of one waiter (R114), and how a request is served (R115). -/

namespace Sys2Proof.Machine

/-! ### The pass (R114) -/

theorem exec_servicePass {s : State} (awake : s.region.engine ≠ .halted) (wanted : s.buffer.passWanted = true) :
    exec .servicePass s = .next s.servicePass.wakeAll :=
  congrArg Host.Outcome.next (if_neg (by simp [State.halted, awake, wanted]))

/-- A pass as it begins. -/
def State.pass (s : State) : Pass := ⟨{ s with buffer := { s.buffer with passWanted := false } }, false, false, []⟩

theorem passLoop_done {p : Pass} (fuel : Nat) (h : p.next = none) : passLoop fuel p = p := by
  cases fuel with
  | zero => rfl
  | succ fuel =>
    unfold passLoop
    rw [h]

theorem passLoop_step {p : Pass} {w : Waiter} (fuel : Nat) (h : p.next = some w) :
    passLoop (fuel + 1) p = passLoop fuel (p.consider w) := by
  conv_lhs => unfold passLoop
  rw [h]

theorem Pass.next_empty {p : Pass} (h : p.state.buffer.waiters = []) : p.next = none := by
  unfold Pass.next
  rw [h]
  exact ite_self none

theorem Pass.next_ended {p : Pass} (h : p.ended = true) : p.next = none := if_pos h

theorem State.pass_next {s : State} {w : Waiter} {rest : List Waiter} (h : s.buffer.waiters = w :: rest) :
    s.pass.next = some w := by
  unfold Pass.next State.pass
  dsimp only
  rw [h]
  rfl

theorem State.servicePass_done {s : State} {p : Pass} (h : passLoop (2 * s.buffer.waiters.length) s.pass = p) :
    s.servicePass = p.state.buffer.waiters.foldl State.answerWaiting p.state := by
  subst h
  rfl

theorem State.servicePass_none {s : State} (none_ : s.buffer.waiters = []) :
    s.servicePass = { s with buffer := { s.buffer with passWanted := false } } := by
  have start : s.pass.next = none := Pass.next_empty none_
  rw [State.servicePass_done (passLoop_done _ start)]
  change s.buffer.waiters.foldl State.answerWaiting _ = _
  rw [none_]
  rfl

theorem State.servicePass_one {s : State} {w : Waiter} (only : s.buffer.waiters = [w])
    (over_ : (s.pass.consider w).next = none) :
    s.servicePass = (s.pass.consider w).state.buffer.waiters.foldl State.answerWaiting (s.pass.consider w).state := by
  refine State.servicePass_done ?_
  rw [only]
  exact (passLoop_step 1 (State.pass_next only)).trans (passLoop_done 1 over_)

/-- The only waiter is served. -/
theorem State.servicePass_served {s t : State} {w : Waiter} (only : s.buffer.waiters = [w])
    (served : (s.pass.consider w).state = t) (gone : t.buffer.waiters = []) : s.servicePass = t := by
  rw [State.servicePass_one only (Pass.next_empty (by rw [served]; exact gone)), served, gone]
  rfl

/-- The only waiter stays where it stood. -/
theorem State.servicePass_kept {s : State} {w : Waiter} (only : s.buffer.waiters = [w])
    (kept : (s.pass.consider w).state = s.pass.state) (over_ : (s.pass.consider w).next = none) :
    s.servicePass = s.pass.state.answerWaiting w := by
  rw [State.servicePass_one only over_, kept]
  change s.buffer.waiters.foldl State.answerWaiting s.pass.state = _
  rw [only]
  rfl

/-! ### A request is considered (R114) -/

section

variable {p : Pass} {n : StreamId} {tick : Word} {key : FrameKey} {deadline : Deadline} {cls : Cls}

/-- The needs of a request (R110). -/
def State.needs (s : State) (key : FrameKey) : Needs := needsOf (s.decoder.plan key) (s.clip key.clip).bytes

/-- The needs of a request can be met (R111). -/
def State.meets (s : State) (key : FrameKey) (cls : Cls) : Bool :=
  s.canMeet (s.needs key) ((s.needs key).target s.buffer.reserve cls)

theorem State.pass_meets (s : State) (key : FrameKey) (cls : Cls) : s.pass.state.meets key cls = s.meets key cls := rfl

theorem Pass.consider_request (h : p.playOnly = false ∨ cls = .play) :
    p.consider (.request n tick key deadline cls) = p.request n tick key deadline cls := by
  refine if_neg ?_
  change ¬ (p.playOnly && cls == .scrub) = true
  rcases h with all | rfl
  · simp [all]
  · simp

theorem Pass.request_hit {y : DirEntry} (found : p.state.buffer.lookup key = some y) :
    p.request n tick key deadline cls = { p with state := p.state.answerHit n tick deadline cls y } := by
  unfold Pass.request
  dsimp only
  rw [found]

variable (missing : ∀ y ∈ p.state.buffer.dir, y.key = key → y.state = .failed)

include missing

theorem Pass.request_missing :
    p.request n tick key deadline cls =
      if p.state.meets key cls then
        { p with state := p.state.serveRequest n tick key deadline cls }
      else if cls = .scrub ∧ p.state.meets key .play then
        { p with playOnly := true, passed := .request n tick key deadline cls :: p.passed }
      else { p with ended := true } := by
  unfold Pass.request
  dsimp only
  rw [FrameBuffer.lookup_failed missing, State.keyHeldStale_failed missing]
  rfl

end

/-! ### A request is served (R115) -/

section

variable (s : State) (n : StreamId) (tick : Word) (key : FrameKey) (deadline : Deadline) (cls : Cls)

/-- The request has left the list, and entries have been reclaimed for it (R111, R115). -/
def State.roomFor : State :=
  (s.removeWaiters fun w => w.isRequest n tick).reclaimFor (s.needs key) ((s.needs key).target s.buffer.reserve cls)

variable {s n tick key deadline cls}

theorem State.serveRequest_held {r : State} (held : s.decoder.plan key = .held) (room : s.roomFor n tick key cls = r) :
    s.serveRequest n tick key deadline cls =
      (r.setDecoder { r.decoder with hold := r.decoder.hold ++ [r.buffer.takeEntry] }).allocated n tick
        (newEntry r.buffer.takeEntry .filling key (s.clip key.clip).bytes
          (r.buffer.takePages (pageCount (s.clip key.clip).bytes)) .held deadline cls none) := by
  subst room
  unfold State.serveRequest State.roomFor State.needs
  dsimp only
  rw [held]
  rfl

theorem State.serveRequest_mapped {r : State} {ps : List Piece} (mapped : s.decoder.plan key = .mapped ps)
    (room : s.roomFor n tick key cls = r) :
    s.serveRequest n tick key deadline cls =
      (r.allocated n tick
        (newEntry r.buffer.takeEntry .filling key (s.clip key.clip).bytes
          (r.buffer.takePages (pageCount (s.clip key.clip).bytes)) .awaiting deadline cls none)).produce
        r.buffer.takeEntry ps.length := by
  subst room
  unfold State.serveRequest State.roomFor State.needs
  dsimp only
  rw [mapped]
  rfl

theorem State.serveRequest_unmapped {r : State} (lost : s.decoder.plan key = .unmapped ∨ s.decoder.plan key = .notCurrent)
    (room : s.roomFor n tick key cls = r) :
    s.serveRequest n tick key deadline cls =
      ((r.addEntry (newEntry r.buffer.takeEntry .failed key (s.clip key.clip).bytes [] .undecoded deadline cls
          (some .unmapped))).raise (.fail key .unmapped none 0 0 1)).answer n tick .failed r.buffer.takeEntry := by
  subst room
  unfold State.serveRequest State.roomFor State.needs
  dsimp only
  rcases lost with unmapped | notCurrent
  · rw [unmapped]
  · rw [notCurrent]

end

/-! ### FETCHED marks (R103) -/

theorem State.evalFetched_buffer (n : StreamId) (key : FrameKey) (d : Direction) (tick : Word) (s : State) (i : Fin 8) :
    (State.evalFetched n key d tick s i).buffer = s.buffer := by
  unfold State.evalFetched
  split
  · split
    · dsimp only
      split
      · rw [State.raise_buffer, State.setStream_buffer]
      · rw [State.setStream_buffer]
    · rfl
  · rfl

theorem State.fetchedMarks_buffer (s : State) (n : StreamId) (key : FrameKey) (d : Direction) (tick : Word) :
    (s.fetchedMarks n key d tick).buffer = s.buffer := by
  unfold State.fetchedMarks
  induction allSlots generalizing s with
  | nil => rfl
  | cons i l ih => rw [List.foldl_cons, ih, State.evalFetched_buffer]

/-- With none but SHOWN marks an allocation is no mark's event (R103). -/
theorem State.fetchedMarks_shown {s : State} {n : StreamId} (key : FrameKey) (d : Direction) (tick : Word)
    (shown : ∀ (i : Fin 8) (m : Mark), (s.stream n).marks[i] = some m → m.kind = .shown) :
    s.fetchedMarks n key d tick = s := by
  have still (i : Fin 8) : State.evalFetched n key d tick s i = s := by
    unfold State.evalFetched
    split
    · next m set_ =>
      refine if_neg ?_
      unfold Mark.answers
      simp [shown i m set_]
    · rfl
  unfold State.fetchedMarks
  induction allSlots with
  | nil => rfl
  | cons i l ih => rw [List.foldl_cons, still, ih]

/-- An allocation with no waiter left (R103, R115). -/
theorem State.allocated_alone {s : State} (n : StreamId) (tick : Word) (e : DirEntry) (none_ : s.buffer.waiters = []) :
    s.allocated n tick e =
      ((s.addEntry e).answer n tick .fetching e.id).fetchedMarks n e.key
        ((((s.addEntry e).answer n tick .fetching e.id).stream n).directionOf tick) tick := by
  have gone : ((s.addEntry e).answer n tick .fetching e.id).buffer.waiters = [] := none_
  unfold State.allocated State.answerSameKey
  dsimp only
  rw [State.fetchedMarks_buffer, gone, List.foldl_nil]

theorem State.allocated_shown {s : State} (n : StreamId) (tick : Word) (e : DirEntry) (none_ : s.buffer.waiters = [])
    (shown : ∀ (i : Fin 8) (m : Mark), (s.stream n).marks[i] = some m → m.kind = .shown) :
    s.allocated n tick e = (s.addEntry e).answer n tick .fetching e.id := by
  rw [State.allocated_alone n tick e none_]
  refine State.fetchedMarks_shown _ _ _ fun i m set_ => shown i m ?_
  have stream : ((s.addEntry e).answer n tick .fetching e.id).stream n =
      { s.stream n with
        window := (s.stream n).window.map fun z => if z.tick = tick then { z with stage := .fetching, ref := some e.id } else z } :=
    State.setStream_stream ..
  rw [stream] at set_
  exact set_

end Sys2Proof.Machine
end

section
/-! SUPPORT. What a service pass comes to for a request whose frame is not found (R94, R110, R111, R115). -/

namespace Sys2Proof.Machine

/-- The state as a pass takes the last waiter from the list. -/
def State.alone (s : State) : State := { s with buffer := { s.buffer with waiters := [], passWanted := false } }

theorem State.answer_eq {s : State} {n : StreamId} {x : Stream} (h : s.stream n = x) (tick : Word) (g : Stage) (d : Nat) :
    s.answer n tick g d =
      s.setStream n
        { x with window := x.window.map fun y => if y.tick = tick then { y with stage := g, ref := some d } else y } := by
  subst h
  rfl

theorem State.needs_held {s : State} {key : FrameKey} (h : s.decoder.plan key = .held) :
    s.needs key = ⟨true, pageCount (s.clip key.clip).bytes, 0⟩ := by
  unfold State.needs
  rw [h]
  rfl

theorem State.needs_mapped {s : State} {key : FrameKey} {ps : List Piece} (h : s.decoder.plan key = .mapped ps) :
    s.needs key = ⟨true, pageCount (s.clip key.clip).bytes, ps.length⟩ := by
  unfold State.needs
  rw [h]
  rfl

theorem State.needs_lost {s : State} {key : FrameKey} (h : s.decoder.plan key = .unmapped ∨ s.decoder.plan key = .notCurrent) :
    s.needs key = ⟨true, 0, 0⟩ := by
  unfold State.needs
  rcases h with unmapped | notCurrent
  · rw [unmapped]
    rfl
  · rw [notCurrent]
    rfl

theorem State.needs_entry (s : State) (key : FrameKey) : (s.needs key).entry = true := by
  unfold State.needs needsOf
  split
  · rfl
  · rfl
  · rfl
  · rfl

/-- A target holds the pages themselves (R111). -/
theorem Needs.pages_le_target (x : Needs) (reserve : Nat) (cls : Cls) : x.pages ≤ x.target reserve cls := by
  unfold Needs.target
  split
  · omega
  · cases cls with
    | play => exact le_refl _
    | scrub => exact Nat.le_add_right ..

section

variable {s : State} {n : StreamId} {tick : Word} {key : FrameKey} {deadline : Deadline} {cls : Cls}

theorem State.alone_of_request (only : s.buffer.waiters = [.request n tick key deadline cls]) :
    (s.pass.state.removeWaiters fun w => w.isRequest n tick) = s.alone := by
  have gone : (s.buffer.waiters.filter fun w => !w.isRequest n tick) = [] := by
    rw [only]
    simp [Waiter.isRequest]
  unfold State.removeWaiters
  change { s with buffer := { s.buffer with waiters := s.buffer.waiters.filter fun w => !w.isRequest n tick, passWanted := false } } = _
  rw [gone]
  rfl

theorem State.roomFor_alone (only : s.buffer.waiters = [.request n tick key deadline cls]) :
    s.pass.state.roomFor n tick key cls = s.alone.reclaimFor (s.needs key) ((s.needs key).target s.buffer.reserve cls) := by
  rw [← State.alone_of_request only]
  rfl

/-- Room enough, as it stands (R111). -/
theorem State.roomFor_room (only : s.buffer.waiters = [.request n tick key deadline cls])
    (pages : s.buffer.heldPages + (s.needs key).target s.buffer.reserve cls ≤ 32768) (entry : s.buffer.dir.length < 4096) :
    s.pass.state.roomFor n tick key cls = s.alone := by
  rw [State.roomFor_alone only]
  refine State.reclaimFor_room ?_ entry
  change _ ≤ 32768 - s.buffer.heldPages
  omega

theorem State.meets_room (records : (s.needs key).records ≤ 8192 - s.dispatcher.chunks.length)
    (pages : s.buffer.heldPages + (s.needs key).target s.buffer.reserve cls ≤ 32768) (entry : s.buffer.dir.length < 4096) :
    s.meets key cls = true :=
  (State.canMeet_iff (s.needs_entry key)).2 ⟨records, by omega, by omega⟩

theorem State.target_lost (lost : s.decoder.plan key = .unmapped ∨ s.decoder.plan key = .notCurrent) :
    (s.needs key).target s.buffer.reserve cls = 0 := by
  rw [State.needs_lost lost]
  rfl

theorem State.meets_lost (lost : s.decoder.plan key = .unmapped ∨ s.decoder.plan key = .notCurrent)
    (entry : s.buffer.dir.length < 4096) : s.meets key cls = true := by
  unfold State.meets
  rw [State.target_lost lost, State.canMeet_iff (s.needs_entry key), State.needs_lost lost]
  exact ⟨Nat.zero_le _, Nat.zero_le _, by omega⟩

variable (only : s.buffer.waiters = [.request n tick key deadline cls])
  (missing : ∀ y ∈ s.buffer.dir, y.key = key → y.state = .failed)

include only missing

/-- A request whose needs can be met is served (R114, R115). -/
theorem State.servicePass_serves {t : State} (meets : s.meets key cls = true)
    (served : s.pass.state.serveRequest n tick key deadline cls = t) (gone : t.buffer.waiters = []) : s.servicePass = t := by
  refine State.servicePass_served only ?_ gone
  rw [Pass.consider_request (.inl rfl), Pass.request_missing (p := s.pass) missing, s.pass_meets, if_pos meets]
  exact served

/-- A request whose needs cannot be met stays, and is answered "waiting" (R94, R110, R114). -/
theorem State.servicePass_waits (short : s.meets key cls = false) :
    s.servicePass =
      s.pass.state.changeEntry n tick fun e => if e.stage = .projected then { e with stage := .waiting } else e := by
  have considered : s.pass.consider (.request n tick key deadline cls) = _ :=
    (Pass.consider_request (.inl rfl)).trans (Pass.request_missing (p := s.pass) missing)
  rw [s.pass_meets, s.pass_meets, if_neg (by rw [short]; exact Bool.false_ne_true)] at considered
  split at considered
  · refine State.servicePass_kept only (by rw [considered]) ?_
    rw [considered]
    have passed : (s.buffer.waiters.find? fun w =>
        !([.request n tick key deadline cls] : List Waiter).any (·.same w)) = none := by
      rw [only]
      simp [Waiter.same, Waiter.isRequest]
    exact passed
  · refine State.servicePass_kept only (by rw [considered]) ?_
    rw [considered]
    exact Pass.next_ended rfl

/-- A request whose frame no clip and no mapping gives takes an entry that is FAILED (R115). -/
theorem State.servicePass_unmapped (lost : s.decoder.plan key = .unmapped ∨ s.decoder.plan key = .notCurrent)
    (entry : s.buffer.dir.length < 4096) :
    s.servicePass =
      (((s.alone.addEntry (newEntry s.buffer.takeEntry .failed key (s.clip key.clip).bytes [] .undecoded deadline cls
          (some .unmapped))).raise (.fail key .unmapped none 0 0 1)).answer n tick .failed s.buffer.takeEntry) := by
  have room : s.pass.state.roomFor n tick key cls = s.alone := by
    rw [State.roomFor_alone only, State.target_lost lost]
    exact State.reclaimFor_room (Nat.zero_le _) entry
  refine State.servicePass_serves only missing (State.meets_lost lost entry) (State.serveRequest_unmapped (s := s.pass.state) lost room) ?_
  change (((s.alone.addEntry _).raise _).setStream n _).buffer.waiters = []
  rw [State.setStream_buffer, State.raise_buffer]
  rfl

/-- A request whose frame is held, once room has been made for it (R25, R115). -/
theorem State.servicePass_held {r : State} (held : s.decoder.plan key = .held)
    (meets : s.meets key cls = true)
    (room : s.pass.state.roomFor n tick key cls = r) (gone : r.buffer.waiters = []) :
    s.servicePass =
      (r.setDecoder { r.decoder with hold := r.decoder.hold ++ [r.buffer.takeEntry] }).allocated n tick
        (newEntry r.buffer.takeEntry .filling key (s.clip key.clip).bytes
          (r.buffer.takePages (pageCount (s.clip key.clip).bytes)) .held deadline cls none) := by
  refine State.servicePass_serves only missing meets (State.serveRequest_held (s := s.pass.state) held room) ?_
  have none_ : (r.setDecoder { r.decoder with hold := r.decoder.hold ++ [r.buffer.takeEntry] }).buffer.waiters = [] := gone
  rw [State.allocated_alone n tick _ none_, State.fetchedMarks_buffer]
  exact gone

end

end Sys2Proof.Machine
end

section
/-! SUPPORT. A pass over two requests (R111, R114), and a request that is a hit (R106 to R109). -/

namespace Sys2Proof.Machine

/-! ### The reserve keeps a SCRUB request out (R111, R114) -/

/-- The state as a pass leaves one waiter on the list. -/
def State.keeping (s : State) (w : Waiter) : State := { s with buffer := { s.buffer with waiters := [w], passWanted := false } }

section

variable {s : State} {n k : StreamId} {tick next : Word} {key other : FrameKey} {d e : Deadline}

/-- A lost frame needs no room beside the request that is left (R111, R115). -/
theorem State.roomFor_keeping (two : s.buffer.waiters = [.request n tick key d .scrub, .request k next other e .play])
    (apart : n ≠ k) (entry : s.buffer.dir.length < 4096)
    (lost : s.decoder.plan other = .unmapped ∨ s.decoder.plan other = .notCurrent) :
    s.pass.state.roomFor k next other .play = s.keeping (.request n tick key d .scrub) := by
  have gone : (s.buffer.waiters.filter fun w => !w.isRequest k next) = [.request n tick key d .scrub] := by
    rw [two]
    simp [Waiter.isRequest, apart]
  have removed : (s.pass.state.removeWaiters fun w => w.isRequest k next) = s.keeping (.request n tick key d .scrub) := by
    change { s with buffer := { s.buffer with waiters := s.buffer.waiters.filter fun w => !w.isRequest k next, passWanted := false } } = _
    rw [gone]
    rfl
  unfold State.roomFor
  rw [removed]
  change (s.keeping _).reclaimFor (s.needs other) ((s.needs other).target s.buffer.reserve .play) = _
  rw [State.target_lost lost]
  exact State.reclaimFor_room (Nat.zero_le _) entry

/-- A PLAY request for a lost frame, behind a SCRUB request that the reserve alone keeps out (R111, R114). -/
theorem State.servicePass_reserve (two : s.buffer.waiters = [.request n tick key d .scrub, .request k next other e .play])
    (apart : n ≠ k) (missing : ∀ y ∈ s.buffer.dir, y.key = key ∨ y.key = other → y.state = .failed)
    (entry : s.buffer.dir.length < 4096) (kept : s.meets key .scrub = false) (room : s.meets key .play = true)
    (lost : s.decoder.plan other = .unmapped ∨ s.decoder.plan other = .notCurrent) :
    s.servicePass =
      (((((s.keeping (.request n tick key d .scrub)).addEntry
          (newEntry s.buffer.takeEntry .failed other (s.clip other.clip).bytes [] .undecoded e .play
            (some .unmapped))).raise (.fail other .unmapped none 0 0 1)).answer k next .failed s.buffer.takeEntry).changeEntry
        n tick fun y => if y.stage = .projected then { y with stage := .waiting } else y) := by
  set one : Waiter := .request n tick key d .scrub
  set two_ : Waiter := .request k next other e .play
  set passed : Pass := { s.pass with playOnly := true, passed := [one] }
  have first : s.pass.consider one = passed := by
    refine (Pass.consider_request (.inl rfl)).trans
      ((Pass.request_missing (p := s.pass) fun y mem same => missing y mem (.inl same)).trans ?_)
    rw [s.pass_meets, s.pass_meets, kept, room]
    rfl
  have another : one.same two_ = false := by simp [one, two_, Waiter.same, Waiter.isRequest, Ne.symm apart]
  have itself : one.same one = true := by simp [one, Waiter.same, Waiter.isRequest]
  have second : passed.next = some two_ := by
    have found : (s.buffer.waiters.find? fun w => !([one] : List Waiter).any (·.same w)) = some two_ := by
      rw [two]
      simp [itself, another]
    exact found
  set served : State := (((s.keeping one).addEntry
      (newEntry s.buffer.takeEntry .failed other (s.clip other.clip).bytes [] .undecoded e .play (some .unmapped))).raise (.fail other .unmapped none 0 0 1)).answer k next .failed s.buffer.takeEntry
  have considered : passed.consider two_ = { passed with state := served } := by
    refine (Pass.consider_request (.inr rfl)).trans
      ((Pass.request_missing (p := passed) fun y mem same => missing y mem (.inr same)).trans
        ((if_pos (State.meets_lost (s := s) lost entry)).trans ?_))
    exact congrArg (fun t : State => { passed with state := t })
      (State.serveRequest_unmapped (s := s.pass.state) lost (State.roomFor_keeping two apart entry lost))
  have waiters : served.buffer.waiters = [one] := by
    change (((s.keeping one).addEntry _).raise _).buffer.waiters = [one]
    rw [State.raise_buffer]
    rfl
  have third : ({ passed with state := served } : Pass).next = none := by
    have found : (served.buffer.waiters.find? fun w => !([one] : List Waiter).any (·.same w)) = none := by
      rw [waiters]
      simp [itself]
    exact found
  have loop : passLoop (2 * s.buffer.waiters.length) s.pass = { passed with state := served } := by
    rw [two]
    change passLoop (3 + 1) s.pass = _
    rw [passLoop_step 3 (State.pass_next two), first, passLoop_step 2 second, considered, passLoop_done 2 third]
  rw [State.servicePass_done loop]
  change served.buffer.waiters.foldl State.answerWaiting served = _
  rw [waiters]
  rfl

end

/-! ### A hit (R106 to R109) -/

theorem State.HasEntry.withEntry {s : State} {x y : DirEntry} (h : s.HasEntry y) (id : x.id = y.id) : (s.withEntry x).HasEntry x := by
  refine ⟨List.mem_map.2 ⟨y, h.1, if_pos id.symm⟩, fun z mem same => ?_⟩
  obtain ⟨w, -, rfl⟩ := List.mem_map.1 mem
  split
  · rfl
  · next other =>
    rw [if_neg other] at same
    exact absurd same other

theorem State.withChunks_withChunks (s : State) (d : Nat) {f g : Chunk → Chunk} (frame : ∀ c, (f c).frame = c.frame) :
    (s.withChunks d f).withChunks d g = s.withChunks d (g ∘ f) := by
  have chunks : (s.dispatcher.chunks.map fun c => if c.frame = d then f c else c).map (fun c => if c.frame = d then g c else c) =
      s.dispatcher.chunks.map fun c => if c.frame = d then (g ∘ f) c else c := by
    rw [List.map_map]
    refine List.map_congr_left fun c _ => ?_
    dsimp only [Function.comp]
    by_cases same : c.frame = d
    · simp [same, frame]
    · simp [same]
  simp only [State.withChunks, chunks]

theorem State.withChunks_id (s : State) (d : Nat) {f : Chunk → Chunk} (same : ∀ c, f c = c) : s.withChunks d f = s := by
  have chunks : (s.dispatcher.chunks.map fun c => if c.frame = d then f c else c) = s.dispatcher.chunks :=
    (List.map_congr_left fun c _ => by rw [same, ite_self]).trans (List.map_id' _)
  simp only [State.withChunks, chunks]

/-- A deadline brought to a frame (R108). -/
theorem State.bringDeadline_eq {s : State} {x : DirEntry} (d : Deadline) (h : s.HasEntry x) (none_ : s.buffer.waiters = []) :
    s.bringDeadline x.id d =
      (s.withEntry { x with deadline := if earlier d x.deadline = true then d else x.deadline }).withChunks x.id fun c =>
        { c with deadline := if earlier d x.deadline = true then d else c.deadline } := by
  unfold State.bringDeadline
  rw [h.dirEntry]
  dsimp only
  by_cases sooner : earlier d x.deadline = true
  · have still : ((s.setDir { x with deadline := d }).changeChunks x.id fun c => { c with deadline := d }).moveWaiter
        (fun w => w.isFrame x.id) d = (s.setDir { x with deadline := d }).changeChunks x.id fun c => { c with deadline := d } := by
      have gone : ((s.setDir { x with deadline := d }).changeChunks x.id fun c => { c with deadline := d }).buffer.waiters = [] :=
        none_
      unfold State.moveWaiter
      rw [gone]
      rfl
    rw [if_pos sooner]
    unfold State.putDeadline
    dsimp only
    rw [still, ite_self]
    simp only [if_pos sooner]
    rfl
  · simp only [if_neg sooner]
    rw [State.withChunks_id _ _ fun _ => rfl]
    exact (State.withEntry_self h).symm

/-- A class brought to a frame (R109). -/
theorem State.bringCls_eq {s : State} {x : DirEntry} (k : Cls) (h : s.HasEntry x) (none_ : s.buffer.waiters = []) :
    s.bringCls x.id k =
      (s.withEntry { x with cls := if k = .play ∧ x.cls = .scrub then .play else x.cls }).withChunks x.id fun c =>
        { c with cls := if k = .play ∧ x.cls = .scrub then .play else c.cls } := by
  unfold State.bringCls
  rw [h.dirEntry]
  dsimp only
  by_cases raised : k = .play ∧ x.cls = .scrub
  · simp only [if_pos raised]
    unfold State.putCls
    simp only [State.setDir, State.changeChunks, State.setChunks, State.setBuffer, State.setDispatcher, State.withEntry,
      State.withChunks, none_, List.map_nil]
  · simp only [if_neg raised]
    rw [State.withChunks_id _ _ fun _ => rfl]
    exact (State.withEntry_self h).symm

/-- The entry with its newcomer (R107), and with the newcomer's deadline (R108) and class (R109) besides. -/
def DirEntry.joined (y : DirEntry) : DirEntry := { y with users := y.users + 1 }

def DirEntry.lowered (y : DirEntry) (d : Deadline) : DirEntry :=
  { y.joined with deadline := if earlier d y.deadline = true then d else y.deadline }

def DirEntry.hitBy (y : DirEntry) (d : Deadline) (k : Cls) : DirEntry :=
  { y.lowered d with cls := if k = .play ∧ y.cls = .scrub then .play else y.cls }

/-- The state with the entry off the reclaim list (R107). -/
def State.unreclaimed (s : State) (d : Nat) : State :=
  { s with buffer := { s.buffer with reclaim := s.buffer.reclaim.filter fun i => i != d } }

theorem State.hit_eq {s : State} {y : DirEntry} (d : Deadline) (k : Cls) (h : s.HasEntry y) (none_ : s.NoneQueued y.id)
    (alone : s.buffer.waiters = []) :
    s.hit y d k =
      ((s.unreclaimed y.id).withEntry (y.hitBy d k)).withChunks y.id fun c =>
        { c with
          deadline := if earlier d y.deadline = true then d else c.deadline
          cls := if k = .play ∧ y.cls = .scrub then .play else c.cls } := by
  have entry : (s.unreclaimed y.id).HasEntry y := h
  have deadline : ((s.unreclaimed y.id).withEntry y.joined).bringDeadline y.id d =
      (((s.unreclaimed y.id).withEntry y.joined).withEntry (y.lowered d)).withChunks y.id fun c =>
        { c with deadline := if earlier d y.deadline = true then d else c.deadline } :=
    State.bringDeadline_eq (x := y.joined) d (entry.withEntry rfl) alone
  rw [State.withEntry_withEntry _ (x := y.joined) (z := y.lowered d) rfl] at deadline
  set lower : State := ((s.unreclaimed y.id).withEntry (y.lowered d)).withChunks y.id fun c =>
    { c with deadline := if earlier d y.deadline = true then d else c.deadline }
  have again : lower.HasEntry (y.lowered d) := entry.withEntry (x := y.lowered d) rfl
  have cls : lower.bringCls y.id k = (lower.withEntry (y.hitBy d k)).withChunks y.id fun c =>
      { c with cls := if k = .play ∧ y.cls = .scrub then .play else c.cls } := State.bringCls_eq (x := y.lowered d) k again alone
  have twice := State.withEntry_withEntry (s.unreclaimed y.id) (x := y.lowered d) (z := y.hitBy d k) rfl
  set done : State := ((s.unreclaimed y.id).withEntry (y.hitBy d k)).withChunks y.id fun c =>
    { c with
      deadline := if earlier d y.deadline = true then d else c.deadline
      cls := if k = .play ∧ y.cls = .scrub then .play else c.cls }
  have both : (((s.unreclaimed y.id).withEntry y.joined).bringDeadline y.id d).bringCls y.id k = done := by
    refine (congrArg (fun t : State => t.bringCls y.id k) deadline).trans (cls.trans ?_)
    exact (State.withChunks_withChunks ((s.unreclaimed y.id).withEntry (y.lowered d) |>.withEntry (y.hitBy d k)) y.id
      (f := fun c => { c with deadline := if earlier d y.deadline = true then d else c.deadline })
      (g := fun c => { c with cls := if k = .play ∧ y.cls = .scrub then .play else c.cls }) fun _ => rfl).trans
        (congrArg (fun t : State => t.withChunks y.id _) twice)
  have quiet : done.touched y.id = done := State.touched_none fun c mem frame => by
    obtain ⟨z, old, rfl⟩ := List.mem_map.1 mem
    have frame' : z.frame = y.id := by
      split at frame
      · assumption
      · exact frame
    rw [if_pos frame']
    exact none_ z old frame'
  have hit : s.hit y d k = if earlier d y.deadline || (k == .play && y.cls == .scrub) then
      ((((s.unreclaimed y.id).withEntry y.joined).bringDeadline y.id d).bringCls y.id k).touched y.id
      else (((s.unreclaimed y.id).withEntry y.joined).bringDeadline y.id d).bringCls y.id k := rfl
  rw [hit, both, quiet, ite_self]

theorem FrameBuffer.lookup_only {b : FrameBuffer} {y : DirEntry} (mem : y ∈ b.dir) (fresh : y.stale = false) (live : y.state ≠ .failed)
    (only : ∀ z ∈ b.dir, z.key = y.key → z.stale = false → z.state ≠ .failed → z = y) : b.lookup y.key = some y := by
  unfold FrameBuffer.lookup
  cases found : b.dir.find? fun e => e.key == y.key && e.state != .failed && !e.stale with
  | none =>
    have none_ := List.find?_eq_none.1 found y mem
    simp [fresh, live] at none_
  | some z =>
    have hit := List.find?_some found
    simp only [Bool.and_eq_true, beq_iff_eq, bne_iff_ne, Bool.not_eq_true'] at hit
    obtain ⟨⟨key, alive⟩, clear⟩ := hit
    rw [only z (List.mem_of_find?_eq_some found) key clear alive]

/-- A request whose frame is found is a hit (R106, R114). -/
theorem State.servicePass_hit {s : State} {n : StreamId} {tick : Word} {deadline : Deadline} {cls : Cls} {y : DirEntry}
    (only : s.buffer.waiters = [.request n tick y.key deadline cls]) (h : s.HasEntry y) (none_ : s.NoneQueued y.id)
    (fresh : y.stale = false) (live : y.state ≠ .failed)
    (unique : ∀ z ∈ s.buffer.dir, z.key = y.key → z.stale = false → z.state ≠ .failed → z = y) :
    s.servicePass =
      (((s.alone.answer n tick y.stageOf y.id).unreclaimed y.id).withEntry (y.hitBy deadline cls)).withChunks y.id fun c =>
        { c with
          deadline := if earlier deadline y.deadline = true then deadline else c.deadline
          cls := if cls = .play ∧ y.cls = .scrub then .play else c.cls } := by
  have hit := State.hit_eq (s := s.alone.answer n tick y.stageOf y.id) deadline cls h none_ rfl
  refine State.servicePass_served only ?_ rfl
  rw [Pass.consider_request (.inl rfl), Pass.request_hit (p := s.pass) (FrameBuffer.lookup_only h.1 fresh live unique)]
  change ((s.pass.state.removeWaiters fun w => w.isRequest n tick).answer n tick y.stageOf y.id).hit y deadline cls = _
  rw [State.alone_of_request only, hit]

end Sys2Proof.Machine
end

section
/-! SUPPORT. FETCHED marks at an allocation (R101, R103). -/

namespace Sys2Proof.Machine

/-- The notice is an FTCH of the stream's mark slot (R103). -/
def NoticeBody.fetchedOf (b : NoticeBody) (n : StreamId) (i : Fin 8) : Prop :=
  ∃ c g f z, b = .ftch n i c g f z

/-- An operation that is no event of the stream's mark slot. -/
structure State.Unmarked (n : StreamId) (i : Fin 8) (s t : State) : Prop where
  mark : (t.stream n).marks[i] = (s.stream n).marks[i]
  mild : Mild (fun _ => True) s t
  notices : ∀ b ∈ t.region.notices, b.body.fetchedOf n i → b ∈ s.region.notices

section

variable {n : StreamId} {i : Fin 8}

theorem State.Unmarked.refl (s : State) : State.Unmarked n i s s := ⟨rfl, (Calm.refl s).toMild, fun _ mem _ => mem⟩

theorem State.Unmarked.trans {a b c : State} (h : State.Unmarked n i a b) (k : State.Unmarked n i b c) :
    State.Unmarked n i a c :=
  ⟨k.mark.trans h.mark, h.mild.trans k.mild, fun x mem about => h.notices x (k.notices x mem about) about⟩

theorem State.mem_raise {s : State} {b : NoticeBody} {x : Notice} (mem : x ∈ (s.raise b).region.notices) :
    x ∈ s.region.notices ∨ x.body = b := by
  rcases s.raiseAt_region_cases s.et b with same | ⟨-, -, more⟩
  · have notices : (s.raise b).region.notices = s.region.notices := (congrArg Region.notices same).trans rfl
    exact .inl (notices ▸ mem)
  · have notices : (s.raise b).region.notices = s.region.notices ++ [⟨b, s.et⟩] := congrArg Region.notices more
    rw [notices] at mem
    rcases List.mem_append.1 mem with old | new
    · exact .inl old
    · exact .inr (by rw [List.mem_singleton.1 new])

variable (key : FrameKey) (d : Direction) (tick : Word)

theorem State.evalFetched_none {s : State} (none_ : (s.stream n).marks[i] = none) : State.evalFetched n key d tick s i = s := by
  unfold State.evalFetched
  rw [none_]

theorem State.evalFetched_other {s : State} {m : Mark} (set_ : (s.stream n).marks[i] = some m)
    (other : m.answers .fetched key d = false) : State.evalFetched n key d tick s i = s := by
  unfold State.evalFetched
  rw [set_]
  exact if_neg (by rw [other]; exact Bool.false_ne_true)

theorem State.evalFetched_event {s : State} {m : Mark} (set_ : (s.stream n).marks[i] = some m)
    (due : m.answers .fetched key d = true) :
    State.evalFetched n key d tick s i =
      if m.event.2 then
        (s.setStream n ((s.stream n).setMark i (some m.event.1))).raise (.ftch n i m.clip m.serial m.frame tick)
      else s.setStream n ((s.stream n).setMark i (some m.event.1)) := by
  unfold State.evalFetched
  rw [set_]
  exact if_pos due

theorem State.evalFetched_marks {s : State} {m : Mark} (set_ : (s.stream n).marks[i] = some m)
    (due : m.answers .fetched key d = true) :
    (State.evalFetched n key d tick s i).stream n = (s.stream n).setMark i (some m.event.1) := by
  rw [State.evalFetched_event key d tick set_ due]
  split
  · rw [State.stream_congr (State.raise_streams ..), State.setStream_stream]
  · rw [State.setStream_stream]

theorem State.mem_evalFetched {s : State} {x : Notice} (mem : x ∈ (State.evalFetched n key d tick s i).region.notices) :
    x ∈ s.region.notices ∨ x.body.fetchedOf n i := by
  cases set_ : (s.stream n).marks[i] with
  | none =>
    rw [State.evalFetched_none key d tick set_] at mem
    exact .inl mem
  | some m =>
    by_cases due : m.answers .fetched key d = true
    · rw [State.evalFetched_event key d tick set_ due] at mem
      split at mem
      · exact (State.mem_raise mem).imp id fun same => ⟨_, _, _, _, same⟩
      · exact .inl mem
    · rw [State.evalFetched_other key d tick set_ (by simpa using due)] at mem
      exact .inl mem

theorem NoticeBody.fetchedOf_slot {b : NoticeBody} {j : Fin 8} (h : b.fetchedOf n i) (k : b.fetchedOf n j) : i = j := by
  obtain ⟨c, g, f, z, rfl⟩ := h
  obtain ⟨c', g', f', z', same⟩ := k
  exact (NoticeBody.ftch.inj same).2.1

theorem State.evalFetched_otherMark (s : State) {j : Fin 8} (other : j ≠ i) :
    ((State.evalFetched n key d tick s j).stream n).marks[i] = (s.stream n).marks[i] := by
  cases set_ : (s.stream n).marks[j] with
  | none => rw [State.evalFetched_none key d tick set_]
  | some m =>
    by_cases due : m.answers .fetched key d = true
    · rw [State.evalFetched_marks key d tick set_ due]
      exact Vector.getElem_set_ne j.isLt i.isLt fun same => other (Fin.ext same)
    · rw [State.evalFetched_other key d tick set_ (by simpa using due)]

/-- The consultation of another slot (R103). -/
theorem State.Unmarked.evalFetched (s : State) {j : Fin 8} (other : j ≠ i) :
    State.Unmarked n i s (State.evalFetched n key d tick s j) :=
  ⟨State.evalFetched_otherMark key d tick s other, (Calm.evalFetched n key d tick s j).toMild, fun _ mem about =>
    (State.mem_evalFetched key d tick mem).resolve_right fun its => other (NoticeBody.fetchedOf_slot its about)⟩

theorem State.Unmarked.foldl (l : List (Fin 8)) (absent : i ∉ l) (s : State) :
    State.Unmarked n i s (l.foldl (State.evalFetched n key d tick) s) := by
  induction l generalizing s with
  | nil => exact .refl s
  | cons j l ih =>
    obtain ⟨other, rest⟩ := not_or.1 (fun mem => absent (List.mem_cons.2 mem))
    exact (State.Unmarked.evalFetched key d tick s (Ne.symm other)).trans (ih rest _)

/-- The slots before and after one are no event of its mark (R103). -/
theorem State.fetchedMarks_at (s : State) (i : Fin 8) :
    ∃ a : State, State.Unmarked n i s a ∧
      State.Unmarked n i (State.evalFetched n key d tick a i) (s.fetchedMarks n key d tick) := by
  obtain ⟨l, m, split⟩ := List.append_of_mem (show i ∈ allSlots from List.mem_finRange i)
  have nodup : (l ++ i :: m).Nodup := split ▸ List.nodup_finRange 8
  obtain ⟨-, tail, apart⟩ := List.nodup_append.1 nodup
  have all : s.fetchedMarks n key d tick =
      m.foldl (State.evalFetched n key d tick) (State.evalFetched n key d tick (l.foldl (State.evalFetched n key d tick) s) i) := by
    unfold State.fetchedMarks
    rw [split, List.foldl_append]
    rfl
  rw [all]
  exact ⟨_, State.Unmarked.foldl key d tick l (fun mem => apart i mem i (List.mem_cons_self ..) rfl) s,
    State.Unmarked.foldl key d tick m (List.nodup_cons.1 tail).1 _⟩

end

/-! ### The outcome for one slot (R101, R103) -/

theorem condMatches_iff (c : MarkCond) (d : Direction) :
    condMatches c d = true ↔ c = .any ∨ c = .forward ∧ d = .forward ∨ c = .reverse ∧ d = .reverse := by
  cases c with
  | any => simp [condMatches]
  | forward => cases d <;> simp [condMatches]
  | reverse => cases d <;> simp [condMatches]

/-- The mark is consulted (R103). -/
def Mark.Due (m : Mark) (key : FrameKey) (d : Direction) : Prop :=
  m.kind = .fetched ∧ m.clip = key.clip ∧ m.frame = key.frame ∧
    (m.cond = .any ∨ m.cond = .forward ∧ d = .forward ∨ m.cond = .reverse ∧ d = .reverse)

theorem Mark.answers_iff (m : Mark) (key : FrameKey) (d : Direction) : m.answers .fetched key d = true ↔ m.Due key d := by
  unfold Mark.answers Mark.Due
  simp only [Bool.and_eq_true, beq_iff_eq, condMatches_iff, and_assoc]

theorem Mark.answers_undue {m : Mark} {key : FrameKey} {d : Direction} (h : ¬ m.Due key d) : m.answers .fetched key d = false :=
  Bool.eq_false_iff.2 fun answers => h ((m.answers_iff key d).1 answers)

theorem State.fetchedMarks_none {s : State} {n : StreamId} {i : Fin 8} (key : FrameKey) (d : Direction) (tick : Word)
    (none_ : (s.stream n).marks[i] = none) : ((s.fetchedMarks n key d tick).stream n).marks[i] = none := by
  obtain ⟨a, before, after⟩ := State.fetchedMarks_at (n := n) key d tick s i
  rw [after.mark, State.evalFetched_none key d tick (before.mark.trans none_), before.mark, none_]

theorem State.fetchedMarks_mark {s : State} {n : StreamId} {i : Fin 8} {m : Mark} (key : FrameKey) (d : Direction) (tick : Word)
    (set_ : (s.stream n).marks[i] = some m) :
    let fires := m.limit = none ∨ m.limit = some (m.count + 1)
    (m.Due key d → fires →
      (s.fetchedMarks n key d tick).Notified (.ftch n i m.clip m.serial m.frame tick) s.et ∧
        ((s.fetchedMarks n key d tick).stream n).marks[i] = some (if m.limit = none then m else { m with count := 0 })) ∧
    (m.Due key d → ¬ fires → ((s.fetchedMarks n key d tick).stream n).marks[i] = some { m with count := m.count + 1 }) ∧
    (¬ m.Due key d → ((s.fetchedMarks n key d tick).stream n).marks[i] = some m) ∧
    (¬ (m.Due key d ∧ fires) → ∀ b ∈ (s.fetchedMarks n key d tick).region.notices, b.body.fetchedOf n i → b ∈ s.region.notices) := by
  intro fires
  obtain ⟨a, before, after⟩ := State.fetchedMarks_at (n := n) key d tick s i
  generalize s.fetchedMarks n key d tick = u at after ⊢
  have there : (a.stream n).marks[i] = some m := before.mark.trans set_
  have fires_iff : m.event.2 = true ↔ fires := m.event_fires
  have event (due : m.Due key d) : (u.stream n).marks[i] = some m.event.1 := by
    refine after.mark.trans ?_
    rw [State.evalFetched_marks key d tick there ((m.answers_iff key d).2 due)]
    exact Vector.getElem_set_self ..
  refine ⟨fun due fire => ⟨?_, ?_⟩, fun due still => ?_, fun undue => ?_, fun quiet b mem about => ?_⟩
  · have told : (State.evalFetched n key d tick a i).Notified (.ftch n i m.clip m.serial m.frame tick) a.et := by
      rw [State.evalFetched_event key d tick there ((m.answers_iff key d).2 due), if_pos (fires_iff.2 fire)]
      exact State.raise_notified ..
    rw [before.mild.et] at told
    exact told.mild after.mild
  · rw [event due, m.event_mark]
    by_cases unlimited : m.limit = none
    · rw [if_pos unlimited, if_pos unlimited]
    · simp [fire.resolve_left unlimited]
  · obtain ⟨limited, early⟩ := not_or.1 still
    rw [event due, m.event_mark, if_neg limited, if_neg early]
  · rw [after.mark, State.evalFetched_other key d tick there (Mark.answers_undue undue)]
    exact there
  · refine before.notices b ?_ about
    have mid := after.notices b mem about
    by_cases due : m.Due key d
    · have still : ¬ m.event.2 = true := fun fire => quiet ⟨due, fires_iff.1 fire⟩
      rw [State.evalFetched_event key d tick there ((m.answers_iff key d).2 due), if_neg still] at mid
      exact mid
    · rw [State.evalFetched_other key d tick there (Mark.answers_undue due)] at mid
      exact mid

/-- The direction of the only entry of a tick (R90). -/
theorem Stream.directionOf_only {x : Stream} {e : Entry} {tick : Word} (mem : e ∈ x.window) (same : e.tick = tick)
    (only : ∀ z ∈ x.window, z.tick = tick → z = e) : x.directionOf tick = e.direction := by
  unfold Stream.directionOf
  cases found : x.window.find? fun z => z.tick == tick with
  | none =>
    have none_ := List.find?_eq_none.1 found e mem
    simp [same] at none_
  | some z => rw [only z (List.mem_of_find?_eq_some found) (by simpa using List.find?_some found)]

end Sys2Proof.Machine
end

section
/-! SUPPORT. Entries reclaimed from the head of the reclaim list (R111, R112, R121). -/

namespace Sys2Proof.Machine

/-! ### The directory with the first entries of the list reclaimed (R111) -/

/-- The entries that stay when the first `j` of the reclaim list are freed. -/
def State.keptDir (s : State) (j : Nat) : List DirEntry :=
  s.buffer.dir.filter fun y => !(s.buffer.reclaim.take j).contains y.id

/-- The pages of a list of entries. -/
def pagesIn (l : List DirEntry) : Nat := (l.map fun y => y.pages.length).sum

/-- The state of a pass that has taken its last waiter from the list and freed the first `j` entries of the reclaim list. -/
def State.reclaimed (s : State) (j : Nat) : State :=
  { s with
    decoder := { s.decoder with hold := s.decoder.hold.filter fun i => !(s.buffer.reclaim.take j).contains i }
    buffer :=
      { s.buffer with
        dir := s.keptDir j, reclaim := s.buffer.reclaim.drop j, waiters := [], passWanted := decide (0 < j) } }

/-- With the first `j` entries reclaimed there is room enough. -/
def State.Room (s : State) (target j : Nat) : Prop := pagesIn (s.keptDir j) + target ≤ 32768 ∧ (s.keptDir j).length < 4096

theorem State.reclaimed_zero (s : State) : s.reclaimed 0 = s.alone := by
  simp [State.reclaimed, State.keptDir, State.alone]

theorem take_succ_of_drop {l rest : List Nat} {j d : Nat} (h : l.drop j = d :: rest) :
    l.take (j + 1) = l.take j ++ [d] ∧ l.drop (j + 1) = rest := by
  have at_ : l[j]? = some d := by
    rw [← List.head?_drop, h]
    rfl
  refine ⟨?_, ?_⟩
  · rw [List.take_add_one, at_]
    rfl
  · rw [← List.tail_drop, h]
    rfl

theorem filter_taken {α : Type} (l : List α) (f : α → Nat) (t : List Nat) (d : Nat) :
    (l.filter fun y => !t.contains (f y)).filter (fun y => f y != d) = l.filter fun y => !(t ++ [d]).contains (f y) := by
  rw [List.filter_filter]
  refine List.filter_congr fun y _ => ?_
  by_cases same : f y = d
  · simp [same]
  · by_cases mem : f y ∈ t
    · simp [mem]
    · simp [mem, same]

theorem State.freeEntry_reclaimed {s : State} {j d : Nat} {rest : List Nat} (nodup : s.buffer.reclaim.Nodup)
    (next : s.buffer.reclaim.drop j = d :: rest) : (s.reclaimed j).freeEntry d = s.reclaimed (j + 1) := by
  obtain ⟨take, drop⟩ := take_succ_of_drop next
  have absent : d ∉ rest := by
    have tail := nodup.sublist (List.drop_sublist j _)
    rw [next] at tail
    exact (List.nodup_cons.1 tail).1
  have reclaim : (s.buffer.reclaim.drop j).filter (fun i => i != d) = rest := by
    rw [next, List.filter_cons_of_neg (by simp)]
    exact List.filter_eq_self.2 fun i mem => bne_iff_ne.2 fun same => absent (same ▸ mem)
  have hold := filter_taken s.decoder.hold (fun i => i) (s.buffer.reclaim.take j) d
  have dir := filter_taken s.buffer.dir (fun y => y.id) (s.buffer.reclaim.take j) d
  simp only [State.freeEntry, State.reclaimed, State.keptDir, State.setBuffer, State.setDecoder, reclaim, hold, dir, take, drop,
    List.filter_nil, Nat.succ_pos, decide_true]

theorem pagesIn_filter_le (l : List DirEntry) (p : DirEntry → Bool) : pagesIn (l.filter p) ≤ pagesIn l :=
  List.Sublist.sum_le_sum (List.filter_sublist.map _) fun _ _ => Nat.zero_le _

/-- The test of the reclaiming (R111). -/
theorem State.reclaimed_test {s : State} (fits : pagesIn s.buffer.dir ≤ 32768) (target j : Nat) :
    (target ≤ (s.reclaimed j).buffer.freePages ∧ (true = false ∨ 1 ≤ (s.reclaimed j).buffer.freeEntries)) ↔ s.Room target j := by
  have held : (s.reclaimed j).buffer.heldPages = pagesIn (s.keptDir j) := rfl
  have small : pagesIn (s.keptDir j) ≤ 32768 := (pagesIn_filter_le ..).trans fits
  have length : (s.reclaimed j).buffer.dir.length = (s.keptDir j).length := rfl
  rw [FrameBuffer.freePages_eq, FrameBuffer.freeEntries_eq, held, length]
  unfold State.Room
  simp only [Bool.true_eq_false, false_or]
  omega

theorem reclaimLoop_reclaimed {s : State} {target k : Nat} (nodup : s.buffer.reclaim.Nodup) (fits : pagesIn s.buffer.dir ≤ 32768)
    (enough : k ≤ s.buffer.reclaim.length) (room : s.Room target k) (first : ∀ j, j < k → ¬ s.Room target j) (fuel j : Nat)
    (left : k ≤ j + fuel) (before : j ≤ k) : reclaimLoop target true fuel (s.reclaimed j) = s.reclaimed k := by
  induction fuel generalizing j with
  | zero =>
    obtain rfl : j = k := by omega
    rfl
  | succ fuel ih =>
    unfold reclaimLoop
    by_cases done : j = k
    · subst done
      exact if_pos ((State.reclaimed_test fits target j).2 room)
    · rw [if_neg fun test => first j (by omega) ((State.reclaimed_test fits target j).1 test)]
      have some_ : s.buffer.reclaim.drop j ≠ [] := fun none_ => by
        have length := congrArg List.length none_
        simp only [List.length_drop, List.length_nil] at length
        omega
      obtain ⟨d, rest, next⟩ := List.exists_cons_of_ne_nil some_
      have head : (s.reclaimed j).buffer.reclaim = d :: rest := next
      rw [head]
      dsimp only
      rw [State.freeEntry_reclaimed nodup next]
      exact ih (j + 1) (by omega) (by omega)

/-- No more entries are reclaimed than are needed (R111). -/
theorem State.reclaimFor_reclaimed {s : State} {x : Needs} {target k : Nat} (entry : x.entry = true)
    (nodup : s.buffer.reclaim.Nodup) (fits : pagesIn s.buffer.dir ≤ 32768) (enough : k ≤ s.buffer.reclaim.length)
    (room : s.Room target k) (first : ∀ j, j < k → ¬ s.Room target j) : s.alone.reclaimFor x target = s.reclaimed k := by
  have loop := reclaimLoop_reclaimed nodup fits enough room first s.buffer.reclaim.length 0 (by omega) (Nat.zero_le k)
  rw [s.reclaimed_zero] at loop
  unfold State.reclaimFor
  rw [entry]
  exact loop

/-! ### Whether the needs can be met (R111) -/

/-- The pages that the entry with a number holds. -/
def pagesOf (l : List DirEntry) (d : Nat) : Nat :=
  match l.find? fun y => y.id == d with
  | some y => y.pages.length
  | none => 0

theorem FrameBuffer.reclaimPages_eq (b : FrameBuffer) : b.reclaimPages = (b.reclaim.map (pagesOf b.dir)).sum := by
  unfold FrameBuffer.reclaimPages pagesOf
  rfl

theorem pagesIn_without {l : List DirEntry} (nodup : (l.map fun y => y.id).Nodup) (d : Nat) :
    pagesIn l ≤ pagesIn (l.filter fun y => y.id != d) + pagesOf l d := by
  induction l with
  | nil => exact Nat.zero_le _
  | cons y l ih =>
    rw [List.map_cons, List.nodup_cons] at nodup
    obtain ⟨absent, rest⟩ := nodup
    by_cases same : y.id = d
    · have others : l.filter (fun z => z.id != d) = l := List.filter_eq_self.2 fun z mem =>
        bne_iff_ne.2 fun id => absent (List.mem_map.2 ⟨z, mem, id.trans same.symm⟩)
      have here : pagesOf (y :: l) d = y.pages.length := by simp [pagesOf, same]
      rw [List.filter_cons_of_neg (by simp [same]), others, here]
      simp [pagesIn, Nat.add_comm]
    · have there : pagesOf (y :: l) d = pagesOf l d := by simp [pagesOf, same]
      rw [List.filter_cons_of_pos (by simpa using same), there]
      have more := ih rest
      simp only [pagesIn, List.map_cons, List.sum_cons] at more ⊢
      omega

theorem pagesOf_filter_le (l : List DirEntry) (c d : Nat) : pagesOf (l.filter fun y => y.id != c) d ≤ pagesOf l d := by
  unfold pagesOf
  by_cases same : d = c
  · have none_ : (l.filter fun y => y.id != c).find? (fun y => y.id == d) = none := by
      rw [List.find?_eq_none]
      intro y mem
      have other := (List.mem_filter.1 mem).2
      simpa [same] using other
    rw [none_]
    exact Nat.zero_le _
  · have found : (l.filter fun y => y.id != c).find? (fun y => y.id == d) = l.find? fun y => y.id == d := by
      rw [List.find?_filter]
      refine congrArg (fun p => l.find? p) (funext fun y => ?_)
      by_cases id : y.id = d
      · simp [id, same]
      · simp [id]
    rw [found]

theorem pagesIn_reclaim (ids : List Nat) {l : List DirEntry} (nodup : (l.map fun y => y.id).Nodup) :
    pagesIn l ≤ pagesIn (l.filter fun y => !ids.contains y.id) + (ids.map (pagesOf l)).sum := by
  induction ids generalizing l with
  | nil => simp
  | cons d ids ih =>
    have step := pagesIn_without nodup d
    have tail := ih (l := l.filter fun y => y.id != d) (nodup.sublist (List.filter_sublist.map _))
    have twice : ((l.filter fun y => y.id != d).filter fun y => !ids.contains y.id) =
        l.filter fun y => !(d :: ids).contains y.id := by
      rw [List.filter_filter]
      refine List.filter_congr fun y _ => ?_
      by_cases same : y.id = d
      · simp [same]
      · simp [same]
    have less : (ids.map (pagesOf (l.filter fun y => y.id != d))).sum ≤ (ids.map (pagesOf l)).sum :=
      List.sum_le_sum fun c _ => pagesOf_filter_le l d c
    rw [twice] at tail
    rw [List.map_cons, List.sum_cons]
    omega

theorem State.meets_reclaim {s : State} {key : FrameKey} {cls : Cls} {k : Nat} (held : s.decoder.plan key = .held)
    (ids : (s.buffer.dir.map fun y => y.id).Nodup) (fits : pagesIn s.buffer.dir ≤ 32768) (enough : k ≤ s.buffer.reclaim.length)
    (room : s.Room ((s.needs key).target s.buffer.reserve cls) k) : s.meets key cls = true := by
  obtain ⟨pages, entries⟩ := room
  have lost := pagesIn_reclaim (s.buffer.reclaim.take k) ids
  have some_ : ((s.buffer.reclaim.take k).map (pagesOf s.buffer.dir)).sum ≤ s.buffer.reclaimPages := by
    rw [FrameBuffer.reclaimPages_eq]
    exact List.Sublist.sum_le_sum ((List.take_sublist k _).map _) fun _ _ => Nat.zero_le _
  have dir : s.buffer.heldPages = pagesIn s.buffer.dir := rfl
  have kept : s.keptDir k = s.buffer.dir.filter fun y => !(s.buffer.reclaim.take k).contains y.id := rfl
  rw [kept] at pages entries
  refine (State.canMeet_iff (s.needs_entry key)).2 ⟨?_, ?_, ?_⟩
  · rw [State.needs_held held]
    exact Nat.zero_le _
  · rw [dir]
    omega
  · rcases Nat.eq_zero_or_pos k with rfl | positive
    · simp at entries
      omega
    · omega

end Sys2Proof.Machine
end

section
/-! SUPPORT. SERVICE_PASS and the requests it serves (R94, R103, R106, R110, R111, R114, R115). -/

namespace Sys2Proof.Machine

section

variable {s : State} {n : StreamId} {tick : Word} {key : FrameKey} {deadline : Deadline} {cls : Cls}
  (awake : s.region.engine ≠ .halted) (wanted : s.buffer.passWanted = true)
  (only : s.buffer.waiters = [.request n tick key deadline cls])
  (missing : ∀ y ∈ s.buffer.dir, y.key = key → y.state = .failed)

/-- The page target of a request that needs pages, as R111 puts it. -/
def pageTarget (pages reserve : Nat) (cls : Cls) : Nat := (⟨true, pages, 0⟩ : Needs).target reserve cls

theorem State.target_held (held : s.decoder.plan key = .held ∨ ∃ ps, s.decoder.plan key = .mapped ps) :
    (s.needs key).target s.buffer.reserve cls = pageTarget (pageCount (s.clip key.clip).bytes) s.buffer.reserve cls := by
  rcases held with held | ⟨ps, mapped⟩
  · rw [State.needs_held held]
    rfl
  · rw [State.needs_mapped mapped]
    rfl

/-- The state once a held frame has its entry and its pages and its request is answered (R25, R115). -/
def State.withHeld (s : State) (n : StreamId) (tick : Word) (key : FrameKey) (deadline : Deadline) (cls : Cls) (bytes : Nat) :
    State :=
  ((s.setDecoder { s.decoder with hold := s.decoder.hold ++ [s.buffer.takeEntry] }).addEntry
    (newEntry s.buffer.takeEntry .filling key bytes (s.buffer.takePages (pageCount bytes)) .held deadline cls none)).answer n
      tick .fetching s.buffer.takeEntry

/-- Pages and an entry taken where there is room (R104). -/
theorem FrameBuffer.takes_spec {b : FrameBuffer} {pages target : Nat} (less : pages ≤ target) (room : b.heldPages + target ≤ 32768)
    (entry : b.dir.length < 4096) :
    b.takeEntry < 4096 ∧ (∀ y ∈ b.dir, y.id ≠ b.takeEntry) ∧ (b.takePages pages).length = pages ∧ (b.takePages pages).Nodup ∧
      ∀ p ∈ b.takePages pages, p < 32768 ∧ ∀ y ∈ b.dir, p ∉ y.pages := by
  obtain ⟨small, apart⟩ := FrameBuffer.takeEntry_spec entry
  exact ⟨small, apart, FrameBuffer.takePages_spec (by omega)⟩

theorem pages_le_pageTarget (pages reserve : Nat) (cls : Cls) : pages ≤ pageTarget pages reserve cls :=
  Needs.pages_le_target ⟨true, pages, 0⟩ reserve cls

/-- Pages or records are short with nothing to reclaim (R110, R111). -/
theorem State.meets_short (held : s.decoder.plan key = .held ∨ ∃ ps, s.decoder.plan key = .mapped ps)
    (none_ : s.buffer.reclaim = [])
    (short : pageCount (s.clip key.clip).bytes ≠ 0 ∧
        32768 < s.buffer.heldPages + pageTarget (pageCount (s.clip key.clip).bytes) s.buffer.reserve cls ∨
      ∃ ps, s.decoder.plan key = .mapped ps ∧ ps ≠ [] ∧ 8192 < s.dispatcher.chunks.length + ps.length) :
    s.meets key cls = false := by
  rw [Bool.eq_false_iff]
  intro meets
  obtain ⟨records, pages, -⟩ := (State.canMeet_iff (s.needs_entry key)).1 meets
  have reclaim : s.buffer.reclaimPages = 0 := by
    unfold FrameBuffer.reclaimPages
    rw [none_]
    rfl
  rw [State.target_held held, reclaim] at pages
  rcases short with ⟨some_, over_⟩ | ⟨ps, mapped, some_, over_⟩
  · have less := pages_le_pageTarget (pageCount (s.clip key.clip).bytes) s.buffer.reserve cls
    omega
  · rw [State.needs_mapped mapped] at records
    have positive := List.length_pos_of_ne_nil some_
    dsimp only at records
    omega

include only missing

/-- A request whose frame is held, with none but SHOWN marks (R25, R103, R115). -/
theorem State.servicePass_withHeld {r : State} (held : s.decoder.plan key = .held) (meets : s.meets key cls = true)
    (room : s.pass.state.roomFor n tick key cls = r) (gone : r.buffer.waiters = [])
    (shown : ∀ (i : Fin 8) (m : Mark), (r.stream n).marks[i] = some m → m.kind = .shown) :
    s.servicePass = r.withHeld n tick key deadline cls (s.clip key.clip).bytes :=
  (State.servicePass_held only missing held meets room gone).trans (State.allocated_shown n tick _ gone shown)

include awake wanted

/-- The FETCHED marks of an allocation (R103). -/
theorem State.servicePass_marks {e : Entry} (entry : s.buffer.dir.length < 4096) (held : s.decoder.plan key = .held)
    (mem : e ∈ (s.stream n).window) (same : e.tick = tick) (unique : ∀ z ∈ (s.stream n).window, z.tick = tick → z = e)
    (pages : s.buffer.heldPages + (s.needs key).target s.buffer.reserve cls ≤ 32768) :
    ∃ t : State, exec .servicePass s = .next (t.fetchedMarks n key e.direction tick).wakeAll ∧ t.region = s.region ∧
      t.et = s.et ∧ (t.stream n).marks = (s.stream n).marks := by
  have meets : s.meets key cls = true :=
    State.meets_room (by rw [State.needs_held held]; exact Nat.zero_le _) pages entry
  have pass := State.servicePass_held only missing held meets (State.roomFor_room only pages entry) rfl
  rw [State.allocated_alone n tick _ rfl] at pass
  rw [exec_servicePass awake wanted, pass]
  have stream (b : State) (d : Nat) : (b.answer n tick .fetching d).stream n =
      { b.stream n with
        window := (b.stream n).window.map fun z => if z.tick = tick then { z with stage := .fetching, ref := some d } else z } :=
    State.setStream_stream ..
  have direction (b : State) (d : Nat) (window : (b.stream n).window = (s.stream n).window) :
      ((b.answer n tick .fetching d).stream n).directionOf tick = e.direction := by
    rw [stream]
    refine Stream.directionOf_only (e := { e with stage := .fetching, ref := some d }) ?_ same fun z there at_ => ?_
    · exact List.mem_map.2 ⟨e, window ▸ mem, if_pos same⟩
    · obtain ⟨w, old, rfl⟩ := List.mem_map.1 there
      by_cases here : w.tick = tick
      · rw [if_pos here, unique w (window ▸ old) here]
      · rw [if_neg here] at at_
        exact absurd at_ here
  refine ⟨_, congrArg (fun d => Host.Outcome.next (State.wakeAll (State.fetchedMarks _ n key d tick))) (direction _ _ rfl), rfl,
    rfl, ?_⟩
  rw [stream]
  rfl

end

end Sys2Proof.Machine
end

section
/-! SUPPORT. SERVICE_PASS, put together (R114). -/

namespace Sys2Proof.Machine

/-- Settles O44. -/
theorem servicePassServesARequest : Obligations.ServicePassServesARequest := by
  unfold Obligations.ServicePassServesARequest
  refine ⟨fun s idle => ?_, fun s settled awake wanted none_ => ?_, fun n tick key deadline cls s awake wanted only missing entry => ?_,
    fun n k tick next key other d e s awake wanted two apart missing entry none_ held lost => ?_,
    fun n tick deadline cls y s awake wanted only entry quiet fresh live unique => ?_,
    fun n tick key deadline cls k s awake wanted only missing held ids nodup _ fits shown => ?_,
    fun n tick key deadline cls e s awake wanted only missing entry held mem same unique => ?_⟩
  · refine congrArg Host.Outcome.next (if_pos ?_)
    rcases idle with halted | unwanted
    · simp [State.halted, halted]
    · simp [unwanted]
  · rw [exec_servicePass awake wanted, State.servicePass_none none_]
    exact congrArg _ (wakeAll_settled (settled_of_streams settled rfl rfl))
  · dsimp only
    rw [exec_servicePass awake wanted, ← pageCount_eq]
    refine ⟨fun lost => ?_, fun held shown room => ?_, fun held none_ short => ?_⟩
    · obtain ⟨small, apart⟩ := FrameBuffer.takeEntry_spec entry
      refine ⟨s.buffer.takeEntry, small, apart, ?_⟩
      rw [State.servicePass_unmapped only missing lost entry]
      refine congrArg (fun t : State => Host.Outcome.next t.wakeAll) (State.answer_eq ?_ tick .failed _)
      exact State.stream_congr (State.raise_streams ..) n
    · have room' : s.buffer.heldPages + (s.needs key).target s.buffer.reserve cls ≤ 32768 := by
        rw [State.target_held (.inl held)]
        exact room
      have meets : s.meets key cls = true := State.meets_room (by rw [State.needs_held held]; exact Nat.zero_le _) room' entry
      obtain ⟨small, apart, count, nodup, free⟩ := FrameBuffer.takes_spec
        (pages_le_pageTarget (pageCount (s.clip key.clip).bytes) s.buffer.reserve cls) room entry
      refine ⟨s.buffer.takeEntry, s.buffer.takePages (pageCount (s.clip key.clip).bytes), small, apart, count, nodup, free, ?_⟩
      rw [State.servicePass_withHeld only missing held meets (State.roomFor_room only room' entry) rfl shown]
      rfl
    · have meets := State.meets_short (cls := cls) held none_ short
      rw [State.servicePass_waits only missing meets]
      rfl
  · dsimp only
    rw [← pageCount_eq]
    intro some_ room short
    have kept : s.meets key .scrub = false := by
      refine State.meets_short (.inl held) none_ (.inl ⟨some_, ?_⟩)
      change 32768 < s.buffer.heldPages + (if _ = 0 then 0 else _)
      rw [if_neg some_, ← Nat.add_assoc]
      exact short
    have play : s.meets key .play = true := by
      refine State.meets_room (by rw [State.needs_held held]; exact Nat.zero_le _) ?_ entry
      rw [State.target_held (.inl held)]
      change s.buffer.heldPages + (if _ = 0 then 0 else _) ≤ 32768
      rw [if_neg some_]
      exact room
    obtain ⟨small, free⟩ := FrameBuffer.takeEntry_spec entry
    refine ⟨s.buffer.takeEntry, small, free, ?_⟩
    rw [exec_servicePass awake wanted, State.servicePass_reserve two apart missing entry kept play lost]
    rfl
  · dsimp only
    rw [exec_servicePass awake wanted, State.servicePass_hit only entry quiet fresh live unique]
    have stage : y.stageOf = if y.state = .ready then .ready else .fetching := by
      unfold DirEntry.stageOf
      cases state : y.state with
      | filling => rfl
      | ready => rfl
      | failed => exact absurd state live
    rw [stage]
    rfl
  · dsimp only
    rw [← pageCount_eq]
    intro enough room first
    have target := State.target_held (s := s) (cls := cls) (.inl held)
    have room' : s.Room ((s.needs key).target s.buffer.reserve cls) k := by
      rw [target]
      exact room
    have roomFor : s.pass.state.roomFor n tick key cls = s.reclaimed k := by
      rw [State.roomFor_alone only]
      refine State.reclaimFor_reclaimed (s.needs_entry key) nodup fits enough room' fun j early => ?_
      rw [target]
      exact first j early
    obtain ⟨pages, entries⟩ := room
    obtain ⟨small, apart, count, distinct, free⟩ := FrameBuffer.takes_spec (b := (s.reclaimed k).buffer)
      (pages_le_pageTarget (pageCount (s.clip key.clip).bytes) s.buffer.reserve cls) pages entries
    refine ⟨(s.reclaimed k).buffer.takeEntry, (s.reclaimed k).buffer.takePages (pageCount (s.clip key.clip).bytes), small, apart,
      count, distinct, free, ?_⟩
    rw [exec_servicePass awake wanted,
      State.servicePass_withHeld only missing held (State.meets_reclaim held ids fits enough room') roomFor rfl shown]
    rfl
  · dsimp only
    rw [← pageCount_eq]
    intro pages
    obtain ⟨t, pass, region, et, marks⟩ := State.servicePass_marks awake wanted only missing entry held mem same unique (by
      rw [State.target_held (.inl held)]
      exact pages)
    refine ⟨_, pass, fun i => ⟨fun none_ => ?_, fun m set_ => ?_⟩⟩
    · exact State.fetchedMarks_none key e.direction tick (by rw [marks]; exact none_)
    · obtain ⟨fires, early, undue, quiet⟩ := State.fetchedMarks_mark (s := t) (n := n) (i := i) (m := m) key e.direction tick
        (by rw [marks]; exact set_)
      rw [et] at fires
      rw [region] at quiet
      exact ⟨fires, early, undue, fun still c g f z at_ there => quiet still _ there ⟨c, g, f, z, rfl⟩⟩

end Sys2Proof.Machine
end

section
/-! SUPPORT. A production of a frame, each of its chunks on a TRAINING link (R24, R26, R32, R115, R117, R129). -/

namespace Sys2Proof.Machine

/-- The record of a piece's chunk in its member's queue (R24, R129). -/
def Piece.queued (p : Piece) (e : DirEntry) (arrival : BitVec 64) : Chunk := { p.toChunk e with arrival := arrival, state := .queued }

/-- The pieces are counted for their layout entries (R32). -/
theorem State.countPieces_eq (ps : List Piece) (s : State) :
    ∃ dec : Decoder, ps.foldl State.countPiece s = { s with decoder := dec } ∧
      ∀ e : Fin 16, dec.layout[e].inFlight = s.decoder.layout[e].inFlight + ps.countP fun p => p.layout = e := by
  induction ps generalizing s with
  | nil => exact ⟨s.decoder, rfl, fun _ => rfl⟩
  | cons p ps ih =>
    obtain ⟨dec, fold, counts⟩ := ih (s.countPiece p)
    refine ⟨dec, fold, fun e => ?_⟩
    rw [counts e, List.countP_cons]
    by_cases same : p.layout = e
    · subst same
      have here : (s.countPiece p).decoder.layout[p.layout] =
          { s.decoder.layout[p.layout] with inFlight := s.decoder.layout[p.layout].inFlight + 1 } := Vector.getElem_set_self ..
      rw [here]
      simp only [decide_true, if_true]
      omega
    · have there : (s.countPiece p).decoder.layout[e] = s.decoder.layout[e] :=
        Vector.getElem_set_ne p.layout.isLt e.isLt fun id => same (Fin.ext id)
      rw [there]
      simp [same]

/-- A piece joins the queue of a TRAINING member, which issues nothing (R129, R132). -/
theorem State.joinPiece_training {s : State} {d : Nat} {e : DirEntry} {p : Piece} (found : s.dirEntry d = some e) (id : e.id = d)
    (filling : e.state = .filling) (used : e.users ≠ 0) (training : (s.member p.member).link = .training)
    (fresh : ∀ c ∈ s.dispatcher.chunks, c.frame = d → c.offset ≠ p.offset) :
    State.joinPiece d s p =
      { s with
        dispatcher :=
          { s.dispatcher with
            chunks := s.dispatcher.chunks ++ [p.queued e s.dispatcher.arrival], arrival := s.dispatcher.arrival + 1 } } := by
  have kept : (s.dispatcher.chunks.filter fun z => !(z.frame == e.id && z.offset == p.offset)) = s.dispatcher.chunks :=
    List.filter_eq_self.2 fun c mem => by
      have other := fresh c mem
      rw [id]
      by_cases frame : c.frame = d
      · simp [frame, other frame]
      · simp [frame]
  have again : s.queuedAgain (p.toChunk e) =
      { s with
        dispatcher :=
          { s.dispatcher with
            chunks := s.dispatcher.chunks ++ [p.queued e s.dispatcher.arrival], arrival := s.dispatcher.arrival + 1 } } := by
    change { s with
        dispatcher :=
          { s.dispatcher with
            chunks := (s.dispatcher.chunks.filter fun z : Chunk => !(z.frame == e.id && z.offset == p.offset)) ++
              [p.queued e s.dispatcher.arrival]
            arrival := s.dispatcher.arrival + 1 } } = _
    rw [kept]
  have joined : s.join (p.toChunk e) = (s.queuedAgain (p.toChunk e)).opportunity p.member :=
    State.joinBy_queued State.failOn (y := e) (by rw [← found, ← id]; rfl) filling used rfl (.inr training)
  have idle : ((s.queuedAgain (p.toChunk e)).member p.member).link ≠ .up := by
    change (s.member p.member).link ≠ .up
    rw [training]
    exact fun h => nomatch h
  unfold State.joinPiece
  rw [found]
  dsimp only
  rw [joined, State.opportunity_idle idle, again]

/-- The pieces join in frame order (R24, R129). -/
theorem State.joinPieces_training {d : Nat} {e : DirEntry} (id : e.id = d) (filling : e.state = .filling) (used : e.users ≠ 0)
    (ps : List Piece) (nodup : (ps.map Piece.offset).Nodup) {s : State} (found : s.dirEntry d = some e)
    (training : ∀ p ∈ ps, (s.member p.member).link = .training)
    (fresh : ∀ c ∈ s.dispatcher.chunks, c.frame = d → ∀ p ∈ ps, c.offset ≠ p.offset) :
    ps.foldl (State.joinPiece d) s =
      { s with
        dispatcher :=
          { s.dispatcher with
            chunks := s.dispatcher.chunks ++ ps.mapIdx fun i p => p.queued e (s.dispatcher.arrival + BitVec.ofNat 64 i)
            arrival := s.dispatcher.arrival + BitVec.ofNat 64 ps.length } } := by
  induction ps generalizing s with
  | nil => simp
  | cons p ps ih =>
    obtain ⟨absent, rest⟩ := List.nodup_cons.1 nodup
    have step := State.joinPiece_training (p := p) found id filling used (training p (List.mem_cons_self ..)) fun c mem frame =>
      fresh c mem frame p (List.mem_cons_self ..)
    set t : State := { s with
      dispatcher :=
        { s.dispatcher with
          chunks := s.dispatcher.chunks ++ [p.queued e s.dispatcher.arrival], arrival := s.dispatcher.arrival + 1 } }
    have tail := ih rest (s := t) found (fun q mem => training q (List.mem_cons_of_mem _ mem)) fun c mem frame q there => by
      rcases List.mem_append.1 mem with old | new
      · exact fresh c old frame q (List.mem_cons_of_mem _ there)
      · obtain rfl := List.mem_singleton.1 new
        exact fun same => absent (List.mem_map.2 ⟨q, there, same.symm⟩)
    have arrival (i : Nat) : s.dispatcher.arrival + 1 + BitVec.ofNat 64 i = s.dispatcher.arrival + BitVec.ofNat 64 (i + 1) := by
      rw [BitVec.ofNat_add, BitVec.add_assoc, BitVec.add_comm 1 (BitVec.ofNat 64 i)]
      rfl
    have none_ : s.dispatcher.arrival + BitVec.ofNat 64 0 = s.dispatcher.arrival := BitVec.add_zero _
    rw [List.foldl_cons, step, tail, List.mapIdx_cons]
    simp only [t, arrival, List.length_cons, List.append_assoc, List.singleton_append, none_]

/-- The entry of a production that has been made (R115). -/
def DirEntry.producedAs (e : DirEntry) (n : Nat) : DirEntry := { e with decoding := .produced, total := n, unsettled := n }

/-- A production of a frame whose entry is the last of the directory (R26, R32, R129). -/
theorem State.produce_training {s : State} {l : List DirEntry} {e : DirEntry} {ps : List Piece} (dir : s.buffer.dir = l ++ [e])
    (fresh : ∀ y ∈ l, y.id ≠ e.id) (filling : e.state = .filling) (used : e.users ≠ 0) (mapped : s.decoder.plan e.key = .mapped ps)
    (nodup : (ps.map Piece.offset).Nodup) (training : ∀ p ∈ ps, (s.member p.member).link = .training)
    (others : ∀ c ∈ s.dispatcher.chunks, c.frame ≠ e.id) :
    ∃ dec : Decoder, (∀ i : Fin 16, dec.layout[i].inFlight = s.decoder.layout[i].inFlight + ps.countP fun p => p.layout = i) ∧
      s.produce e.id ps.length =
        { s with
          decoder := dec
          buffer := { s.buffer with dir := l ++ [e.producedAs ps.length] }
          dispatcher :=
            { s.dispatcher with
              chunks := s.dispatcher.chunks ++ ps.mapIdx fun i p =>
                p.queued (e.producedAs ps.length) (s.dispatcher.arrival + BitVec.ofNat 64 i)
              arrival := s.dispatcher.arrival + BitVec.ofNat 64 ps.length } } := by
  have last {x : DirEntry} (same : x.id = e.id) : (l ++ [x]).find? (fun y => y.id == e.id) = some x := by
    have none_ : l.find? (fun y => y.id == e.id) = none := List.find?_eq_none.2 fun y mem => by simpa using fresh y mem
    rw [List.find?_append, none_]
    simp [same]
  have found : s.dirEntry e.id = some e := by
    unfold State.dirEntry
    rw [dir]
    exact last rfl
  have replaced : (s.buffer.dir.map fun y => if y.id = e.id then e.producedAs ps.length else y) = l ++ [e.producedAs ps.length] := by
    rw [dir, List.map_append, (List.map_congr_left fun y mem => if_neg (fresh y mem)).trans (List.map_id' l)]
    simp
  obtain ⟨dec, counted, counts⟩ := State.countPieces_eq ps s
  refine ⟨dec, counts, ?_⟩
  set t : State := { s with decoder := dec, buffer := { s.buffer with dir := l ++ [e.producedAs ps.length] } }
  have set_ : (ps.foldl State.countPiece s).setDir (e.producedAs ps.length) = t := by
    rw [counted]
    unfold State.setDir
    change { s with
      decoder := dec
      buffer := { s.buffer with dir := s.buffer.dir.map fun y => if y.id = e.id then e.producedAs ps.length else y } } = t
    rw [replaced]
  have joined := State.joinPieces_training (d := e.id) (e := e.producedAs ps.length) rfl filling used ps nodup (s := t) (last rfl)
    training fun c mem frame => absurd frame (others c mem)
  unfold State.produce
  rw [found]
  dsimp only
  rw [mapped]
  exact (if_pos rfl).trans ((congrArg (List.foldl (State.joinPiece e.id) · ps) set_).trans joined)

/-- The state as a request's entry leaves FREE and the request is answered (R115). -/
def State.withFilling (s : State) (n : StreamId) (tick : Word) (e : DirEntry) : State :=
  (s.alone.addEntry e).answer n tick .fetching e.id

theorem State.withFilling_calm (s : State) (n : StreamId) (tick : Word) (e : DirEntry) :
    Calm (fun k => k = n) s (s.withFilling n tick e) :=
  ((Calm.setBuffer s { s.buffer with waiters := [], passWanted := false }).trans
    (Calm.setBuffer s.alone { s.alone.buffer with dir := s.alone.buffer.dir ++ [e] })).trans (Calm.changeEntry _ n tick _ rfl)

/-- Settles O45. -/
theorem servicePassDecodesAFrame : Obligations.ServicePassDecodesAFrame := by
  unfold Obligations.ServicePassDecodesAFrame
  intro n tick key deadline cls ps s awake wanted only missing entry mapped nodup training shown frames records
  dsimp only
  rw [← pageCount_eq]
  intro room
  have room' : s.buffer.heldPages + (s.needs key).target s.buffer.reserve cls ≤ 32768 := by
    rw [State.target_held (.inr ⟨ps, mapped⟩)]
    exact room
  have meets : s.meets key cls = true := State.meets_room (by rw [State.needs_mapped mapped]; dsimp only; omega) room' entry
  obtain ⟨small, apart, count, distinct, free⟩ := FrameBuffer.takes_spec
    (pages_le_pageTarget (pageCount (s.clip key.clip).bytes) s.buffer.reserve cls) room entry
  set id := s.buffer.takeEntry
  set pages := s.buffer.takePages (pageCount (s.clip key.clip).bytes)
  set e : DirEntry := newEntry id .filling key (s.clip key.clip).bytes pages .awaiting deadline cls none
  obtain ⟨dec, counts, made⟩ := State.produce_training (s := s.withFilling n tick e) (l := s.buffer.dir) (e := e) rfl apart rfl
    Nat.one_ne_zero mapped nodup training fun c mem frame => by
      obtain ⟨y, inDir, same⟩ := frames c mem
      exact apart y inDir (same.trans frame)
  have served : s.pass.state.serveRequest n tick key deadline cls = (s.withFilling n tick e).produce e.id ps.length := by
    refine (State.serveRequest_mapped (s := s.pass.state) mapped (State.roomFor_room only room' entry)).trans ?_
    exact congrArg (fun t : State => t.produce id ps.length) (State.allocated_shown (s := s.alone) n tick e rfl shown)
  have calm := (s.withFilling_calm n tick e).trans (Calm.produce (s.withFilling n tick e) e.id ps.length)
  rw [made] at served calm
  refine ⟨id, pages, _, ?_, small, apart, count, distinct, free, calm, rfl, rfl, counts, State.setStream_stream ..⟩
  rw [exec_servicePass awake wanted, State.servicePass_serves only missing meets served rfl]

end Sys2Proof.Machine
end
